-- ==== Sys2Proof/Word.lean ====
section
/-!
DEFINITION. The word types of the HX4, the plainest arithmetic on words, and the small closed types that
the machine state names.
-/

namespace Sys2Proof

/-- A 64-bit register or memory word (R115). -/
abbrev Word := BitVec 64

/-- One byte of memory (R175). -/
abbrev Byte := BitVec 8

/-- Bits [hi:lo] of a natural number, right-aligned: the manual's `bits(x, hi, lo)` (R14). -/
def bits (x hi lo : Nat) : Nat := (x >>> lo) % 2 ^ (hi + 1 - lo)

/-- One bit of a natural number as a truth value. -/
def bit (x n : Nat) : Bool := (x >>> n) % 2 == 1

/-- `x` taken as a `w`-bit field, as a two's-complement integer (R14, R229). -/
def toS (x w : Nat) : Int :=
  if x % 2 ^ w < 2 ^ (w - 1) then (x % 2 ^ w : Nat) else (x % 2 ^ w : Nat) - (2 ^ w : Nat)

/-- An integer reduced modulo 2^w, as a natural number (R149). -/
def wrapN (x : Int) (w : Nat) : Nat := (x % (2 ^ w : Nat)).toNat

/-- `x` taken as a `w`-bit field and extended with its sign to 64 bits (R14). -/
def sext64 (x w : Nat) : Word := BitVec.ofInt 64 (toS x w)

/-- `x` taken as a `w`-bit field and extended with zeros to 64 bits (R14). -/
def zext64 (x w : Nat) : Word := BitVec.ofNat 64 (x % 2 ^ w)

/-- `a` rounded up to a multiple of `b`, divided by `b`: the manual's `ceil(a / b)`. -/
def ceilDiv (a b : Nat) : Nat := (a + b - 1) / b

/-- The read-modify-write operations of AMO (R205, R236, R237). -/
inductive AtomOp where
  | swap | add | and | or | xor | min | max | minu | maxu | cas | ld | st
  deriving DecidableEq, Repr

/-- Who waits for a future word (R53): a group, one of its independent VPs, an element of one of its
vector waits, a release queue of the I/O die (R417), or a waiter of another node, by a number of its own. -/
inductive Waiter where
  | group (gid : Nat)
  | vp (gid vp : Nat)
  | elem (gid e : Nat)
  | queue (r : Nat)
  | peer (node n : Nat)
  deriving DecidableEq, Repr

/-- A request that a peer device sends to a line of this device (R59, R489). -/
inductive PeerReq where
  | read (pa n : Nat)
  | write (pa n val : Nat)
  | atomic (op : AtomOp) (pa n a b : Nat)
  | mill (pa tag fmode addend : Nat)
  | load (pa : Nat) (emptying : Bool)
  | fill (pa val : Nat)
  deriving DecidableEq, Repr

/-- One entry of a strip queue: element count, tag and element patterns with their poison, or an end marker
(R140, R141, R143). -/
inductive StripEntry where
  | data (n tag : Nat) (vals : List (Nat × Bool))
  | endMark
  deriving DecidableEq, Repr

/-- A unit that the device repairs (R442, R440 KIND 0x0E): its unit code's operands are its die, core or
port and its index within it. -/
inductive RepairUnit where
  | lane (core phys : Nat)
  | l2way (slice set : Nat)
  | hbmRow (stack row : Nat)
  | pseudoChannel (stack pc : Nat)
  | serdes (port lane : Nat)
  deriving DecidableEq, Repr

/-- What an error in a slice's own state loses of a line (R445); nothing of any line where it lies in Pound state or
in the tag of a way that holds none. -/
inductive LostState where
  | data | feBit (word : Nat) | ration | nothing
  deriving DecidableEq, Repr

/-- Where an error lies (R39, R424): nowhere that holds data; in a granule of a row of the lane named, granule 8 its
sideband, `pass` numbering the rows of a virtual lane; in mask storage; in an accumulator element of a group's handle;
in an x or h register of a group; in the data of an L2 line. -/
inductive ErrorAt where
  | none
  | row (row pass gran : Nat)
  | mask (m gran : Nat)
  | acc (gid z i j : Nat)
  | x (gid r : Nat)
  | h (gid r : Nat)
  | line (l : Nat)
  deriving DecidableEq, Repr

end Sys2Proof
end

