-- ==== Sys2Proof/Syntax.lean ====
section
/-!
DEFINITION. The abstract syntax: one constructor for every row of spec/opcode_table.json.

The first 234 constructors are the words of Cledezil; their arguments are the fields of the row, under the
row's own letters (`d` a destination, `a` and `b` sources, `m` the mask field, `c` the convoy bit, `k` the
scalar-operand bit fn[6], `p` the scratchpad bit mode[3]). The other constructors are the steps of the
device's units, which have no encoding; the message in the state (`State.msg`) names the unit, group, line
or value that such a step acts on.
-/

namespace Sys2Proof

/-- An instruction of the control thread or of an AIB body, or one step of a unit of the device. -/
inductive Instr where
  /-- ADD (R230). Sets x[rd] to x[rs1] + x[rs2] modulo 2^64. -/
  | add (d : Fin 32) (a : Fin 32) (b : Fin 32)
  /-- SUB (R230). Sets x[rd] to x[rs1] - x[rs2] modulo 2^64. -/
  | sub (d : Fin 32) (a : Fin 32) (b : Fin 32)
  /-- AND (R230). Sets x[rd] to the bitwise and of x[rs1] and x[rs2]. -/
  | and (d : Fin 32) (a : Fin 32) (b : Fin 32)
  /-- OR (R230). Sets x[rd] to the bitwise or of x[rs1] and x[rs2]. -/
  | or (d : Fin 32) (a : Fin 32) (b : Fin 32)
  /-- XOR (R230). Sets x[rd] to the bitwise exclusive or of x[rs1] and x[rs2]. -/
  | xor (d : Fin 32) (a : Fin 32) (b : Fin 32)
  /-- SLL (R230). Shifts x[rs1] left by x[rs2] bits [5:0]. -/
  | sll (d : Fin 32) (a : Fin 32) (b : Fin 32)
  /-- SRL (R230). Shifts x[rs1] right logically by x[rs2] bits [5:0]. -/
  | srl (d : Fin 32) (a : Fin 32) (b : Fin 32)
  /-- SRA (R230). Shifts x[rs1] right arithmetically by x[rs2] bits [5:0]. -/
  | sra (d : Fin 32) (a : Fin 32) (b : Fin 32)
  /-- SLT (R230). Sets x[rd] to 1 when x[rs1] is less than x[rs2] as signed values. -/
  | slt (d : Fin 32) (a : Fin 32) (b : Fin 32)
  /-- SLTU (R230). Sets x[rd] to 1 when x[rs1] is less than x[rs2] as unsigned values. -/
  | sltu (d : Fin 32) (a : Fin 32) (b : Fin 32)
  /-- MUL (R230). Sets x[rd] to the low 64 bits of x[rs1] times x[rs2]. -/
  | mul (d : Fin 32) (a : Fin 32) (b : Fin 32)
  /-- MULH (R230). Sets x[rd] to the high 64 bits of the signed product. -/
  | mulh (d : Fin 32) (a : Fin 32) (b : Fin 32)
  /-- MULHU (R230). Sets x[rd] to the high 64 bits of the unsigned product. -/
  | mulhu (d : Fin 32) (a : Fin 32) (b : Fin 32)
  /-- DIV (R230). Signed division truncated toward zero, with the R149 results for zero and overflow. -/
  | div (d : Fin 32) (a : Fin 32) (b : Fin 32)
  /-- DIVU (R230). Unsigned division truncated toward zero; a divisor of 0 gives all ones. -/
  | divu (d : Fin 32) (a : Fin 32) (b : Fin 32)
  /-- REM (R230). Signed remainder consistent with div. -/
  | rem (d : Fin 32) (a : Fin 32) (b : Fin 32)
  /-- REMU (R230). Unsigned remainder consistent with divu. -/
  | remu (d : Fin 32) (a : Fin 32) (b : Fin 32)
  /-- MIN (R230). Sets x[rd] to the signed lesser of the two sources. -/
  | min (d : Fin 32) (a : Fin 32) (b : Fin 32)
  /-- MAX (R230). Sets x[rd] to the signed greater of the two sources. -/
  | max (d : Fin 32) (a : Fin 32) (b : Fin 32)
  /-- MINU (R230). Sets x[rd] to the unsigned lesser of the two sources. -/
  | minu (d : Fin 32) (a : Fin 32) (b : Fin 32)
  /-- MAXU (R230). Sets x[rd] to the unsigned greater of the two sources. -/
  | maxu (d : Fin 32) (a : Fin 32) (b : Fin 32)
  /-- CLZ (R230). Counts the zero bits above the highest 1 of x[rs1], 64 for zero. -/
  | clz (d : Fin 32) (a : Fin 32)
  /-- CTZ (R230). Counts the zero bits below the lowest 1 of x[rs1], 64 for zero. -/
  | ctz (d : Fin 32) (a : Fin 32)
  /-- POPC (R230). Counts the 1 bits of x[rs1]. -/
  | popc (d : Fin 32) (a : Fin 32)
  /-- ADDI (R231). Adds the sign-extended imm16 to x[rs1]. -/
  | addi (d : Fin 32) (a : Fin 32) (i : Fin 65536)
  /-- ANDI (R231). Ands x[rs1] with the zero-extended imm16. -/
  | andi (d : Fin 32) (a : Fin 32) (i : Fin 65536)
  /-- ORI (R231). Ors x[rs1] with the zero-extended imm16. -/
  | ori (d : Fin 32) (a : Fin 32) (i : Fin 65536)
  /-- XORI (R231). Exclusive-ors x[rs1] with the zero-extended imm16. -/
  | xori (d : Fin 32) (a : Fin 32) (i : Fin 65536)
  /-- SLLI (R231). Shifts x[rs1] left by the immediate amount. -/
  | slli (d : Fin 32) (a : Fin 32) (s : Fin 64)
  /-- SRLI (R231). Shifts x[rs1] right logically by the immediate amount. -/
  | srli (d : Fin 32) (a : Fin 32) (s : Fin 64)
  /-- SRAI (R231). Shifts x[rs1] right arithmetically by the immediate amount. -/
  | srai (d : Fin 32) (a : Fin 32) (s : Fin 64)
  /-- SLTI (R231). Sets x[rd] to 1 when x[rs1] is below the signed immediate. -/
  | slti (d : Fin 32) (a : Fin 32) (i : Fin 65536)
  /-- LDHI (R231). Loads sext(imm21) times 2^16 into x[rd]. -/
  | ldhi (d : Fin 32) (i : Fin 2097152)
  /-- ADPC (R231). Writes pc plus sext(imm21) times 2^16 to x[rd]. -/
  | adpc (d : Fin 32) (i : Fin 2097152)
  /-- BEQ (R232). Branches when x[rs1] equals x[rs2], with the target checked under R233. -/
  | beq (a : Fin 32) (b : Fin 32) (o : Fin 65536)
  /-- BNE (R232). Branches when x[rs1] differs from x[rs2]. -/
  | bne (a : Fin 32) (b : Fin 32) (o : Fin 65536)
  /-- BLT (R232). Branches when x[rs1] is less than x[rs2] as signed values. -/
  | blt (a : Fin 32) (b : Fin 32) (o : Fin 65536)
  /-- BGE (R232). Branches when x[rs1] is at least x[rs2] as signed values. -/
  | bge (a : Fin 32) (b : Fin 32) (o : Fin 65536)
  /-- BLTU (R232). Branches when x[rs1] is less than x[rs2] as unsigned values. -/
  | bltu (a : Fin 32) (b : Fin 32) (o : Fin 65536)
  /-- BGEU (R232). Branches when x[rs1] is at least x[rs2] as unsigned values. -/
  | bgeu (a : Fin 32) (b : Fin 32) (o : Fin 65536)
  /-- JL (R232). Writes pc + 4 to x1 and jumps by the 26-bit word offset. -/
  | jl (o : Fin 67108864)
  /-- JLR (R232). Jumps to x[rs1] + imm, checking alignment and code bounds, and links in x[rd]. -/
  | jlr (d : Fin 32) (a : Fin 32) (i : Fin 65536)
  /-- LD_B (R234). Loads a sign-extended byte from x[rs1] + off13 on the scalar stream. -/
  | ldB (d : Fin 32) (a : Fin 32) (o : Fin 8192)
  /-- LD_H (R234). Loads a sign-extended halfword. -/
  | ldH (d : Fin 32) (a : Fin 32) (o : Fin 8192)
  /-- LD_W (R234). Loads a sign-extended word. -/
  | ldW (d : Fin 32) (a : Fin 32) (o : Fin 8192)
  /-- LD_D (R234). Loads a doubleword. -/
  | ldD (d : Fin 32) (a : Fin 32) (o : Fin 8192)
  /-- LD_BU (R234). Loads a zero-extended byte. -/
  | ldBu (d : Fin 32) (a : Fin 32) (o : Fin 8192)
  /-- LD_HU (R234). Loads a zero-extended halfword. -/
  | ldHu (d : Fin 32) (a : Fin 32) (o : Fin 8192)
  /-- LD_WU (R234). Loads a zero-extended word. -/
  | ldWu (d : Fin 32) (a : Fin 32) (o : Fin 8192)
  /-- ST_B (R234). Stores the low byte of the register named in rd. -/
  | stB (s : Fin 32) (a : Fin 32) (o : Fin 8192)
  /-- ST_H (R234). Stores the low halfword. -/
  | stH (s : Fin 32) (a : Fin 32) (o : Fin 8192)
  /-- ST_W (R234). Stores the low word. -/
  | stW (s : Fin 32) (a : Fin 32) (o : Fin 8192)
  /-- ST_D (R234). Stores the doubleword. -/
  | stD (s : Fin 32) (a : Fin 32) (o : Fin 8192)
  /-- AMO_SWAP (R236). Atomically swaps x[rs2] into memory at x[rs1], returning the old value. -/
  | amoSwap (d : Fin 32) (a : Fin 32) (b : Fin 32) (s : Fin 8) (o : Fin 4) (w : Bool)
  /-- AMO_ADD (R236). Atomically adds x[rs2] to memory, returning the old value. -/
  | amoAdd (d : Fin 32) (a : Fin 32) (b : Fin 32) (s : Fin 8) (o : Fin 4) (w : Bool)
  /-- AMO_AND (R236). Atomic bitwise and. -/
  | amoAnd (d : Fin 32) (a : Fin 32) (b : Fin 32) (s : Fin 8) (o : Fin 4) (w : Bool)
  /-- AMO_OR (R236). Atomic bitwise or. -/
  | amoOr (d : Fin 32) (a : Fin 32) (b : Fin 32) (s : Fin 8) (o : Fin 4) (w : Bool)
  /-- AMO_XOR (R236). Atomic bitwise exclusive or. -/
  | amoXor (d : Fin 32) (a : Fin 32) (b : Fin 32) (s : Fin 8) (o : Fin 4) (w : Bool)
  /-- AMO_MIN (R236). Atomic signed minimum. -/
  | amoMin (d : Fin 32) (a : Fin 32) (b : Fin 32) (s : Fin 8) (o : Fin 4) (w : Bool)
  /-- AMO_MAX (R236). Atomic signed maximum. -/
  | amoMax (d : Fin 32) (a : Fin 32) (b : Fin 32) (s : Fin 8) (o : Fin 4) (w : Bool)
  /-- AMO_MINU (R236). Atomic unsigned minimum. -/
  | amoMinu (d : Fin 32) (a : Fin 32) (b : Fin 32) (s : Fin 8) (o : Fin 4) (w : Bool)
  /-- AMO_MAXU (R236). Atomic unsigned maximum. -/
  | amoMaxu (d : Fin 32) (a : Fin 32) (b : Fin 32) (s : Fin 8) (o : Fin 4) (w : Bool)
  /-- AMO_CAS (R236). Atomically writes x[rs2] when memory equals x[rd], returning the old value. -/
  | amoCas (d : Fin 32) (a : Fin 32) (b : Fin 32) (s : Fin 8) (o : Fin 4) (w : Bool)
  /-- AMO_LD (R236). Atomic read with relaxed or acquire order. -/
  | amoLd (d : Fin 32) (a : Fin 32) (s : Fin 8) (o : Fin 4) (w : Bool)
  /-- AMO_ST (R236). Atomic write with relaxed or release order. -/
  | amoSt (a : Fin 32) (b : Fin 32) (s : Fin 8) (o : Fin 4) (w : Bool)
  /-- FENCE_SV (R179). Orders every earlier scalar-stream access before later vector-stream accesses. -/
  | fenceSv
  /-- FENCE_VS (R179). Holds later scalar accesses until earlier vector-stream accesses are performed. -/
  | fenceVs
  /-- FENCE_SV_W (R179). Orders earlier scalar writes before later vector-stream accesses. -/
  | fenceSvW
  /-- FENCE_ACQ (R184). Makes every earlier read of the stream an acquire at the given scope. -/
  | fenceAcq (s : Fin 8)
  /-- FENCE_REL (R183). Makes every later write of the stream a release at the given scope. -/
  | fenceRel (s : Fin 8)
  /-- FENCE_AR (R184). Acts as both an acquire and a release fence at the given scope. -/
  | fenceAr (s : Fin 8)
  /-- GSR (R241). Copies a system register to x[rd], waiting where R244 requires. -/
  | gsr (d : Fin 32) (n : Fin 4096)
  /-- SSR (R241). Writes x[rs1] to a system register, subject to level and access checks. -/
  | ssr (a : Fin 32) (n : Fin 4096)
  /-- TRAP (R363). Raises SOFTWARE_TRAP with the code in TVAL. -/
  | trap (c : Fin 4096)
  /-- TRET (R364). Returns from a trap to TEPC at the level held in PLEV. -/
  | tret
  /-- GEXIT (R365). Ends the group after draining its work, releasing at dom scope and freeing its resources. -/
  | gexit
  /-- YIELD (R366). Ends the group's present turn at issue and at the vector sequencer. -/
  | yield
  /-- SPT (R358). Marks a safe point, checks the index and sets SPCOUNT to 0. -/
  | spt (i : Fin 131072)
  /-- PWLEASE (R367). Requests, replaces or cancels a power lease of the given kind. -/
  | pwlease (a : Fin 32)
  /-- FLD (R267). Future load that returns a full word or parks or defers on an empty one. -/
  | fld (d : Fin 32) (a : Fin 32)
  /-- FLD_E (R267). Emptying future load that takes the value and sets the word empty. -/
  | fldE (d : Fin 32) (a : Fin 32)
  /-- FLDX (R267). Future load marked external. -/
  | fldx (d : Fin 32) (a : Fin 32)
  /-- FLDX_E (R267). Emptying future load marked external. -/
  | fldxE (d : Fin 32) (a : Fin 32)
  /-- FFILL (R267). Fills a future word with x[rs2], sets it full and releases. -/
  | ffill (a : Fin 32) (b : Fin 32)
  /-- TBAR (R347). Arrives at a team barrier and waits for the phase to complete. -/
  | tbar (d : Fin 32) (a : Fin 32)
  /-- CARRIVE (R348). Arrives at a cluster barrier and returns the phase bit. -/
  | carrive (d : Fin 32) (a : Fin 32)
  /-- CWAIT (R348). Waits until the cluster barrier's phase bit differs from x[rs2]. -/
  | cwait (a : Fin 32) (b : Fin 32)
  /-- TATTACH (R351). Attaches a detached group to a running team of its core. -/
  | tattach (d : Fin 32) (a : Fin 32)
  /-- TDETACH (R352). Withdraws the group from its team and barriers and makes it detached. -/
  | tdetach
  /-- IPOST (R353). Raises a Crier channel COUNT to x[rs2], as a release at dev scope. -/
  | ipost (a : Fin 32) (b : Fin 32)
  /-- IWAIT (R353). Waits until a Crier channel COUNT reaches x[rs2]. -/
  | iwait (d : Fin 32) (a : Fin 32) (b : Fin 32)
  /-- SGRAB (R355). Takes up to VL elements of a strip task in one read-modify-write. -/
  | sgrab (d : Fin 32) (a : Fin 32)
  /-- SSPAWN (R357). Copies a template into a strip-task record and places it on the launch's list. -/
  | sspawn (a : Fin 32) (b : Fin 32)
  /-- VCFG (R245). Sets a vector register's configuration word and its rows. -/
  | vcfg (d : Fin 32) (a : Fin 32)
  /-- VGRANT (R246). Computes VLMAX from the share, width and factor and sets VL. -/
  | vgrant (d : Fin 32) (a : Fin 32) (g : Fin 4) (w : Fin 8)
  /-- MSHAPE (R247). Grants the tile shape TILEM, TILEN and TILEK, clamped. -/
  | mshape (d : Fin 32) (a : Fin 32)
  /-- VADD (R283). Element-wise addition. -/
  | vadd (d : Fin 32) (a : Fin 32) (b : Fin 32) (m : Fin 8) (c : Bool) (k : Bool)
  /-- VSUB (R283). Element-wise subtraction. -/
  | vsub (d : Fin 32) (a : Fin 32) (b : Fin 32) (m : Fin 8) (c : Bool) (k : Bool)
  /-- VRSUB (R283). Element-wise reversed subtraction. -/
  | vrsub (d : Fin 32) (a : Fin 32) (b : Fin 32) (m : Fin 8) (c : Bool) (k : Bool)
  /-- VMUL (R283). Element-wise multiplication. -/
  | vmul (d : Fin 32) (a : Fin 32) (b : Fin 32) (m : Fin 8) (c : Bool) (k : Bool)
  /-- VMULH (R283). Element-wise high half of an integer product. -/
  | vmulh (d : Fin 32) (a : Fin 32) (b : Fin 32) (m : Fin 8) (c : Bool) (k : Bool)
  /-- VDIV (R283). Element-wise division. -/
  | vdiv (d : Fin 32) (a : Fin 32) (b : Fin 32) (m : Fin 8) (c : Bool) (k : Bool)
  /-- VREM (R283). Element-wise integer remainder. -/
  | vrem (d : Fin 32) (a : Fin 32) (b : Fin 32) (m : Fin 8) (c : Bool) (k : Bool)
  /-- VMIN (R283). Element-wise minimum. -/
  | vmin (d : Fin 32) (a : Fin 32) (b : Fin 32) (m : Fin 8) (c : Bool) (k : Bool)
  /-- VMAX (R283). Element-wise maximum. -/
  | vmax (d : Fin 32) (a : Fin 32) (b : Fin 32) (m : Fin 8) (c : Bool) (k : Bool)
  /-- VFMA (R283). Fused a times b plus vd, rounded once. -/
  | vfma (d : Fin 32) (a : Fin 32) (b : Fin 32) (m : Fin 8) (c : Bool) (k : Bool)
  /-- VFMS (R283). Fused a times b minus vd, rounded once. -/
  | vfms (d : Fin 32) (a : Fin 32) (b : Fin 32) (m : Fin 8) (c : Bool) (k : Bool)
  /-- VFNMA (R283). Fused vd minus a times b, rounded once. -/
  | vfnma (d : Fin 32) (a : Fin 32) (b : Fin 32) (m : Fin 8) (c : Bool) (k : Bool)
  /-- VSADD (R283). Element-wise saturating integer addition. -/
  | vsadd (d : Fin 32) (a : Fin 32) (b : Fin 32) (m : Fin 8) (c : Bool) (k : Bool)
  /-- VSSUB (R283). Element-wise saturating integer subtraction. -/
  | vssub (d : Fin 32) (a : Fin 32) (b : Fin 32) (m : Fin 8) (c : Bool) (k : Bool)
  /-- VABS (R283). Element-wise absolute value. -/
  | vabs (d : Fin 32) (b : Fin 32) (m : Fin 8) (c : Bool)
  /-- VNEG (R283). Element-wise negation. -/
  | vneg (d : Fin 32) (b : Fin 32) (m : Fin 8) (c : Bool)
  /-- VABSD (R283). Element-wise absolute difference. -/
  | vabsd (d : Fin 32) (a : Fin 32) (b : Fin 32) (m : Fin 8) (c : Bool) (k : Bool)
  /-- VAND (R285). Element-wise bitwise and. -/
  | vand (d : Fin 32) (a : Fin 32) (b : Fin 32) (m : Fin 8) (c : Bool) (k : Bool)
  /-- VOR (R285). Element-wise bitwise or. -/
  | vor (d : Fin 32) (a : Fin 32) (b : Fin 32) (m : Fin 8) (c : Bool) (k : Bool)
  /-- VXOR (R285). Element-wise bitwise exclusive or. -/
  | vxor (d : Fin 32) (a : Fin 32) (b : Fin 32) (m : Fin 8) (c : Bool) (k : Bool)
  /-- VANDN (R285). Element-wise a and not b. -/
  | vandn (d : Fin 32) (a : Fin 32) (b : Fin 32) (m : Fin 8) (c : Bool) (k : Bool)
  /-- VNOT (R285). Element-wise bitwise not. -/
  | vnot (d : Fin 32) (b : Fin 32) (m : Fin 8) (c : Bool)
  /-- VSLL (R285). Element-wise left shift. -/
  | vsll (d : Fin 32) (a : Fin 32) (b : Fin 32) (m : Fin 8) (c : Bool) (k : Bool)
  /-- VSRL (R285). Element-wise logical right shift. -/
  | vsrl (d : Fin 32) (a : Fin 32) (b : Fin 32) (m : Fin 8) (c : Bool) (k : Bool)
  /-- VSRA (R285). Element-wise arithmetic right shift. -/
  | vsra (d : Fin 32) (a : Fin 32) (b : Fin 32) (m : Fin 8) (c : Bool) (k : Bool)
  /-- VCLZ (R285). Element-wise count of leading zeros. -/
  | vclz (d : Fin 32) (b : Fin 32) (m : Fin 8) (c : Bool)
  /-- VPOPC (R285). Element-wise population count. -/
  | vpopc (d : Fin 32) (b : Fin 32) (m : Fin 8) (c : Bool)
  /-- VCEQ (R286). Writes mask bits for equality. -/
  | vceq (d : Fin 8) (a : Fin 32) (b : Fin 32) (m : Fin 8) (c : Bool) (k : Bool)
  /-- VCNE (R286). Writes mask bits for inequality. -/
  | vcne (d : Fin 8) (a : Fin 32) (b : Fin 32) (m : Fin 8) (c : Bool) (k : Bool)
  /-- VCLT (R286). Writes mask bits for less than. -/
  | vclt (d : Fin 8) (a : Fin 32) (b : Fin 32) (m : Fin 8) (c : Bool) (k : Bool)
  /-- VCLE (R286). Writes mask bits for less or equal. -/
  | vcle (d : Fin 8) (a : Fin 32) (b : Fin 32) (m : Fin 8) (c : Bool) (k : Bool)
  /-- VCGT (R286). Writes mask bits for greater than. -/
  | vcgt (d : Fin 8) (a : Fin 32) (b : Fin 32) (m : Fin 8) (c : Bool) (k : Bool)
  /-- VCGE (R286). Writes mask bits for greater or equal. -/
  | vcge (d : Fin 8) (a : Fin 32) (b : Fin 32) (m : Fin 8) (c : Bool) (k : Bool)
  /-- VCUN (R286). Writes mask bits where either operand is NaN. -/
  | vcun (d : Fin 8) (a : Fin 32) (b : Fin 32) (m : Fin 8) (c : Bool) (k : Bool)
  /-- VCVT (R287). Converts each active element or block into the target tag under FMODE. -/
  | vcvt (d : Fin 32) (t : Fin 32) (b : Fin 32) (m : Fin 8) (c : Bool)
  /-- VCVT_SAT (R287). Converts with saturation of integers and as if FMODE.SAT were 1. -/
  | vcvtSat (d : Fin 32) (t : Fin 32) (b : Fin 32) (m : Fin 8) (c : Bool)
  /-- VRETAG (R287). Reinterprets the source bits under a target tag of the same width. -/
  | vretag (d : Fin 32) (t : Fin 32) (b : Fin 32) (m : Fin 8) (c : Bool)
  /-- VREDSUM (R292). Ordered sum over the tree of R172, then the starting value. -/
  | vredsum (d : Fin 32) (a : Fin 32) (b : Fin 32) (m : Fin 8) (c : Bool)
  /-- VREDSUM_U (R292). Sum in any association, then the starting value. -/
  | vredsumU (d : Fin 32) (a : Fin 32) (b : Fin 32) (m : Fin 8) (c : Bool)
  /-- VREDMIN (R292). Minimum reduction. -/
  | vredmin (d : Fin 32) (a : Fin 32) (b : Fin 32) (m : Fin 8) (c : Bool)
  /-- VREDMAX (R292). Maximum reduction. -/
  | vredmax (d : Fin 32) (a : Fin 32) (b : Fin 32) (m : Fin 8) (c : Bool)
  /-- VREDAND (R292). Bitwise and reduction. -/
  | vredand (d : Fin 32) (a : Fin 32) (b : Fin 32) (m : Fin 8) (c : Bool)
  /-- VREDOR (R292). Bitwise or reduction. -/
  | vredor (d : Fin 32) (a : Fin 32) (b : Fin 32) (m : Fin 8) (c : Bool)
  /-- VREDXOR (R292). Bitwise exclusive or reduction. -/
  | vredxor (d : Fin 32) (a : Fin 32) (b : Fin 32) (m : Fin 8) (c : Bool)
  /-- VSCAN (R293). Running sum in ascending element order. -/
  | vscan (d : Fin 32) (a : Fin 32) (b : Fin 32) (m : Fin 8) (c : Bool)
  /-- VMV (R295). Copies or converts elements, or broadcasts a scalar operand. -/
  | vmv (d : Fin 32) (b : Fin 32) (m : Fin 8) (c : Bool) (k : Bool)
  /-- VMV_X (R295). Writes element 0 of vs2 to an x register. -/
  | vmvX (d : Fin 32) (b : Fin 32) (c : Bool)
  /-- VSLUP (R294). Slides elements up by k. -/
  | vslup (d : Fin 32) (a : Fin 32) (b : Fin 32) (m : Fin 8) (c : Bool) (k : Bool)
  /-- VSLDN (R294). Slides elements down by k, filling with zero. -/
  | vsldn (d : Fin 32) (a : Fin 32) (b : Fin 32) (m : Fin 8) (c : Bool) (k : Bool)
  /-- VGATH (R294). Gathers elements of vs1 by indices in vs2. -/
  | vgath (d : Fin 32) (a : Fin 32) (b : Fin 32) (m : Fin 8) (c : Bool)
  /-- VCOMPR (R294). Packs the active elements of vs2 to the bottom of vd. -/
  | vcompr (d : Fin 32) (b : Fin 32) (m : Fin 8) (c : Bool)
  /-- VEXPD (R294). Spreads successive elements of vs2 to the active elements of vd. -/
  | vexpd (d : Fin 32) (b : Fin 32) (m : Fin 8) (c : Bool)
  /-- VREV (R294). Reverses the elements below VL. -/
  | vrev (d : Fin 32) (b : Fin 32) (m : Fin 8) (c : Bool)
  /-- VRCP (R289). Reciprocal rounded under FMODE.rm. -/
  | vrcp (d : Fin 32) (b : Fin 32) (m : Fin 8) (c : Bool)
  /-- VRSQRT (R289). Reciprocal square root rounded to nearest even. -/
  | vrsqrt (d : Fin 32) (b : Fin 32) (m : Fin 8) (c : Bool)
  /-- VSQRT (R289). Square root rounded under FMODE.rm. -/
  | vsqrt (d : Fin 32) (b : Fin 32) (m : Fin 8) (c : Bool)
  /-- VEXP2 (R289). Power of two rounded to nearest even. -/
  | vexp2 (d : Fin 32) (b : Fin 32) (m : Fin 8) (c : Bool)
  /-- VLOG2 (R289). Base-2 logarithm rounded to nearest even. -/
  | vlog2 (d : Fin 32) (b : Fin 32) (m : Fin 8) (c : Bool)
  /-- VSIN (R289). Sine rounded to nearest even. -/
  | vsin (d : Fin 32) (b : Fin 32) (m : Fin 8) (c : Bool)
  /-- VCOS (R289). Cosine rounded to nearest even. -/
  | vcos (d : Fin 32) (b : Fin 32) (m : Fin 8) (c : Bool)
  /-- VTANH (R289). Hyperbolic tangent rounded to nearest even. -/
  | vtanh (d : Fin 32) (b : Fin 32) (m : Fin 8) (c : Bool)
  /-- VIDX (R288). Writes start + e times step to each active element. -/
  | vidx (d : Fin 32) (s : Fin 1024) (m : Fin 8) (c : Bool) (p : Fin 128)
  /-- MAND (R296). Mask and. -/
  | mand (d : Fin 8) (a : Fin 8) (b : Fin 8) (m : Fin 8) (c : Bool)
  /-- MOR (R296). Mask or. -/
  | mor (d : Fin 8) (a : Fin 8) (b : Fin 8) (m : Fin 8) (c : Bool)
  /-- MXOR (R296). Mask exclusive or. -/
  | mxor (d : Fin 8) (a : Fin 8) (b : Fin 8) (m : Fin 8) (c : Bool)
  /-- MANDN (R296). Mask and-not. -/
  | mandn (d : Fin 8) (a : Fin 8) (b : Fin 8) (m : Fin 8) (c : Bool)
  /-- MNOT (R296). Mask not. -/
  | mnot (d : Fin 8) (b : Fin 8) (m : Fin 8) (c : Bool)
  /-- MSET (R296). Sets the active mask bits. -/
  | mset (d : Fin 8) (m : Fin 8) (c : Bool)
  /-- MCLR (R296). Clears the active mask bits. -/
  | mclr (d : Fin 8) (m : Fin 8) (c : Bool)
  /-- MPOPC (R296). Counts the active set bits of a mask into an x register. -/
  | mpopc (d : Fin 32) (b : Fin 8) (m : Fin 8) (c : Bool)
  /-- MFIRST (R296). Writes the lowest active set bit index, or all ones. -/
  | mfirst (d : Fin 32) (b : Fin 8) (m : Fin 8) (c : Bool)
  /-- VFETCH (R301). Fetches and checks an AIB and launches the active VPs in lockstep. -/
  | vfetch (b : Fin 32) (m : Fin 8)
  /-- TFETCH (R304). Records a target AIB for each active VP to run independently after the body. -/
  | tfetch (b : Fin 32) (m : Fin 8) (k : Bool)
  /-- VSYNC (R307). Waits for the vector queue and every VP, trapping if a VP stopped. -/
  | vsync
  /-- XQSEND (R309). Sends each active VP's element to the next VP's cross-lane queue. -/
  | xqsend (a : Fin 32) (m : Fin 8)
  /-- XQRECV (R309). Receives the oldest entry addressed to each active VP. -/
  | xqrecv (d : Fin 32) (m : Fin 8)
  /-- XQSEND_CT (R310). Control thread appends x[N] to its queue toward the VPs. -/
  | xqsendCt (a : Fin 32)
  /-- XQRECV_CT (R310). Control thread takes the oldest entry from the VPs into x[N]. -/
  | xqrecvCt (d : Fin 32)
  /-- VPID (R311). Writes each active element's index. -/
  | vpid (d : Fin 32) (m : Fin 8)
  /-- VLD (R255). Unit-stride vector load, memory or scratchpad. -/
  | vld (d : Fin 32) (a : Fin 32) (m : Fin 8) (c : Bool) (p : Bool)
  /-- VLD_S (R255). Strided vector load. -/
  | vldS (d : Fin 32) (a : Fin 32) (s : Fin 32) (m : Fin 8) (c : Bool) (p : Bool)
  /-- VLD_X (R255). Indexed vector load with a probe pass. -/
  | vldX (d : Fin 32) (a : Fin 32) (i : Fin 32) (m : Fin 8) (c : Bool) (p : Bool) (e : Fin 8)
  /-- VLD_FF (R256). Fault-first load that shortens VL at a later failure. -/
  | vldFf (d : Fin 32) (a : Fin 32) (m : Fin 8) (c : Bool)
  /-- VLD_SEG (R258). Segment load of MX blocks with their scales. -/
  | vldSeg (d : Fin 32) (a : Fin 32) (m : Fin 8) (c : Bool)
  /-- VLD_C (R257). Consuming unit-stride load that charges each rationed line or block once. -/
  | vldC (d : Fin 32) (a : Fin 32) (m : Fin 8) (c : Bool) (p : Bool)
  /-- VLD_CS (R257). Consuming strided load. -/
  | vldCs (d : Fin 32) (a : Fin 32) (s : Fin 32) (m : Fin 8) (c : Bool) (p : Bool)
  /-- VLD_CX (R257). Consuming indexed load. -/
  | vldCx (d : Fin 32) (a : Fin 32) (i : Fin 32) (m : Fin 8) (c : Bool) (p : Bool) (e : Fin 8)
  /-- VST (R259). Ordinary unit-stride store in ascending element order. -/
  | vst (v : Fin 32) (a : Fin 32) (m : Fin 8) (c : Bool) (p : Bool)
  /-- VST_S (R259). Ordinary strided store. -/
  | vstS (v : Fin 32) (a : Fin 32) (s : Fin 32) (m : Fin 8) (c : Bool) (p : Bool)
  /-- VST_X (R259). Ordinary indexed store. -/
  | vstX (v : Fin 32) (a : Fin 32) (i : Fin 32) (m : Fin 8) (c : Bool) (p : Bool) (e : Fin 8)
  /-- VST_U (R259). Unordered unit-stride store. -/
  | vstU (v : Fin 32) (a : Fin 32) (m : Fin 8) (c : Bool) (p : Bool)
  /-- VST_SEG (R258). Segment store of MX blocks with their scales. -/
  | vstSeg (v : Fin 32) (a : Fin 32) (m : Fin 8) (c : Bool)
  /-- VST_SU (R259). Unordered strided store. -/
  | vstSu (v : Fin 32) (a : Fin 32) (s : Fin 32) (m : Fin 8) (c : Bool) (p : Bool)
  /-- VST_XU (R259). Unordered indexed store. -/
  | vstXu (v : Fin 32) (a : Fin 32) (i : Fin 32) (m : Fin 8) (c : Bool) (p : Bool) (e : Fin 8)
  /-- VAMO_SWAP (R260). Vector atomic swap per active element. -/
  | vamoSwap (v : Fin 32) (s : Fin 8) (o : Fin 4) (a : Fin 32) (m : Fin 8) (c : Bool)
  /-- VAMO_ADD (R260). Vector atomic add per active element. -/
  | vamoAdd (v : Fin 32) (s : Fin 8) (o : Fin 4) (a : Fin 32) (m : Fin 8) (c : Bool)
  /-- VAMO_AND (R260). Vector atomic and. -/
  | vamoAnd (v : Fin 32) (s : Fin 8) (o : Fin 4) (a : Fin 32) (m : Fin 8) (c : Bool)
  /-- VAMO_OR (R260). Vector atomic or. -/
  | vamoOr (v : Fin 32) (s : Fin 8) (o : Fin 4) (a : Fin 32) (m : Fin 8) (c : Bool)
  /-- VAMO_XOR (R260). Vector atomic exclusive or. -/
  | vamoXor (v : Fin 32) (s : Fin 8) (o : Fin 4) (a : Fin 32) (m : Fin 8) (c : Bool)
  /-- VAMO_MIN (R260). Vector atomic minimum. -/
  | vamoMin (v : Fin 32) (s : Fin 8) (o : Fin 4) (a : Fin 32) (m : Fin 8) (c : Bool)
  /-- VAMO_MAX (R260). Vector atomic maximum. -/
  | vamoMax (v : Fin 32) (s : Fin 8) (o : Fin 4) (a : Fin 32) (m : Fin 8) (c : Bool)
  /-- SAMO (R261). Sends each active addend to the Mill of its home slice, unordered. -/
  | samo (v : Fin 32) (a : Fin 32) (m : Fin 8) (c : Bool)
  /-- SAMO_O (R261). Scatter-add whose additions are combined in element and issue order. -/
  | samoO (v : Fin 32) (a : Fin 32) (m : Fin 8) (c : Bool)
  /-- SBIND_M (R262). Binds a register to a memory stream from a stream descriptor. -/
  | sbindM (d : Fin 32) (a : Fin 32)
  /-- SBIND_Q_R (R264). Binds a register as the read end of a strip queue. -/
  | sbindQR (d : Fin 32) (q : Fin 8)
  /-- SBIND_Q_W (R264). Binds a register as the write end of a strip queue. -/
  | sbindQW (d : Fin 32) (q : Fin 8)
  /-- SUNBIND (R265). Ends a register's stream or queue binding. -/
  | sunbind (d : Fin 32)
  /-- BSE (R266). Branches when the register's stream-end flag is set. -/
  | bse (d : Fin 32) (o : Fin 8192)
  /-- FLDV (R271). Waits on one future per active element with an optional timeout. -/
  | fldv (d : Fin 32) (t : Fin 32) (u : Fin 8) (m : Fin 8)
  /-- FLDV_X (R271). External form of the vector future wait. -/
  | fldvX (d : Fin 32) (t : Fin 32) (u : Fin 8) (m : Fin 8)
  /-- VFFILL (R272). Fills one future per active element. -/
  | vffill (v : Fin 32) (a : Fin 32) (m : Fin 8)
  /-- CPY (R273). Issues a Carter transfer from a tile descriptor into a batch. -/
  | cpy (a : Fin 32) (m : Fin 8) (c : Fin 32) (t : Fin 8) (f : Bool)
  /-- CPY_G (R273). Issues a Carter gather transfer using a register of row numbers. -/
  | cpyG (a : Fin 32) (v : Fin 32) (m : Fin 8) (t : Fin 8) (f : Bool)
  /-- BCLOSE (R111). Closes the token's open batch and returns its number. -/
  | bclose (a : Fin 32) (t : Fin 8)
  /-- BWAIT (R113). Waits for a batch of a token to complete, reporting held failures. -/
  | bwait (a : Fin 32) (t : Fin 8)
  /-- BWAITM (R113). Waits for the last closed batch of each masked token. -/
  | bwaitm (a : Fin 32)
  /-- RDECL (R276). Declares reader counts from a ration record. -/
  | rdecl (a : Fin 32) (c : Fin 32)
  /-- RCLOSE_TEAM (R277). Closes the team's live declarations. -/
  | rcloseTeam
  /-- RCLOSE_CLU (R277). Closes the cluster's scratchpad declarations. -/
  | rcloseClu
  /-- RCHK (R278). Reads the ration state of a line or block. -/
  | rchk (a : Fin 32) (p : Bool) (c : Fin 32)
  /-- MMA (R321). Issues a matrix multiply-accumulate into an accumulator handle. -/
  | mma (a : Fin 32) (b : Fin 32) (y : Bool) (x : Bool) (z : Fin 8) (t : Fin 8) (f : Bool)
  /-- MMAS (R328). Issues a bitmapped sparse matrix operation from the scratchpad. -/
  | mmas (a : Fin 32) (b : Fin 32) (z : Fin 8) (t : Fin 8) (f : Bool)
  /-- MJOIN (R329). Issues one position of a joint tile computed by several cores. -/
  | mjoin (a : Fin 32) (b : Fin 32) (z : Fin 8) (t : Fin 8) (f : Bool)
  /-- MFENCE (R327). Orders earlier operand writes before later matrix operand reads. -/
  | mfence
  /-- MZERO (R333). Sets every accumulator element of a region to zero. -/
  | mzero (z : Fin 8)
  /-- MPUT (R335). Converts vector elements into accumulator positions. -/
  | mput (s : Fin 32) (p : Fin 32) (z : Fin 8)
  /-- MEXT (R335). Extracts accumulator positions into a vector register. -/
  | mext (s : Fin 32) (p : Fin 32) (z : Fin 8)
  /-- ZSET (R315). Releases a handle's region and claims a new one. -/
  | zset (s : Fin 32) (z : Fin 8)
  /-- ZGET (R316). Writes an accumulator handle to an x register. -/
  | zget (s : Fin 32) (z : Fin 8)
  /-- SLD (R338). Loads a sparse register from a sparse descriptor. -/
  | sld (q : Fin 8) (a : Fin 32)
  /-- SST (R339). Stores a sparse register as one ordinary store. -/
  | sst (q : Fin 8) (a : Fin 32)
  /-- SADD (R340). Sparse union addition. -/
  | sadd (d : Fin 8) (a : Fin 8) (b : Fin 8)
  /-- SMUL (R340). Sparse intersection multiplication. -/
  | smul (d : Fin 8) (a : Fin 8) (b : Fin 8)
  /-- SDOT (R341). Sparse dot product into an x register. -/
  | sdot (d : Fin 32) (a : Fin 8) (b : Fin 8)
  /-- SFROMV (R342). Builds a sparse register from the active elements of a vector. -/
  | sfromv (d : Fin 8) (s : Fin 32) (k : Fin 8)
  /-- STOV (R342). Expands a sparse register into a vector register. -/
  | stov (d : Fin 32) (s : Fin 8) (k : Fin 8)
  /-- SLEN (R342). Writes a sparse register's length to an x register. -/
  | slen (d : Fin 32) (s : Fin 8)
  /-- HINT (R219). A hint with no architectural effect beyond retiring. -/
  | hint (h : Fin 67108864)
  /-- ILLEGAL_INSTRUCTION (R217). A word with an unassigned or malformed encoding raises ILLEGAL_INSTR. -/
  | illegalInstruction
  /-- MSIX_UNMASK (R487). Unmasking a vector or the function sends its pending message. -/
  | msixUnmask
  /-- L2_READ (R37). A read request performed at its home slice, hitting or allocating. -/
  | l2Read
  /-- L2_WRITE (R38). A write request performed at its home slice, allocating or merging. -/
  | l2Write
  /-- L2_ATOMIC (R176). A read-modify-write performed at its home slice. -/
  | l2Atomic
  /-- HBM_FILL_RETURN (R38). Line data arrives from HBM4 and completes the waiting request. -/
  | hbmFillReturn
  /-- MILL_ADDITION (R50). A scatter-add arrives at its Mill and is performed or chained. -/
  | millAddition
  /-- CONSUMING_READ_RESERVE (R43). A consuming read reserves one count at a line or block. -/
  | consumingReadReserve
  /-- CONSUMING_READ_COMMIT (R44). Commits reserved counts, dropping a line that reaches zero. -/
  | consumingReadCommit
  /-- RATION_DECLARATION (R44). A declaration arrives at a home slice and makes a line live, is held or refused. -/
  | rationDeclaration
  /-- LINE_SPENT_EVENT (R47). A line-spent event reaches the owning core and decrements its table entry. -/
  | lineSpentEvent
  /-- SCOPE_CLOSE_SCAN (R48). A slice scans its sets for live lines of a closing scope. -/
  | scopeCloseScan
  /-- SCOPE_CLOSE_ACK (R48). Acknowledgements of every slice complete the close and fill remaining notify futures. -/
  | scopeCloseAck
  /-- FUTURE_LOAD_ARRIVAL (R54). A future load at its home slice returns, parks, defers or is refused. -/
  | futureLoadArrival
  /-- FUTURE_FILL_ARRIVAL (R54). A fill writes the word, sets it full and wakes matching waiters. -/
  | futureFillArrival
  /-- POUND_WAKEUP (R54). A wake-up reaches its waiter, which becomes ready or re-performs an emptying load. -/
  | poundWakeup
  /-- DEFERRED_ANSWER (R56). A deferred answer reaches its waiter. -/
  | deferredAnswer
  /-- FUTURE_NACK (R57). A negative acknowledgement starts the backoff of a future load. -/
  | futureNack
  /-- NACK_REPLAY (R57). The backoff expires and the request is replayed, adding to NACKCNT. -/
  | nackReplay
  /-- MEMCFG_WRITE (R32). Writes NODEID once and POUNDEN bits. -/
  | memcfgWrite
  /-- KROVINO_REQUEST_ARRIVAL (R59). A remote request arrives from a Krovino port and is performed at its home slice. -/
  | krovinoRequestArrival
  /-- PAGE_WALK_READ (R71). A walk read returns and the walk advances, fills, completes or fails. -/
  | pageWalkRead
  /-- XINV_PAGE (R79). Accepts an invalidation of one page of an ASID. -/
  | xinvPage
  /-- XINV_ASID (R79). Accepts an invalidation of every entry of an ASID. -/
  | xinvAsid
  /-- XINV_ALL (R79). Accepts an invalidation of every entry. -/
  | xinvAll
  /-- XINV_IGNORED (R79). An XINV write with OP 3 is ignored. -/
  | xinvIgnored
  /-- XINV_COMPLETE (R79). An invalidation command completes and DONE advances. -/
  | xinvComplete
  /-- SCRATCHPAD_REMOTE_ACCESS (R94). A remote scratchpad request is performed at its bank. -/
  | scratchpadRemoteAccess
  /-- CARTER_ACCEPT (R97). A copy is handed to the Carter when a place frees. -/
  | carterAccept
  /-- CARTER_TRANSFER_BEGIN (R97). The Carter begins a transfer when fewer than eight are in progress. -/
  | carterTransferBegin
  /-- CARTER_UNIT (R105). The Carter translates, checks and performs one unit of a transfer. -/
  | carterUnit
  /-- CARTER_COMPLETE (R112). A transfer completes, writing mask and return registers. -/
  | carterComplete
  /-- SEED_WRITE (R162). Reseeds every share lane's LFSR after the queue drains. -/
  | seedWrite
  /-- SECROLE_WRITE (R138). Changes section roles after the queue drains, making registers undefined. -/
  | secroleWrite
  /-- ASID_WRITE (R63). Changes the group's address space after the queue drains. -/
  | asidWrite
  /-- BSEQ_WRITE (R110). Restores or discards a token's batch state and held failure. -/
  | bseqWrite
  /-- SYSREG_DEFERRED_WRITE (R244). An ssr of VL, VLMAX, VSTART, FFLAGS or the tile registers takes effect once the queue is empty. -/
  | sysregDeferredWrite
  /-- STRIP_QUEUE_APPEND (R141). A write to a queue-bound register appends an entry once there is room. -/
  | stripQueueAppend
  /-- STRIP_QUEUE_CONSUME (R141). A read of a queue-bound register consumes the oldest entry once one exists. -/
  | stripQueueConsume
  /-- STREAM_READ_AHEAD (R263). The device reads elements of a read stream ahead of use. -/
  | streamReadAhead
  /-- FLDV_TIMEOUT (R271). The timeout of a vector future wait expires and remaining waits are cancelled. -/
  | fldvTimeout
  /-- AIB_WORD_LOCKSTEP (R302). Performs one body word over the launched VPs in lockstep. -/
  | aibWordLockstep
  /-- VP_ISSUE (R147). A lane issues one operation for the next ready independent VP. -/
  | vpIssue
  /-- CONVOY_DISPATCH (R408). The sequencer dispatches a ready convoy and charges its toll. -/
  | convoyDispatch
  /-- ACC_REGION_CLAIM (R315). A waiting zset claims a run of free accumulator words. -/
  | accRegionClaim
  /-- MATRIX_ACCEPT (R323). The matrix unit accepts the next waiting operation round-robin. -/
  | matrixAccept
  /-- MATRIX_COMPLETE (R324). A matrix operation completes after writing, reading and committing. -/
  | matrixComplete
  /-- MJOIN_FORM (R330). The last position arrives and the joint operation is formed or trapped. -/
  | mjoinForm
  /-- BARRIER_ARRIVAL (R346). An arrival or membership change is performed at a barrier's home. -/
  | barrierArrival
  /-- BARRIER_RETURN (R349). A completion reaches a waiting member and its tbar or cwait returns. -/
  | barrierReturn
  /-- CRIER_POST_ARRIVAL (R353). A post reaches its channel and raises COUNT, satisfying waiters. -/
  | crierPostArrival
  /-- SAFE_POINT_SAVE (R361). A pending request is taken at a retired spt and the group saved. -/
  | safePointSave
  /-- FULL_SAVE_DEADLINE (R426). A request's deadline passes and the group is saved in full. -/
  | fullSaveDeadline
  /-- SAVE_FRAME_WRITE (R429). A save writes its frame once a run of granules is free. -/
  | saveFrameWrite
  /-- RESTORE (R432). Restores a saved group under a granted share. -/
  | restore
  /-- HQ_ENABLE (R395). Setting EN of a host queue starts reading and sets HEAD to 0. -/
  | hqEnable
  /-- HQ_TAIL_SNOOP (R396). A host write takes the tail line and the front end re-reads it. -/
  | hqTailSnoop
  /-- HQ_TAIL_REREAD (R396). The re-read tail value returns and new records are read. -/
  | hqTailReread
  /-- START_RECORD_ACCEPT (R399). The launch unit accepts and checks a start record. -/
  | startRecordAccept
  /-- PLACE_NEXT (R401). The launch unit tries to place the next unplaced cluster. -/
  | placeNext
  /-- RESERVATION (R402). A cluster unplaced for 65,536 cycles has a rectangle reserved. -/
  | reservation
  /-- GROUP_START (R404). A placed group begins at its entry once its sections are free. -/
  | groupStart
  /-- SPAWN_GROUP_START (R405). Starts detached groups for a strip-task list entry. -/
  | spawnGroupStart
  /-- LAUNCH_COMPLETE (R406). A launch completes and fills its completion future. -/
  | launchComplete
  /-- EPOCH_REFILL (R408). Every 1,024 cycles each purse is refilled. -/
  | epochRefill
  /-- POWER_LEAVE_GRANT (R409). The power steward grants a waiting request. -/
  | powerLeaveGrant
  /-- LEASE_EXPIRE (R410). A power lease runs out and returns its units. -/
  | leaseExpire
  /-- WATCHDOG_FIRE (R413). The Watchman counter reaches WDLIMIT and every group traps. -/
  | watchdogFire
  /-- CLERK_RUN (R414). Setting RUN starts the Clerk at PC. -/
  | clerkRun
  /-- CLERK_HALT (R414). Clears RUN. -/
  | clerkHalt
  /-- CLERK_LAUNCH (R414). Reads a start record and accepts it as queue 128. -/
  | clerkLaunch
  /-- CLERK_LAUNCHI (R414). Launches with GRID taken from a word in memory. -/
  | clerkLaunchi
  /-- CLERK_WAITGE (R414). Waits until a memory word is at least B. -/
  | clerkWaitge
  /-- CLERK_WAITGE_POLL (R414). Re-reads the awaited word every 256 cycles or at a snoop. -/
  | clerkWaitgePoll
  /-- CLERK_STORE (R414). Writes B to A as a release. -/
  | clerkStore
  /-- CLERK_ADD (R414). Adds B to the word at A atomically. -/
  | clerkAdd
  /-- CLERK_SETC (R414). Sets a loop counter. -/
  | clerkSetc
  /-- CLERK_LOOP (R414). Decrements a counter and branches while nonzero. -/
  | clerkLoop
  /-- CLERK_JGE (R414). Branches when the word at A is at least B. -/
  | clerkJge
  /-- CLERK_JLT (R414). Branches when the word at A is below B. -/
  | clerkJlt
  /-- CLERK_IRQ (R414). Raises host interrupt vector K after earlier stores. -/
  | clerkIrq
  /-- CLERK_JUMP (R414). Sets PC to T. -/
  | clerkJump
  /-- RQ_ENABLE (R415). Setting EN of a release queue starts it and zeroes its counts. -/
  | rqEnable
  /-- RELEASE_READY_TAKEN (R417). The queue takes an entry's READY future and reads the entry. -/
  | releaseReadyTaken
  /-- RELEASE_VERDICT_TAKEN (R417). The verdict arrives and the entry is dropped or readied for delivery. -/
  | releaseVerdictTaken
  /-- RELEASE_ITEM_DELIVER (R417). Copies an allowed item to the host ring once it has room and retires the entry. -/
  | releaseItemDeliver
  /-- CTX_HOLD (R428). Requests saves of every group of an ASID and holds them. -/
  | ctxHold
  /-- CTX_RELEASE (R428). Makes held groups and clusters of an ASID eligible again. -/
  | ctxRelease
  /-- CTX_KILL (R428). Ends every group and launch of an ASID. -/
  | ctxKill
  /-- CTX_IGNORED (R427). A CTXCMD write with OP 3 is ignored. -/
  | ctxIgnored
  /-- CTX_COMMAND_COMPLETE (R427). A context command completes and DONE advances. -/
  | ctxCommandComplete
  /-- UNIT_RETIRE (R443). An error count threshold retires a lane, way or SerDes lane. -/
  | unitRetire
  /-- MAINT_WINDOW_OPEN (R444). Writing GO opens a maintenance window on a die. -/
  | maintWindowOpen
  /-- SELF_TEST_COMPLETE (R444). Self-test ends, repairs are recorded and the window closes. -/
  | selfTestComplete
  /-- ERROR_RECOVERY (R445). An uncorrectable slice-state error starts recovery on its die. -/
  | errorRecovery
  /-- SECTION_ARRIVE_START_SET (R477). A start-set section's arrival fill lets the launch unit read and check it. -/
  | sectionArriveStartSet
  /-- SECTION_FIRST_USE (R478). The first use of an arrived section reads and checks its CRC. -/
  | sectionFirstUse
  /-- HOST_SHARED_READ (R484). A host shared read over CXL.mem at the home slice. -/
  | hostSharedRead
  /-- HOST_EXCLUSIVE_READ (R484). A host exclusive read over CXL.mem at the home slice. -/
  | hostExclusiveRead
  /-- HOST_WRITE (R484). A host write or writeback over CXL.mem at the home slice. -/
  | hostWrite
  /-- BACK_INVALIDATE_RESPONSE (R485). The host answers a Back-Invalidate snoop and the waiting step completes. -/
  | backInvalidateResponse
  /-- HOST_SNP_INV (R484). A host SnpInv of a host-window line writes back and invalidates it. -/
  | hostSnpInv
  /-- HOST_SNP_DATA (R484). A host SnpData writes back and leaves the line shared. -/
  | hostSnpData
  /-- HOST_WINDOW_FILL_RETURN (R61). CXL.cache data for a host-window line arrives at its slice. -/
  | hostWindowFillReturn
  /-- HOST_FUTURE_FILL (R486). A write to HFUTFILL fills a future with HFUTVAL. -/
  | hostFutureFill
  /-- FLIT_RECEIVE (R488). A Krovino flit arrives, checked by CRC and sequence. -/
  | flitReceive
  /-- FLIT_REPLAY (R488). The sender replays from a refused flit. -/
  | flitReplay
  /-- POWER_GOOD (R491). Power good starts the boot ROM and stage 1. -/
  | powerGood
  /-- BOOT_STAGE_COMPLETE (R491). A boot stage ends and the next begins. -/
  | bootStageComplete
  /-- RECOVERY_GO (R493). Writing GO in stage 0xE verifies a recovery image. -/
  | recoveryGo
  /-- ATTEST_REQUEST (R494). A mailbox request returns a signed attestation report. -/
  | attestRequest
  /-- THERMAL_SAMPLE (R496). Each millisecond the controller reads temperatures and adjusts PWBUDGET. -/
  | thermalSample
  /-- POWER_CAP_SET (R496). A PLDM power cap is mapped to every die's PWBUDGET. -/
  | powerCapSet
  /-- REGISTER_WRITE (R7). A write to a device register without behaviour of its own sets its fields. -/
  | registerWrite
  /-- PATROL_SCRUB (R442). The HBM patrol scrub finds an error by itself, poisons the data and writes a POISON record to DEVERRQ for replacement at the next maintenance window. -/
  | patrolScrub
  /-- RETRAINED_ON_SPARE (R442). A Krovino port held by hold signalling after a SerDes lane retirement finishes retraining on the spare lane and resumes service. -/
  | retrainedOnSpare
  deriving DecidableEq, Repr

end Sys2Proof
end

