-- ==== Sys2Proof/WellFormed.lean ====
section
/-!
DEFINITION. Well-formed instructions: the operand values that R217 and the forms' own statements make an
illegal encoding, whatever the state.
-/

namespace Sys2Proof

/-- The scope codes of R9; 6 and 7 are reserved. -/
def scopeOk (s : Fin 8) : Bool := decide (s.val < 6)

/-- The order names of R182: rlx, acq, rel, ar. -/
def orderOk (o : Fin 4) (acqOk relOk : Bool) : Bool :=
  match o.val with
  | 0 => true
  | 1 => acqOk
  | 2 => relOk
  | _ => acqOk && relOk

/-- The system register numbers of R242. -/
def sysregListed (n : Nat) : Bool :=
  decide (n ≤ 3) || (decide (0x10 ≤ n) && decide (n ≤ 0x15)) || (decide (0x18 ≤ n) && decide (n ≤ 0x22))
    || (decide (0x30 ≤ n) && decide (n ≤ 0x32)) || n == 0x40 || n == 0x41
    || (decide (0x50 ≤ n) && decide (n ≤ 0x54)) || (decide (0x58 ≤ n) && decide (n ≤ 0x5B))
    || (decide (0x60 ≤ n) && decide (n ≤ 0x67)) || (decide (0x70 ≤ n) && decide (n ≤ 0x73))
    || n == 0x78 || n == 0x79 || n == 0x80 || n == 0x81

/-- A code that names a tag other than 0x00 (R120, R287). -/
def targetTagOk (t : Fin 32) : Bool := t.val != 0 && decide (t.val < 0x1D)

/-- The even register of a descriptor pair (R318, R321). -/
def pairOk (r : Fin 32) : Bool := r.val % 2 == 0 && decide (2 ≤ r.val)

/-- The operand values are ones that the form accepts. -/
def Instr.wellFormed (i : Instr) : Bool :=
  match i with
  | .amoSwap _ _ _ s _ _ | .amoAdd _ _ _ s _ _ | .amoAnd _ _ _ s _ _ | .amoOr _ _ _ s _ _
  | .amoXor _ _ _ s _ _ | .amoMin _ _ _ s _ _ | .amoMax _ _ _ s _ _ | .amoMinu _ _ _ s _ _
  | .amoMaxu _ _ _ s _ _ | .amoCas _ _ _ s _ _ => scopeOk s
  | .amoLd _ _ s o _ => scopeOk s && orderOk o true false
  | .amoSt _ _ s o _ => scopeOk s && orderOk o false true
  | .fenceAcq s | .fenceRel s | .fenceAr s => scopeOk s
  | .gsr _ n | .ssr _ n => sysregListed n.val
  | .sgrab d _ => decide (1 ≤ d.val) && decide (d.val ≤ 27)
  | .vgrant _ _ _ w => decide (w.val < 6)
  | .vceq d _ _ _ _ _ | .vcne d _ _ _ _ _ | .vclt d _ _ _ _ _ | .vcle d _ _ _ _ _
  | .vcgt d _ _ _ _ _ | .vcge d _ _ _ _ _ | .vcun d _ _ _ _ _ => d.val != 0
  | .mand d _ _ _ _ | .mor d _ _ _ _ | .mxor d _ _ _ _ | .mandn d _ _ _ _ | .mnot d _ _ _
  | .mset d _ _ | .mclr d _ _ => d.val != 0
  | .vcvt _ t _ _ _ | .vcvtSat _ t _ _ _ | .vretag _ t _ _ _ => targetTagOk t
  | .vamoSwap _ s _ _ _ _ | .vamoAdd _ s _ _ _ _ | .vamoAnd _ s _ _ _ _ | .vamoOr _ s _ _ _ _
  | .vamoXor _ s _ _ _ _ | .vamoMin _ s _ _ _ _ | .vamoMax _ s _ _ _ _ => scopeOk s
  | .mma a b y x _ _ f => (!x || pairOk a) && (!y || pairOk b) && (!f || x || y)
  | .mmas a b _ _ _ | .mjoin a b _ _ _ => pairOk a && pairOk b
  | _ => true

end Sys2Proof
end

