-- ==== Sys2Proof/Decode.lean ====
section
/-!
DEFINITION. From words to instructions and back (R201 to R219): the decoder, the encoder, and the checks
that a word of the control thread or of an AIB body meets before it is executed.
-/

namespace Sys2Proof

/-- The field of `w` whose lowest bit has weight `lo` and which takes `n` values. -/
def fld (n : Nat) [NeZero n] (w lo : Nat) : Fin n := Fin.ofNat n (w / lo)

/-- The bit of `w` of weight `lo`. -/
def flag (w lo : Nat) : Bool := w / lo % 2 == 1

/-- A truth value as the bit of weight `lo`. -/
def flagBit (b : Bool) (lo : Nat) : Nat := if b then lo else 0

/-- Major 0x01 (R204 to R208). -/
def decAlu (w : Nat) : Option Instr :=
  match w % 2048 with
  | 0x00 => some (.add (fld 32 w 2097152) (fld 32 w 65536) (fld 32 w 2048))
  | 0x01 => some (.sub (fld 32 w 2097152) (fld 32 w 65536) (fld 32 w 2048))
  | 0x02 => some (.and (fld 32 w 2097152) (fld 32 w 65536) (fld 32 w 2048))
  | 0x03 => some (.or (fld 32 w 2097152) (fld 32 w 65536) (fld 32 w 2048))
  | 0x04 => some (.xor (fld 32 w 2097152) (fld 32 w 65536) (fld 32 w 2048))
  | 0x05 => some (.sll (fld 32 w 2097152) (fld 32 w 65536) (fld 32 w 2048))
  | 0x06 => some (.srl (fld 32 w 2097152) (fld 32 w 65536) (fld 32 w 2048))
  | 0x07 => some (.sra (fld 32 w 2097152) (fld 32 w 65536) (fld 32 w 2048))
  | 0x08 => some (.slt (fld 32 w 2097152) (fld 32 w 65536) (fld 32 w 2048))
  | 0x09 => some (.sltu (fld 32 w 2097152) (fld 32 w 65536) (fld 32 w 2048))
  | 0x0A => some (.mul (fld 32 w 2097152) (fld 32 w 65536) (fld 32 w 2048))
  | 0x0B => some (.mulh (fld 32 w 2097152) (fld 32 w 65536) (fld 32 w 2048))
  | 0x0C => some (.mulhu (fld 32 w 2097152) (fld 32 w 65536) (fld 32 w 2048))
  | 0x0D => some (.div (fld 32 w 2097152) (fld 32 w 65536) (fld 32 w 2048))
  | 0x0E => some (.divu (fld 32 w 2097152) (fld 32 w 65536) (fld 32 w 2048))
  | 0x0F => some (.rem (fld 32 w 2097152) (fld 32 w 65536) (fld 32 w 2048))
  | 0x10 => some (.remu (fld 32 w 2097152) (fld 32 w 65536) (fld 32 w 2048))
  | 0x11 => some (.min (fld 32 w 2097152) (fld 32 w 65536) (fld 32 w 2048))
  | 0x12 => some (.max (fld 32 w 2097152) (fld 32 w 65536) (fld 32 w 2048))
  | 0x13 => some (.minu (fld 32 w 2097152) (fld 32 w 65536) (fld 32 w 2048))
  | 0x14 => some (.maxu (fld 32 w 2097152) (fld 32 w 65536) (fld 32 w 2048))
  | 0x15 => if w / 2048 % 32 = 0 then some (.clz (fld 32 w 2097152) (fld 32 w 65536)) else none
  | 0x16 => if w / 2048 % 32 = 0 then some (.ctz (fld 32 w 2097152) (fld 32 w 65536)) else none
  | 0x17 => if w / 2048 % 32 = 0 then some (.popc (fld 32 w 2097152) (fld 32 w 65536)) else none
  | _ => none

/-- Major 0x06 (R204 to R208). -/
def decShi (w : Nat) : Option Instr :=
  match w / 64 % 1024 with
  | 0x00 => some (.slli (fld 32 w 2097152) (fld 32 w 65536) (fld 64 w 1))
  | 0x100 => some (.srli (fld 32 w 2097152) (fld 32 w 65536) (fld 64 w 1))
  | 0x200 => some (.srai (fld 32 w 2097152) (fld 32 w 65536) (fld 64 w 1))
  | _ => none

/-- Major 0x12 (R204 to R208). -/
def decLd (w : Nat) : Option Instr :=
  match w / 8192 % 8 with
  | 0x00 => some (.ldB (fld 32 w 2097152) (fld 32 w 65536) (fld 8192 w 1))
  | 0x01 => some (.ldH (fld 32 w 2097152) (fld 32 w 65536) (fld 8192 w 1))
  | 0x02 => some (.ldW (fld 32 w 2097152) (fld 32 w 65536) (fld 8192 w 1))
  | 0x03 => some (.ldD (fld 32 w 2097152) (fld 32 w 65536) (fld 8192 w 1))
  | 0x04 => some (.ldBu (fld 32 w 2097152) (fld 32 w 65536) (fld 8192 w 1))
  | 0x05 => some (.ldHu (fld 32 w 2097152) (fld 32 w 65536) (fld 8192 w 1))
  | 0x06 => some (.ldWu (fld 32 w 2097152) (fld 32 w 65536) (fld 8192 w 1))
  | _ => none

/-- Major 0x13 (R204 to R208). -/
def decSt (w : Nat) : Option Instr :=
  match w / 8192 % 8 with
  | 0x00 => some (.stB (fld 32 w 2097152) (fld 32 w 65536) (fld 8192 w 1))
  | 0x01 => some (.stH (fld 32 w 2097152) (fld 32 w 65536) (fld 8192 w 1))
  | 0x02 => some (.stW (fld 32 w 2097152) (fld 32 w 65536) (fld 8192 w 1))
  | 0x03 => some (.stD (fld 32 w 2097152) (fld 32 w 65536) (fld 8192 w 1))
  | _ => none

/-- Major 0x14 (R204 to R208). -/
def decAmo (w : Nat) : Option Instr :=
  match w % 32 with
  | 0x00 => some (.amoSwap (fld 32 w 2097152) (fld 32 w 65536) (fld 32 w 2048) (fld 8 w 256) (fld 4 w 64) (flag w 32))
  | 0x01 => some (.amoAdd (fld 32 w 2097152) (fld 32 w 65536) (fld 32 w 2048) (fld 8 w 256) (fld 4 w 64) (flag w 32))
  | 0x02 => some (.amoAnd (fld 32 w 2097152) (fld 32 w 65536) (fld 32 w 2048) (fld 8 w 256) (fld 4 w 64) (flag w 32))
  | 0x03 => some (.amoOr (fld 32 w 2097152) (fld 32 w 65536) (fld 32 w 2048) (fld 8 w 256) (fld 4 w 64) (flag w 32))
  | 0x04 => some (.amoXor (fld 32 w 2097152) (fld 32 w 65536) (fld 32 w 2048) (fld 8 w 256) (fld 4 w 64) (flag w 32))
  | 0x05 => some (.amoMin (fld 32 w 2097152) (fld 32 w 65536) (fld 32 w 2048) (fld 8 w 256) (fld 4 w 64) (flag w 32))
  | 0x06 => some (.amoMax (fld 32 w 2097152) (fld 32 w 65536) (fld 32 w 2048) (fld 8 w 256) (fld 4 w 64) (flag w 32))
  | 0x07 => some (.amoMinu (fld 32 w 2097152) (fld 32 w 65536) (fld 32 w 2048) (fld 8 w 256) (fld 4 w 64) (flag w 32))
  | 0x08 => some (.amoMaxu (fld 32 w 2097152) (fld 32 w 65536) (fld 32 w 2048) (fld 8 w 256) (fld 4 w 64) (flag w 32))
  | 0x09 => some (.amoCas (fld 32 w 2097152) (fld 32 w 65536) (fld 32 w 2048) (fld 8 w 256) (fld 4 w 64) (flag w 32))
  | 0x0A => if w / 2048 % 32 = 0 then some (.amoLd (fld 32 w 2097152) (fld 32 w 65536) (fld 8 w 256) (fld 4 w 64) (flag w 32)) else none
  | 0x0B => if w / 2097152 % 32 = 0 then some (.amoSt (fld 32 w 65536) (fld 32 w 2048) (fld 8 w 256) (fld 4 w 64) (flag w 32)) else none
  | _ => none

/-- Major 0x15 (R204 to R208). -/
def decFence (w : Nat) : Option Instr :=
  match w % 16 with
  | 0x00 => if w / 16 % 4194304 = 0 then some .fenceSv else none
  | 0x01 => if w / 16 % 4194304 = 0 then some .fenceVs else none
  | 0x02 => if w / 16 % 4194304 = 0 then some .fenceSvW else none
  | 0x03 => if w / 128 % 524288 = 0 then some (.fenceAcq (fld 8 w 16)) else none
  | 0x04 => if w / 128 % 524288 = 0 then some (.fenceRel (fld 8 w 16)) else none
  | 0x05 => if w / 128 % 524288 = 0 then some (.fenceAr (fld 8 w 16)) else none
  | _ => none

/-- Major 0x16 (R204 to R208). -/
def decSys (w : Nat) : Option Instr :=
  match w % 16 with
  | 0x00 => if w / 65536 % 32 = 0 then some (.gsr (fld 32 w 2097152) (fld 4096 w 16)) else none
  | 0x01 => if w / 2097152 % 32 = 0 then some (.ssr (fld 32 w 65536) (fld 4096 w 16)) else none
  | 0x02 => if w / 65536 % 1024 = 0 then some (.trap (fld 4096 w 16)) else none
  | 0x03 => if w / 16 % 4194304 = 0 then some .tret else none
  | 0x04 => if w / 16 % 4194304 = 0 then some .gexit else none
  | 0x05 => if w / 16 % 4194304 = 0 then some .yield else none
  | 0x06 => if w / 2097152 % 32 = 0 then some (.spt (fld 131072 w 16)) else none
  | 0x07 => if w / 16 % 4096 = 0 ∧ w / 2097152 % 32 = 0 then some (.pwlease (fld 32 w 65536)) else none
  | _ => none

/-- Major 0x17 (R204 to R208). -/
def decFut (w : Nat) : Option Instr :=
  match w % 2048 with
  | 0x00 => if w / 2048 % 32 = 0 then some (.fld (fld 32 w 2097152) (fld 32 w 65536)) else none
  | 0x01 => if w / 2048 % 32 = 0 then some (.fldE (fld 32 w 2097152) (fld 32 w 65536)) else none
  | 0x02 => if w / 2048 % 32 = 0 then some (.fldx (fld 32 w 2097152) (fld 32 w 65536)) else none
  | 0x03 => if w / 2048 % 32 = 0 then some (.fldxE (fld 32 w 2097152) (fld 32 w 65536)) else none
  | 0x04 => if w / 2097152 % 32 = 0 then some (.ffill (fld 32 w 65536) (fld 32 w 2048)) else none
  | _ => none

/-- Major 0x18 (R204 to R208). -/
def decSync (w : Nat) : Option Instr :=
  match w % 2048 with
  | 0x00 => if w / 2048 % 32 = 0 then some (.tbar (fld 32 w 2097152) (fld 32 w 65536)) else none
  | 0x01 => if w / 2048 % 32 = 0 then some (.carrive (fld 32 w 2097152) (fld 32 w 65536)) else none
  | 0x02 => if w / 2097152 % 32 = 0 then some (.cwait (fld 32 w 65536) (fld 32 w 2048)) else none
  | 0x03 => if w / 2048 % 32 = 0 then some (.tattach (fld 32 w 2097152) (fld 32 w 65536)) else none
  | 0x04 => if w / 2048 % 32768 = 0 then some .tdetach else none
  | 0x05 => if w / 2097152 % 32 = 0 then some (.ipost (fld 32 w 65536) (fld 32 w 2048)) else none
  | 0x06 => some (.iwait (fld 32 w 2097152) (fld 32 w 65536) (fld 32 w 2048))
  | 0x07 => if w / 2048 % 32 = 0 then some (.sgrab (fld 32 w 2097152) (fld 32 w 65536)) else none
  | 0x08 => if w / 2097152 % 32 = 0 then some (.sspawn (fld 32 w 65536) (fld 32 w 2048)) else none
  | _ => none

/-- Major 0x19 (R204 to R208). -/
def decCfg (w : Nat) : Option Instr :=
  match w % 16 with
  | 0x00 => if w / 16 % 4096 = 0 then some (.vcfg (fld 32 w 2097152) (fld 32 w 65536)) else none
  | 0x01 => if w / 512 % 128 = 0 then some (.vgrant (fld 32 w 2097152) (fld 32 w 65536) (fld 4 w 128) (fld 8 w 16)) else none
  | 0x02 => if w / 16 % 4096 = 0 then some (.mshape (fld 32 w 2097152) (fld 32 w 65536)) else none
  | _ => none

/-- Major 0x20 (R204 to R208). -/
def decVarith (w : Nat) : Option Instr :=
  match w % 64 with
  | 0x00 => some (.vadd (fld 32 w 2097152) (fld 32 w 65536) (fld 32 w 2048) (fld 8 w 256) (flag w 128) (flag w 64))
  | 0x01 => some (.vsub (fld 32 w 2097152) (fld 32 w 65536) (fld 32 w 2048) (fld 8 w 256) (flag w 128) (flag w 64))
  | 0x02 => some (.vrsub (fld 32 w 2097152) (fld 32 w 65536) (fld 32 w 2048) (fld 8 w 256) (flag w 128) (flag w 64))
  | 0x03 => some (.vmul (fld 32 w 2097152) (fld 32 w 65536) (fld 32 w 2048) (fld 8 w 256) (flag w 128) (flag w 64))
  | 0x04 => some (.vmulh (fld 32 w 2097152) (fld 32 w 65536) (fld 32 w 2048) (fld 8 w 256) (flag w 128) (flag w 64))
  | 0x05 => some (.vdiv (fld 32 w 2097152) (fld 32 w 65536) (fld 32 w 2048) (fld 8 w 256) (flag w 128) (flag w 64))
  | 0x06 => some (.vrem (fld 32 w 2097152) (fld 32 w 65536) (fld 32 w 2048) (fld 8 w 256) (flag w 128) (flag w 64))
  | 0x07 => some (.vmin (fld 32 w 2097152) (fld 32 w 65536) (fld 32 w 2048) (fld 8 w 256) (flag w 128) (flag w 64))
  | 0x08 => some (.vmax (fld 32 w 2097152) (fld 32 w 65536) (fld 32 w 2048) (fld 8 w 256) (flag w 128) (flag w 64))
  | 0x09 => some (.vfma (fld 32 w 2097152) (fld 32 w 65536) (fld 32 w 2048) (fld 8 w 256) (flag w 128) (flag w 64))
  | 0x0A => some (.vfms (fld 32 w 2097152) (fld 32 w 65536) (fld 32 w 2048) (fld 8 w 256) (flag w 128) (flag w 64))
  | 0x0B => some (.vfnma (fld 32 w 2097152) (fld 32 w 65536) (fld 32 w 2048) (fld 8 w 256) (flag w 128) (flag w 64))
  | 0x0C => some (.vsadd (fld 32 w 2097152) (fld 32 w 65536) (fld 32 w 2048) (fld 8 w 256) (flag w 128) (flag w 64))
  | 0x0D => some (.vssub (fld 32 w 2097152) (fld 32 w 65536) (fld 32 w 2048) (fld 8 w 256) (flag w 128) (flag w 64))
  | 0x0E => if w / 64 % 2 = 0 ∧ w / 65536 % 32 = 0 then some (.vabs (fld 32 w 2097152) (fld 32 w 2048) (fld 8 w 256) (flag w 128)) else none
  | 0x0F => if w / 64 % 2 = 0 ∧ w / 65536 % 32 = 0 then some (.vneg (fld 32 w 2097152) (fld 32 w 2048) (fld 8 w 256) (flag w 128)) else none
  | 0x10 => some (.vabsd (fld 32 w 2097152) (fld 32 w 65536) (fld 32 w 2048) (fld 8 w 256) (flag w 128) (flag w 64))
  | _ => none

/-- Major 0x21 (R204 to R208). -/
def decVlogic (w : Nat) : Option Instr :=
  match w % 64 with
  | 0x00 => some (.vand (fld 32 w 2097152) (fld 32 w 65536) (fld 32 w 2048) (fld 8 w 256) (flag w 128) (flag w 64))
  | 0x01 => some (.vor (fld 32 w 2097152) (fld 32 w 65536) (fld 32 w 2048) (fld 8 w 256) (flag w 128) (flag w 64))
  | 0x02 => some (.vxor (fld 32 w 2097152) (fld 32 w 65536) (fld 32 w 2048) (fld 8 w 256) (flag w 128) (flag w 64))
  | 0x03 => some (.vandn (fld 32 w 2097152) (fld 32 w 65536) (fld 32 w 2048) (fld 8 w 256) (flag w 128) (flag w 64))
  | 0x04 => if w / 64 % 2 = 0 ∧ w / 65536 % 32 = 0 then some (.vnot (fld 32 w 2097152) (fld 32 w 2048) (fld 8 w 256) (flag w 128)) else none
  | 0x05 => some (.vsll (fld 32 w 2097152) (fld 32 w 65536) (fld 32 w 2048) (fld 8 w 256) (flag w 128) (flag w 64))
  | 0x06 => some (.vsrl (fld 32 w 2097152) (fld 32 w 65536) (fld 32 w 2048) (fld 8 w 256) (flag w 128) (flag w 64))
  | 0x07 => some (.vsra (fld 32 w 2097152) (fld 32 w 65536) (fld 32 w 2048) (fld 8 w 256) (flag w 128) (flag w 64))
  | 0x08 => if w / 64 % 2 = 0 ∧ w / 65536 % 32 = 0 then some (.vclz (fld 32 w 2097152) (fld 32 w 2048) (fld 8 w 256) (flag w 128)) else none
  | 0x09 => if w / 64 % 2 = 0 ∧ w / 65536 % 32 = 0 then some (.vpopc (fld 32 w 2097152) (fld 32 w 2048) (fld 8 w 256) (flag w 128)) else none
  | _ => none

/-- Major 0x22 (R204 to R208). -/
def decVcmp (w : Nat) : Option Instr :=
  match w % 64 with
  | 0x00 => if w / 16777216 % 4 = 0 then some (.vceq (fld 8 w 2097152) (fld 32 w 65536) (fld 32 w 2048) (fld 8 w 256) (flag w 128) (flag w 64)) else none
  | 0x01 => if w / 16777216 % 4 = 0 then some (.vcne (fld 8 w 2097152) (fld 32 w 65536) (fld 32 w 2048) (fld 8 w 256) (flag w 128) (flag w 64)) else none
  | 0x02 => if w / 16777216 % 4 = 0 then some (.vclt (fld 8 w 2097152) (fld 32 w 65536) (fld 32 w 2048) (fld 8 w 256) (flag w 128) (flag w 64)) else none
  | 0x03 => if w / 16777216 % 4 = 0 then some (.vcle (fld 8 w 2097152) (fld 32 w 65536) (fld 32 w 2048) (fld 8 w 256) (flag w 128) (flag w 64)) else none
  | 0x04 => if w / 16777216 % 4 = 0 then some (.vcgt (fld 8 w 2097152) (fld 32 w 65536) (fld 32 w 2048) (fld 8 w 256) (flag w 128) (flag w 64)) else none
  | 0x05 => if w / 16777216 % 4 = 0 then some (.vcge (fld 8 w 2097152) (fld 32 w 65536) (fld 32 w 2048) (fld 8 w 256) (flag w 128) (flag w 64)) else none
  | 0x06 => if w / 16777216 % 4 = 0 then some (.vcun (fld 8 w 2097152) (fld 32 w 65536) (fld 32 w 2048) (fld 8 w 256) (flag w 128) (flag w 64)) else none
  | _ => none

/-- Major 0x23 (R204 to R208). -/
def decVcvt (w : Nat) : Option Instr :=
  match w % 128 with
  | 0x00 => some (.vcvt (fld 32 w 2097152) (fld 32 w 65536) (fld 32 w 2048) (fld 8 w 256) (flag w 128))
  | 0x01 => some (.vcvtSat (fld 32 w 2097152) (fld 32 w 65536) (fld 32 w 2048) (fld 8 w 256) (flag w 128))
  | 0x02 => some (.vretag (fld 32 w 2097152) (fld 32 w 65536) (fld 32 w 2048) (fld 8 w 256) (flag w 128))
  | _ => none

/-- Major 0x24 (R204 to R208). -/
def decVred (w : Nat) : Option Instr :=
  match w % 128 with
  | 0x00 => some (.vredsum (fld 32 w 2097152) (fld 32 w 65536) (fld 32 w 2048) (fld 8 w 256) (flag w 128))
  | 0x01 => some (.vredsumU (fld 32 w 2097152) (fld 32 w 65536) (fld 32 w 2048) (fld 8 w 256) (flag w 128))
  | 0x02 => some (.vredmin (fld 32 w 2097152) (fld 32 w 65536) (fld 32 w 2048) (fld 8 w 256) (flag w 128))
  | 0x03 => some (.vredmax (fld 32 w 2097152) (fld 32 w 65536) (fld 32 w 2048) (fld 8 w 256) (flag w 128))
  | 0x04 => some (.vredand (fld 32 w 2097152) (fld 32 w 65536) (fld 32 w 2048) (fld 8 w 256) (flag w 128))
  | 0x05 => some (.vredor (fld 32 w 2097152) (fld 32 w 65536) (fld 32 w 2048) (fld 8 w 256) (flag w 128))
  | 0x06 => some (.vredxor (fld 32 w 2097152) (fld 32 w 65536) (fld 32 w 2048) (fld 8 w 256) (flag w 128))
  | 0x07 => some (.vscan (fld 32 w 2097152) (fld 32 w 65536) (fld 32 w 2048) (fld 8 w 256) (flag w 128))
  | _ => none

/-- Major 0x25 (R204 to R208). -/
def decVperm (w : Nat) : Option Instr :=
  match w % 64 with
  | 0x00 => if w / 65536 % 32 = 0 then some (.vmv (fld 32 w 2097152) (fld 32 w 2048) (fld 8 w 256) (flag w 128) (flag w 64)) else none
  | 0x01 => if w / 64 % 2 = 0 ∧ w / 256 % 8 = 0 ∧ w / 65536 % 32 = 0 then some (.vmvX (fld 32 w 2097152) (fld 32 w 2048) (flag w 128)) else none
  | 0x02 => some (.vslup (fld 32 w 2097152) (fld 32 w 65536) (fld 32 w 2048) (fld 8 w 256) (flag w 128) (flag w 64))
  | 0x03 => some (.vsldn (fld 32 w 2097152) (fld 32 w 65536) (fld 32 w 2048) (fld 8 w 256) (flag w 128) (flag w 64))
  | 0x04 => if w / 64 % 2 = 0 then some (.vgath (fld 32 w 2097152) (fld 32 w 65536) (fld 32 w 2048) (fld 8 w 256) (flag w 128)) else none
  | 0x05 => if w / 64 % 2 = 0 ∧ w / 65536 % 32 = 0 then some (.vcompr (fld 32 w 2097152) (fld 32 w 2048) (fld 8 w 256) (flag w 128)) else none
  | 0x06 => if w / 64 % 2 = 0 ∧ w / 65536 % 32 = 0 then some (.vexpd (fld 32 w 2097152) (fld 32 w 2048) (fld 8 w 256) (flag w 128)) else none
  | 0x07 => if w / 64 % 2 = 0 ∧ w / 65536 % 32 = 0 then some (.vrev (fld 32 w 2097152) (fld 32 w 2048) (fld 8 w 256) (flag w 128)) else none
  | _ => none

/-- Major 0x26 (R204 to R208). -/
def decVsfu (w : Nat) : Option Instr :=
  match w % 128 with
  | 0x00 => if w / 65536 % 32 = 0 then some (.vrcp (fld 32 w 2097152) (fld 32 w 2048) (fld 8 w 256) (flag w 128)) else none
  | 0x01 => if w / 65536 % 32 = 0 then some (.vrsqrt (fld 32 w 2097152) (fld 32 w 2048) (fld 8 w 256) (flag w 128)) else none
  | 0x02 => if w / 65536 % 32 = 0 then some (.vsqrt (fld 32 w 2097152) (fld 32 w 2048) (fld 8 w 256) (flag w 128)) else none
  | 0x03 => if w / 65536 % 32 = 0 then some (.vexp2 (fld 32 w 2097152) (fld 32 w 2048) (fld 8 w 256) (flag w 128)) else none
  | 0x04 => if w / 65536 % 32 = 0 then some (.vlog2 (fld 32 w 2097152) (fld 32 w 2048) (fld 8 w 256) (flag w 128)) else none
  | 0x05 => if w / 65536 % 32 = 0 then some (.vsin (fld 32 w 2097152) (fld 32 w 2048) (fld 8 w 256) (flag w 128)) else none
  | 0x06 => if w / 65536 % 32 = 0 then some (.vcos (fld 32 w 2097152) (fld 32 w 2048) (fld 8 w 256) (flag w 128)) else none
  | 0x07 => if w / 65536 % 32 = 0 then some (.vtanh (fld 32 w 2097152) (fld 32 w 2048) (fld 8 w 256) (flag w 128)) else none
  | _ => none

/-- Major 0x28 (R204 to R208). -/
def decVmask (w : Nat) : Option Instr :=
  match w % 128 with
  | 0x00 => if w / 16384 % 4 = 0 ∧ w / 524288 % 4 = 0 ∧ w / 16777216 % 4 = 0 then some (.mand (fld 8 w 2097152) (fld 8 w 65536) (fld 8 w 2048) (fld 8 w 256) (flag w 128)) else none
  | 0x01 => if w / 16384 % 4 = 0 ∧ w / 524288 % 4 = 0 ∧ w / 16777216 % 4 = 0 then some (.mor (fld 8 w 2097152) (fld 8 w 65536) (fld 8 w 2048) (fld 8 w 256) (flag w 128)) else none
  | 0x02 => if w / 16384 % 4 = 0 ∧ w / 524288 % 4 = 0 ∧ w / 16777216 % 4 = 0 then some (.mxor (fld 8 w 2097152) (fld 8 w 65536) (fld 8 w 2048) (fld 8 w 256) (flag w 128)) else none
  | 0x03 => if w / 16384 % 4 = 0 ∧ w / 524288 % 4 = 0 ∧ w / 16777216 % 4 = 0 then some (.mandn (fld 8 w 2097152) (fld 8 w 65536) (fld 8 w 2048) (fld 8 w 256) (flag w 128)) else none
  | 0x04 => if w / 16384 % 128 = 0 ∧ w / 16777216 % 4 = 0 then some (.mnot (fld 8 w 2097152) (fld 8 w 2048) (fld 8 w 256) (flag w 128)) else none
  | 0x05 => if w / 2048 % 1024 = 0 ∧ w / 16777216 % 4 = 0 then some (.mset (fld 8 w 2097152) (fld 8 w 256) (flag w 128)) else none
  | 0x06 => if w / 2048 % 1024 = 0 ∧ w / 16777216 % 4 = 0 then some (.mclr (fld 8 w 2097152) (fld 8 w 256) (flag w 128)) else none
  | 0x07 => if w / 16384 % 128 = 0 then some (.mpopc (fld 32 w 2097152) (fld 8 w 2048) (fld 8 w 256) (flag w 128)) else none
  | 0x08 => if w / 16384 % 128 = 0 then some (.mfirst (fld 32 w 2097152) (fld 8 w 2048) (fld 8 w 256) (flag w 128)) else none
  | _ => none

/-- Major 0x29 (R204 to R208). -/
def decVthr (body : Bool) (w : Nat) : Option Instr :=
  match w % 64 with
  | 0x00 => if w / 64 % 4 = 1 ∧ w / 65536 % 1024 = 0 then some (.vfetch (fld 32 w 2048) (fld 8 w 256)) else none
  | 0x01 => if w / 128 % 2 = 0 ∧ w / 65536 % 1024 = 0 then some (.tfetch (fld 32 w 2048) (fld 8 w 256) (flag w 64)) else none
  | 0x02 => if w / 64 % 1048576 = 0 then some .vsync else none
  | 0x03 => if body = false ∧ w / 64 % 1024 = 0 ∧ w / 2097152 % 32 = 0 then some (.xqsendCt (fld 32 w 65536)) else if w / 64 % 4 = 0 ∧ w / 2048 % 32 = 0 ∧ w / 2097152 % 32 = 0 then some (.xqsend (fld 32 w 65536) (fld 8 w 256)) else none
  | 0x04 => if body = false ∧ w / 64 % 32768 = 0 then some (.xqrecvCt (fld 32 w 2097152)) else if w / 64 % 4 = 0 ∧ w / 2048 % 1024 = 0 then some (.xqrecv (fld 32 w 2097152) (fld 8 w 256)) else none
  | 0x05 => if w / 64 % 4 = 0 ∧ w / 2048 % 1024 = 0 then some (.vpid (fld 32 w 2097152) (fld 8 w 256)) else none
  | _ => none

/-- Major 0x2B (R204 to R208). -/
def decVld (w : Nat) : Option Instr :=
  match w / 8 % 8 with
  | 0x00 => if w % 8 = 0 ∧ w / 2048 % 32 = 0 then some (.vld (fld 32 w 2097152) (fld 32 w 65536) (fld 8 w 256) (flag w 128) (flag w 64)) else none
  | 0x01 => if w % 8 = 0 then some (.vldS (fld 32 w 2097152) (fld 32 w 65536) (fld 32 w 2048) (fld 8 w 256) (flag w 128) (flag w 64)) else none
  | 0x02 => some (.vldX (fld 32 w 2097152) (fld 32 w 65536) (fld 32 w 2048) (fld 8 w 256) (flag w 128) (flag w 64) (fld 8 w 1))
  | 0x03 => if w % 8 = 0 ∧ w / 64 % 2 = 0 ∧ w / 2048 % 32 = 0 then some (.vldFf (fld 32 w 2097152) (fld 32 w 65536) (fld 8 w 256) (flag w 128)) else none
  | 0x04 => if w % 8 = 0 ∧ w / 64 % 2 = 0 ∧ w / 2048 % 32 = 0 then some (.vldSeg (fld 32 w 2097152) (fld 32 w 65536) (fld 8 w 256) (flag w 128)) else none
  | 0x05 => if w % 8 = 0 ∧ w / 2048 % 32 = 0 then some (.vldC (fld 32 w 2097152) (fld 32 w 65536) (fld 8 w 256) (flag w 128) (flag w 64)) else none
  | 0x06 => if w % 8 = 0 then some (.vldCs (fld 32 w 2097152) (fld 32 w 65536) (fld 32 w 2048) (fld 8 w 256) (flag w 128) (flag w 64)) else none
  | 0x07 => some (.vldCx (fld 32 w 2097152) (fld 32 w 65536) (fld 32 w 2048) (fld 8 w 256) (flag w 128) (flag w 64) (fld 8 w 1))
  | _ => none

/-- Major 0x2C (R204 to R208). -/
def decVst (w : Nat) : Option Instr :=
  match w / 8 % 8 with
  | 0x00 => if w % 8 = 0 ∧ w / 2048 % 32 = 0 then some (.vst (fld 32 w 2097152) (fld 32 w 65536) (fld 8 w 256) (flag w 128) (flag w 64)) else none
  | 0x01 => if w % 8 = 0 then some (.vstS (fld 32 w 2097152) (fld 32 w 65536) (fld 32 w 2048) (fld 8 w 256) (flag w 128) (flag w 64)) else none
  | 0x02 => some (.vstX (fld 32 w 2097152) (fld 32 w 65536) (fld 32 w 2048) (fld 8 w 256) (flag w 128) (flag w 64) (fld 8 w 1))
  | 0x03 => if w % 8 = 0 ∧ w / 2048 % 32 = 0 then some (.vstU (fld 32 w 2097152) (fld 32 w 65536) (fld 8 w 256) (flag w 128) (flag w 64)) else none
  | 0x04 => if w % 8 = 0 ∧ w / 64 % 2 = 0 ∧ w / 2048 % 32 = 0 then some (.vstSeg (fld 32 w 2097152) (fld 32 w 65536) (fld 8 w 256) (flag w 128)) else none
  | 0x05 => if w % 8 = 0 then some (.vstSu (fld 32 w 2097152) (fld 32 w 65536) (fld 32 w 2048) (fld 8 w 256) (flag w 128) (flag w 64)) else none
  | 0x06 => some (.vstXu (fld 32 w 2097152) (fld 32 w 65536) (fld 32 w 2048) (fld 8 w 256) (flag w 128) (flag w 64) (fld 8 w 1))
  | _ => none

/-- Major 0x2D (R204 to R208). -/
def decVamo (w : Nat) : Option Instr :=
  match w % 128 with
  | 0x00 => some (.vamoSwap (fld 32 w 2097152) (fld 8 w 262144) (fld 4 w 65536) (fld 32 w 2048) (fld 8 w 256) (flag w 128))
  | 0x08 => some (.vamoAdd (fld 32 w 2097152) (fld 8 w 262144) (fld 4 w 65536) (fld 32 w 2048) (fld 8 w 256) (flag w 128))
  | 0x10 => some (.vamoAnd (fld 32 w 2097152) (fld 8 w 262144) (fld 4 w 65536) (fld 32 w 2048) (fld 8 w 256) (flag w 128))
  | 0x18 => some (.vamoOr (fld 32 w 2097152) (fld 8 w 262144) (fld 4 w 65536) (fld 32 w 2048) (fld 8 w 256) (flag w 128))
  | 0x20 => some (.vamoXor (fld 32 w 2097152) (fld 8 w 262144) (fld 4 w 65536) (fld 32 w 2048) (fld 8 w 256) (flag w 128))
  | 0x28 => some (.vamoMin (fld 32 w 2097152) (fld 8 w 262144) (fld 4 w 65536) (fld 32 w 2048) (fld 8 w 256) (flag w 128))
  | 0x30 => some (.vamoMax (fld 32 w 2097152) (fld 8 w 262144) (fld 4 w 65536) (fld 32 w 2048) (fld 8 w 256) (flag w 128))
  | 0x38 => if w / 65536 % 32 = 0 then some (.samo (fld 32 w 2097152) (fld 32 w 2048) (fld 8 w 256) (flag w 128)) else none
  | 0x40 => if w / 65536 % 32 = 0 then some (.samoO (fld 32 w 2097152) (fld 32 w 2048) (fld 8 w 256) (flag w 128)) else none
  | _ => none

/-- Major 0x2E (R204 to R208). -/
def decVstrm (w : Nat) : Option Instr :=
  match w % 256 with
  | 0x00 => if w / 256 % 256 = 0 then some (.sbindM (fld 32 w 2097152) (fld 32 w 65536)) else none
  | 0x08 => if w / 256 % 8 = 0 ∧ w / 16384 % 128 = 0 then some (.sbindQR (fld 32 w 2097152) (fld 8 w 2048)) else none
  | 0x09 => if w / 256 % 8 = 0 ∧ w / 16384 % 128 = 0 then some (.sbindQW (fld 32 w 2097152) (fld 8 w 2048)) else none
  | 0x10 => if w / 256 % 8192 = 0 then some (.sunbind (fld 32 w 2097152)) else none
  | 0x18 => some (.bse (fld 32 w 2097152) (fld 8192 w 256))
  | _ => none

/-- Major 0x2F (R204 to R208). -/
def decVfut (w : Nat) : Option Instr :=
  match w % 256 with
  | 0x00 => if w / 16384 % 4 = 0 then some (.fldv (fld 32 w 2097152) (fld 32 w 65536) (fld 8 w 2048) (fld 8 w 256)) else none
  | 0x08 => if w / 16384 % 4 = 0 then some (.fldvX (fld 32 w 2097152) (fld 32 w 65536) (fld 8 w 2048) (fld 8 w 256)) else none
  | 0x10 => if w / 65536 % 32 = 0 then some (.vffill (fld 32 w 2097152) (fld 32 w 2048) (fld 8 w 256)) else none
  | _ => none

/-- Major 0x30 (R204 to R208). -/
def decCopy (w : Nat) : Option Instr :=
  match w % 128 with
  | 0x00 => if w / 524288 % 4 = 0 then some (.cpy (fld 32 w 2097152) (fld 8 w 65536) (fld 32 w 2048) (fld 8 w 256) (flag w 128)) else none
  | 0x01 => if w / 16384 % 4 = 0 then some (.cpyG (fld 32 w 2097152) (fld 32 w 65536) (fld 8 w 2048) (fld 8 w 256) (flag w 128)) else none
  | _ => none

/-- Major 0x31 (R204 to R208). -/
def decBatch (w : Nat) : Option Instr :=
  match w % 256 with
  | 0x00 => if w / 2048 % 1024 = 0 then some (.bclose (fld 32 w 2097152) (fld 8 w 256)) else none
  | 0x01 => if w / 2048 % 1024 = 0 then some (.bwait (fld 32 w 2097152) (fld 8 w 256)) else none
  | 0x02 => if w / 256 % 8192 = 0 then some (.bwaitm (fld 32 w 2097152)) else none
  | _ => none

/-- Major 0x32 (R204 to R208). -/
def decRation (w : Nat) : Option Instr :=
  match w % 2048 with
  | 0x00 => if w / 65536 % 32 = 0 then some (.rdecl (fld 32 w 2097152) (fld 32 w 2048)) else none
  | 0x01 => if w / 2048 % 32768 = 64 then some .rcloseTeam else if w / 2048 % 32768 = 96 then some .rcloseClu else none
  | 0x02 => if w / 131072 % 16 = 0 then some (.rchk (fld 32 w 2097152) (flag w 65536) (fld 32 w 2048)) else none
  | _ => none

/-- Major 0x33 (R204 to R208). -/
def decMma (w : Nat) : Option Instr :=
  match w % 128 with
  | 0x00 => some (.mma (fld 32 w 2097152) (fld 32 w 65536) (flag w 32768) (flag w 16384) (fld 8 w 2048) (fld 8 w 256) (flag w 128))
  | 0x01 => if w / 16384 % 4 = 3 then some (.mmas (fld 32 w 2097152) (fld 32 w 65536) (fld 8 w 2048) (fld 8 w 256) (flag w 128)) else none
  | 0x02 => if w / 16384 % 4 = 3 then some (.mjoin (fld 32 w 2097152) (fld 32 w 65536) (fld 8 w 2048) (fld 8 w 256) (flag w 128)) else none
  | 0x03 => if w / 128 % 524288 = 0 then some .mfence else none
  | _ => none

/-- Major 0x34 (R204 to R208). -/
def decMacc (w : Nat) : Option Instr :=
  match w % 2048 with
  | 0x00 => if w / 16384 % 4096 = 0 then some (.mzero (fld 8 w 2048)) else none
  | 0x01 => if w / 16384 % 4 = 0 then some (.mput (fld 32 w 2097152) (fld 32 w 65536) (fld 8 w 2048)) else none
  | 0x02 => if w / 16384 % 4 = 0 then some (.mext (fld 32 w 2097152) (fld 32 w 65536) (fld 8 w 2048)) else none
  | 0x03 => if w / 16384 % 128 = 0 then some (.zset (fld 32 w 2097152) (fld 8 w 2048)) else none
  | 0x04 => if w / 16384 % 128 = 0 then some (.zget (fld 32 w 2097152) (fld 8 w 2048)) else none
  | _ => none

/-- Major 0x35 (R204 to R208). -/
def decSpv (w : Nat) : Option Instr :=
  match w % 2048 with
  | 0x00 => if w / 2048 % 32 = 0 ∧ w / 16777216 % 4 = 0 then some (.sld (fld 8 w 2097152) (fld 32 w 65536)) else none
  | 0x01 => if w / 2048 % 32 = 0 ∧ w / 16777216 % 4 = 0 then some (.sst (fld 8 w 2097152) (fld 32 w 65536)) else none
  | 0x02 => if w / 16384 % 4 = 0 ∧ w / 524288 % 4 = 0 ∧ w / 16777216 % 4 = 0 then some (.sadd (fld 8 w 2097152) (fld 8 w 65536) (fld 8 w 2048)) else none
  | 0x03 => if w / 16384 % 4 = 0 ∧ w / 524288 % 4 = 0 ∧ w / 16777216 % 4 = 0 then some (.smul (fld 8 w 2097152) (fld 8 w 65536) (fld 8 w 2048)) else none
  | 0x04 => if w / 16384 % 4 = 0 ∧ w / 524288 % 4 = 0 then some (.sdot (fld 32 w 2097152) (fld 8 w 65536) (fld 8 w 2048)) else none
  | 0x05 => if w / 16384 % 4 = 0 ∧ w / 16777216 % 4 = 0 then some (.sfromv (fld 8 w 2097152) (fld 32 w 65536) (fld 8 w 2048)) else none
  | 0x06 => if w / 16384 % 4 = 0 ∧ w / 524288 % 4 = 0 then some (.stov (fld 32 w 2097152) (fld 8 w 65536) (fld 8 w 2048)) else none
  | 0x07 => if w / 2048 % 32 = 0 ∧ w / 524288 % 4 = 0 then some (.slen (fld 32 w 2097152) (fld 8 w 65536)) else none
  | _ => none

/-- The instruction that a 32-bit word encodes; `body` says that it is read as a word of an AIB body.
None: no row of the opcode table has the word (R217). -/
def decode (body : Bool) (w : Nat) : Option Instr :=
  match w / 67108864 with
  | 0x01 => decAlu w
  | 0x02 => some (.addi (fld 32 w 2097152) (fld 32 w 65536) (fld 65536 w 1))
  | 0x03 => some (.andi (fld 32 w 2097152) (fld 32 w 65536) (fld 65536 w 1))
  | 0x04 => some (.ori (fld 32 w 2097152) (fld 32 w 65536) (fld 65536 w 1))
  | 0x05 => some (.xori (fld 32 w 2097152) (fld 32 w 65536) (fld 65536 w 1))
  | 0x06 => decShi w
  | 0x07 => some (.slti (fld 32 w 2097152) (fld 32 w 65536) (fld 65536 w 1))
  | 0x08 => some (.ldhi (fld 32 w 2097152) (fld 2097152 w 1))
  | 0x09 => some (.adpc (fld 32 w 2097152) (fld 2097152 w 1))
  | 0x0A => some (.beq (fld 32 w 2097152) (fld 32 w 65536) (fld 65536 w 1))
  | 0x0B => some (.bne (fld 32 w 2097152) (fld 32 w 65536) (fld 65536 w 1))
  | 0x0C => some (.blt (fld 32 w 2097152) (fld 32 w 65536) (fld 65536 w 1))
  | 0x0D => some (.bge (fld 32 w 2097152) (fld 32 w 65536) (fld 65536 w 1))
  | 0x0E => some (.bltu (fld 32 w 2097152) (fld 32 w 65536) (fld 65536 w 1))
  | 0x0F => some (.bgeu (fld 32 w 2097152) (fld 32 w 65536) (fld 65536 w 1))
  | 0x10 => some (.jl (fld 67108864 w 1))
  | 0x11 => some (.jlr (fld 32 w 2097152) (fld 32 w 65536) (fld 65536 w 1))
  | 0x12 => decLd w
  | 0x13 => decSt w
  | 0x14 => decAmo w
  | 0x15 => decFence w
  | 0x16 => decSys w
  | 0x17 => decFut w
  | 0x18 => decSync w
  | 0x19 => decCfg w
  | 0x20 => decVarith w
  | 0x21 => decVlogic w
  | 0x22 => decVcmp w
  | 0x23 => decVcvt w
  | 0x24 => decVred w
  | 0x25 => decVperm w
  | 0x26 => decVsfu w
  | 0x27 => some (.vidx (fld 32 w 2097152) (fld 1024 w 2048) (fld 8 w 256) (flag w 128) (fld 128 w 1))
  | 0x28 => decVmask w
  | 0x29 => decVthr body w
  | 0x2B => decVld w
  | 0x2C => decVst w
  | 0x2D => decVamo w
  | 0x2E => decVstrm w
  | 0x2F => decVfut w
  | 0x30 => decCopy w
  | 0x31 => decBatch w
  | 0x32 => decRation w
  | 0x33 => decMma w
  | 0x34 => decMacc w
  | 0x35 => decSpv w
  | 0x3E => some (.hint (fld 67108864 w 1))
  | _ => none

/-- The word of an instruction, from the same tables (R201 to R208). The steps of units have none. -/
def encode (i : Instr) : Option Nat :=
  match i with
  | .add d a b => some (67108864 + d.val * 2097152 + a.val * 65536 + b.val * 2048)
  | .sub d a b => some (67108865 + d.val * 2097152 + a.val * 65536 + b.val * 2048)
  | .and d a b => some (67108866 + d.val * 2097152 + a.val * 65536 + b.val * 2048)
  | .or d a b => some (67108867 + d.val * 2097152 + a.val * 65536 + b.val * 2048)
  | .xor d a b => some (67108868 + d.val * 2097152 + a.val * 65536 + b.val * 2048)
  | .sll d a b => some (67108869 + d.val * 2097152 + a.val * 65536 + b.val * 2048)
  | .srl d a b => some (67108870 + d.val * 2097152 + a.val * 65536 + b.val * 2048)
  | .sra d a b => some (67108871 + d.val * 2097152 + a.val * 65536 + b.val * 2048)
  | .slt d a b => some (67108872 + d.val * 2097152 + a.val * 65536 + b.val * 2048)
  | .sltu d a b => some (67108873 + d.val * 2097152 + a.val * 65536 + b.val * 2048)
  | .mul d a b => some (67108874 + d.val * 2097152 + a.val * 65536 + b.val * 2048)
  | .mulh d a b => some (67108875 + d.val * 2097152 + a.val * 65536 + b.val * 2048)
  | .mulhu d a b => some (67108876 + d.val * 2097152 + a.val * 65536 + b.val * 2048)
  | .div d a b => some (67108877 + d.val * 2097152 + a.val * 65536 + b.val * 2048)
  | .divu d a b => some (67108878 + d.val * 2097152 + a.val * 65536 + b.val * 2048)
  | .rem d a b => some (67108879 + d.val * 2097152 + a.val * 65536 + b.val * 2048)
  | .remu d a b => some (67108880 + d.val * 2097152 + a.val * 65536 + b.val * 2048)
  | .min d a b => some (67108881 + d.val * 2097152 + a.val * 65536 + b.val * 2048)
  | .max d a b => some (67108882 + d.val * 2097152 + a.val * 65536 + b.val * 2048)
  | .minu d a b => some (67108883 + d.val * 2097152 + a.val * 65536 + b.val * 2048)
  | .maxu d a b => some (67108884 + d.val * 2097152 + a.val * 65536 + b.val * 2048)
  | .clz d a => some (67108885 + d.val * 2097152 + a.val * 65536)
  | .ctz d a => some (67108886 + d.val * 2097152 + a.val * 65536)
  | .popc d a => some (67108887 + d.val * 2097152 + a.val * 65536)
  | .addi d a i => some (134217728 + d.val * 2097152 + a.val * 65536 + i.val)
  | .andi d a i => some (201326592 + d.val * 2097152 + a.val * 65536 + i.val)
  | .ori d a i => some (268435456 + d.val * 2097152 + a.val * 65536 + i.val)
  | .xori d a i => some (335544320 + d.val * 2097152 + a.val * 65536 + i.val)
  | .slli d a s => some (402653184 + d.val * 2097152 + a.val * 65536 + s.val)
  | .srli d a s => some (402669568 + d.val * 2097152 + a.val * 65536 + s.val)
  | .srai d a s => some (402685952 + d.val * 2097152 + a.val * 65536 + s.val)
  | .slti d a i => some (469762048 + d.val * 2097152 + a.val * 65536 + i.val)
  | .ldhi d i => some (536870912 + d.val * 2097152 + i.val)
  | .adpc d i => some (603979776 + d.val * 2097152 + i.val)
  | .beq a b o => some (671088640 + a.val * 2097152 + b.val * 65536 + o.val)
  | .bne a b o => some (738197504 + a.val * 2097152 + b.val * 65536 + o.val)
  | .blt a b o => some (805306368 + a.val * 2097152 + b.val * 65536 + o.val)
  | .bge a b o => some (872415232 + a.val * 2097152 + b.val * 65536 + o.val)
  | .bltu a b o => some (939524096 + a.val * 2097152 + b.val * 65536 + o.val)
  | .bgeu a b o => some (1006632960 + a.val * 2097152 + b.val * 65536 + o.val)
  | .jl o => some (1073741824 + o.val)
  | .jlr d a i => some (1140850688 + d.val * 2097152 + a.val * 65536 + i.val)
  | .ldB d a o => some (1207959552 + d.val * 2097152 + a.val * 65536 + o.val)
  | .ldH d a o => some (1207967744 + d.val * 2097152 + a.val * 65536 + o.val)
  | .ldW d a o => some (1207975936 + d.val * 2097152 + a.val * 65536 + o.val)
  | .ldD d a o => some (1207984128 + d.val * 2097152 + a.val * 65536 + o.val)
  | .ldBu d a o => some (1207992320 + d.val * 2097152 + a.val * 65536 + o.val)
  | .ldHu d a o => some (1208000512 + d.val * 2097152 + a.val * 65536 + o.val)
  | .ldWu d a o => some (1208008704 + d.val * 2097152 + a.val * 65536 + o.val)
  | .stB s a o => some (1275068416 + s.val * 2097152 + a.val * 65536 + o.val)
  | .stH s a o => some (1275076608 + s.val * 2097152 + a.val * 65536 + o.val)
  | .stW s a o => some (1275084800 + s.val * 2097152 + a.val * 65536 + o.val)
  | .stD s a o => some (1275092992 + s.val * 2097152 + a.val * 65536 + o.val)
  | .amoSwap d a b s o w => some (1342177280 + d.val * 2097152 + a.val * 65536 + b.val * 2048 + s.val * 256 + o.val * 64 + flagBit w 32)
  | .amoAdd d a b s o w => some (1342177281 + d.val * 2097152 + a.val * 65536 + b.val * 2048 + s.val * 256 + o.val * 64 + flagBit w 32)
  | .amoAnd d a b s o w => some (1342177282 + d.val * 2097152 + a.val * 65536 + b.val * 2048 + s.val * 256 + o.val * 64 + flagBit w 32)
  | .amoOr d a b s o w => some (1342177283 + d.val * 2097152 + a.val * 65536 + b.val * 2048 + s.val * 256 + o.val * 64 + flagBit w 32)
  | .amoXor d a b s o w => some (1342177284 + d.val * 2097152 + a.val * 65536 + b.val * 2048 + s.val * 256 + o.val * 64 + flagBit w 32)
  | .amoMin d a b s o w => some (1342177285 + d.val * 2097152 + a.val * 65536 + b.val * 2048 + s.val * 256 + o.val * 64 + flagBit w 32)
  | .amoMax d a b s o w => some (1342177286 + d.val * 2097152 + a.val * 65536 + b.val * 2048 + s.val * 256 + o.val * 64 + flagBit w 32)
  | .amoMinu d a b s o w => some (1342177287 + d.val * 2097152 + a.val * 65536 + b.val * 2048 + s.val * 256 + o.val * 64 + flagBit w 32)
  | .amoMaxu d a b s o w => some (1342177288 + d.val * 2097152 + a.val * 65536 + b.val * 2048 + s.val * 256 + o.val * 64 + flagBit w 32)
  | .amoCas d a b s o w => some (1342177289 + d.val * 2097152 + a.val * 65536 + b.val * 2048 + s.val * 256 + o.val * 64 + flagBit w 32)
  | .amoLd d a s o w => some (1342177290 + d.val * 2097152 + a.val * 65536 + s.val * 256 + o.val * 64 + flagBit w 32)
  | .amoSt a b s o w => some (1342177291 + a.val * 65536 + b.val * 2048 + s.val * 256 + o.val * 64 + flagBit w 32)
  | .fenceSv => some (1409286144)
  | .fenceVs => some (1409286145)
  | .fenceSvW => some (1409286146)
  | .fenceAcq s => some (1409286147 + s.val * 16)
  | .fenceRel s => some (1409286148 + s.val * 16)
  | .fenceAr s => some (1409286149 + s.val * 16)
  | .gsr d n => some (1476395008 + d.val * 2097152 + n.val * 16)
  | .ssr a n => some (1476395009 + a.val * 65536 + n.val * 16)
  | .trap c => some (1476395010 + c.val * 16)
  | .tret => some (1476395011)
  | .gexit => some (1476395012)
  | .yield => some (1476395013)
  | .spt i => some (1476395014 + i.val * 16)
  | .pwlease a => some (1476395015 + a.val * 65536)
  | .fld d a => some (1543503872 + d.val * 2097152 + a.val * 65536)
  | .fldE d a => some (1543503873 + d.val * 2097152 + a.val * 65536)
  | .fldx d a => some (1543503874 + d.val * 2097152 + a.val * 65536)
  | .fldxE d a => some (1543503875 + d.val * 2097152 + a.val * 65536)
  | .ffill a b => some (1543503876 + a.val * 65536 + b.val * 2048)
  | .tbar d a => some (1610612736 + d.val * 2097152 + a.val * 65536)
  | .carrive d a => some (1610612737 + d.val * 2097152 + a.val * 65536)
  | .cwait a b => some (1610612738 + a.val * 65536 + b.val * 2048)
  | .tattach d a => some (1610612739 + d.val * 2097152 + a.val * 65536)
  | .tdetach => some (1610612740)
  | .ipost a b => some (1610612741 + a.val * 65536 + b.val * 2048)
  | .iwait d a b => some (1610612742 + d.val * 2097152 + a.val * 65536 + b.val * 2048)
  | .sgrab d a => some (1610612743 + d.val * 2097152 + a.val * 65536)
  | .sspawn a b => some (1610612744 + a.val * 65536 + b.val * 2048)
  | .vcfg d a => some (1677721600 + d.val * 2097152 + a.val * 65536)
  | .vgrant d a g w => some (1677721601 + d.val * 2097152 + a.val * 65536 + g.val * 128 + w.val * 16)
  | .mshape d a => some (1677721602 + d.val * 2097152 + a.val * 65536)
  | .vadd d a b m c k => some (2147483648 + d.val * 2097152 + a.val * 65536 + b.val * 2048 + m.val * 256 + flagBit c 128 + flagBit k 64)
  | .vsub d a b m c k => some (2147483649 + d.val * 2097152 + a.val * 65536 + b.val * 2048 + m.val * 256 + flagBit c 128 + flagBit k 64)
  | .vrsub d a b m c k => some (2147483650 + d.val * 2097152 + a.val * 65536 + b.val * 2048 + m.val * 256 + flagBit c 128 + flagBit k 64)
  | .vmul d a b m c k => some (2147483651 + d.val * 2097152 + a.val * 65536 + b.val * 2048 + m.val * 256 + flagBit c 128 + flagBit k 64)
  | .vmulh d a b m c k => some (2147483652 + d.val * 2097152 + a.val * 65536 + b.val * 2048 + m.val * 256 + flagBit c 128 + flagBit k 64)
  | .vdiv d a b m c k => some (2147483653 + d.val * 2097152 + a.val * 65536 + b.val * 2048 + m.val * 256 + flagBit c 128 + flagBit k 64)
  | .vrem d a b m c k => some (2147483654 + d.val * 2097152 + a.val * 65536 + b.val * 2048 + m.val * 256 + flagBit c 128 + flagBit k 64)
  | .vmin d a b m c k => some (2147483655 + d.val * 2097152 + a.val * 65536 + b.val * 2048 + m.val * 256 + flagBit c 128 + flagBit k 64)
  | .vmax d a b m c k => some (2147483656 + d.val * 2097152 + a.val * 65536 + b.val * 2048 + m.val * 256 + flagBit c 128 + flagBit k 64)
  | .vfma d a b m c k => some (2147483657 + d.val * 2097152 + a.val * 65536 + b.val * 2048 + m.val * 256 + flagBit c 128 + flagBit k 64)
  | .vfms d a b m c k => some (2147483658 + d.val * 2097152 + a.val * 65536 + b.val * 2048 + m.val * 256 + flagBit c 128 + flagBit k 64)
  | .vfnma d a b m c k => some (2147483659 + d.val * 2097152 + a.val * 65536 + b.val * 2048 + m.val * 256 + flagBit c 128 + flagBit k 64)
  | .vsadd d a b m c k => some (2147483660 + d.val * 2097152 + a.val * 65536 + b.val * 2048 + m.val * 256 + flagBit c 128 + flagBit k 64)
  | .vssub d a b m c k => some (2147483661 + d.val * 2097152 + a.val * 65536 + b.val * 2048 + m.val * 256 + flagBit c 128 + flagBit k 64)
  | .vabs d b m c => some (2147483662 + d.val * 2097152 + b.val * 2048 + m.val * 256 + flagBit c 128)
  | .vneg d b m c => some (2147483663 + d.val * 2097152 + b.val * 2048 + m.val * 256 + flagBit c 128)
  | .vabsd d a b m c k => some (2147483664 + d.val * 2097152 + a.val * 65536 + b.val * 2048 + m.val * 256 + flagBit c 128 + flagBit k 64)
  | .vand d a b m c k => some (2214592512 + d.val * 2097152 + a.val * 65536 + b.val * 2048 + m.val * 256 + flagBit c 128 + flagBit k 64)
  | .vor d a b m c k => some (2214592513 + d.val * 2097152 + a.val * 65536 + b.val * 2048 + m.val * 256 + flagBit c 128 + flagBit k 64)
  | .vxor d a b m c k => some (2214592514 + d.val * 2097152 + a.val * 65536 + b.val * 2048 + m.val * 256 + flagBit c 128 + flagBit k 64)
  | .vandn d a b m c k => some (2214592515 + d.val * 2097152 + a.val * 65536 + b.val * 2048 + m.val * 256 + flagBit c 128 + flagBit k 64)
  | .vnot d b m c => some (2214592516 + d.val * 2097152 + b.val * 2048 + m.val * 256 + flagBit c 128)
  | .vsll d a b m c k => some (2214592517 + d.val * 2097152 + a.val * 65536 + b.val * 2048 + m.val * 256 + flagBit c 128 + flagBit k 64)
  | .vsrl d a b m c k => some (2214592518 + d.val * 2097152 + a.val * 65536 + b.val * 2048 + m.val * 256 + flagBit c 128 + flagBit k 64)
  | .vsra d a b m c k => some (2214592519 + d.val * 2097152 + a.val * 65536 + b.val * 2048 + m.val * 256 + flagBit c 128 + flagBit k 64)
  | .vclz d b m c => some (2214592520 + d.val * 2097152 + b.val * 2048 + m.val * 256 + flagBit c 128)
  | .vpopc d b m c => some (2214592521 + d.val * 2097152 + b.val * 2048 + m.val * 256 + flagBit c 128)
  | .vceq d a b m c k => some (2281701376 + d.val * 2097152 + a.val * 65536 + b.val * 2048 + m.val * 256 + flagBit c 128 + flagBit k 64)
  | .vcne d a b m c k => some (2281701377 + d.val * 2097152 + a.val * 65536 + b.val * 2048 + m.val * 256 + flagBit c 128 + flagBit k 64)
  | .vclt d a b m c k => some (2281701378 + d.val * 2097152 + a.val * 65536 + b.val * 2048 + m.val * 256 + flagBit c 128 + flagBit k 64)
  | .vcle d a b m c k => some (2281701379 + d.val * 2097152 + a.val * 65536 + b.val * 2048 + m.val * 256 + flagBit c 128 + flagBit k 64)
  | .vcgt d a b m c k => some (2281701380 + d.val * 2097152 + a.val * 65536 + b.val * 2048 + m.val * 256 + flagBit c 128 + flagBit k 64)
  | .vcge d a b m c k => some (2281701381 + d.val * 2097152 + a.val * 65536 + b.val * 2048 + m.val * 256 + flagBit c 128 + flagBit k 64)
  | .vcun d a b m c k => some (2281701382 + d.val * 2097152 + a.val * 65536 + b.val * 2048 + m.val * 256 + flagBit c 128 + flagBit k 64)
  | .vcvt d t b m c => some (2348810240 + d.val * 2097152 + t.val * 65536 + b.val * 2048 + m.val * 256 + flagBit c 128)
  | .vcvtSat d t b m c => some (2348810241 + d.val * 2097152 + t.val * 65536 + b.val * 2048 + m.val * 256 + flagBit c 128)
  | .vretag d t b m c => some (2348810242 + d.val * 2097152 + t.val * 65536 + b.val * 2048 + m.val * 256 + flagBit c 128)
  | .vredsum d a b m c => some (2415919104 + d.val * 2097152 + a.val * 65536 + b.val * 2048 + m.val * 256 + flagBit c 128)
  | .vredsumU d a b m c => some (2415919105 + d.val * 2097152 + a.val * 65536 + b.val * 2048 + m.val * 256 + flagBit c 128)
  | .vredmin d a b m c => some (2415919106 + d.val * 2097152 + a.val * 65536 + b.val * 2048 + m.val * 256 + flagBit c 128)
  | .vredmax d a b m c => some (2415919107 + d.val * 2097152 + a.val * 65536 + b.val * 2048 + m.val * 256 + flagBit c 128)
  | .vredand d a b m c => some (2415919108 + d.val * 2097152 + a.val * 65536 + b.val * 2048 + m.val * 256 + flagBit c 128)
  | .vredor d a b m c => some (2415919109 + d.val * 2097152 + a.val * 65536 + b.val * 2048 + m.val * 256 + flagBit c 128)
  | .vredxor d a b m c => some (2415919110 + d.val * 2097152 + a.val * 65536 + b.val * 2048 + m.val * 256 + flagBit c 128)
  | .vscan d a b m c => some (2415919111 + d.val * 2097152 + a.val * 65536 + b.val * 2048 + m.val * 256 + flagBit c 128)
  | .vmv d b m c k => some (2483027968 + d.val * 2097152 + b.val * 2048 + m.val * 256 + flagBit c 128 + flagBit k 64)
  | .vmvX d b c => some (2483027969 + d.val * 2097152 + b.val * 2048 + flagBit c 128)
  | .vslup d a b m c k => some (2483027970 + d.val * 2097152 + a.val * 65536 + b.val * 2048 + m.val * 256 + flagBit c 128 + flagBit k 64)
  | .vsldn d a b m c k => some (2483027971 + d.val * 2097152 + a.val * 65536 + b.val * 2048 + m.val * 256 + flagBit c 128 + flagBit k 64)
  | .vgath d a b m c => some (2483027972 + d.val * 2097152 + a.val * 65536 + b.val * 2048 + m.val * 256 + flagBit c 128)
  | .vcompr d b m c => some (2483027973 + d.val * 2097152 + b.val * 2048 + m.val * 256 + flagBit c 128)
  | .vexpd d b m c => some (2483027974 + d.val * 2097152 + b.val * 2048 + m.val * 256 + flagBit c 128)
  | .vrev d b m c => some (2483027975 + d.val * 2097152 + b.val * 2048 + m.val * 256 + flagBit c 128)
  | .vrcp d b m c => some (2550136832 + d.val * 2097152 + b.val * 2048 + m.val * 256 + flagBit c 128)
  | .vrsqrt d b m c => some (2550136833 + d.val * 2097152 + b.val * 2048 + m.val * 256 + flagBit c 128)
  | .vsqrt d b m c => some (2550136834 + d.val * 2097152 + b.val * 2048 + m.val * 256 + flagBit c 128)
  | .vexp2 d b m c => some (2550136835 + d.val * 2097152 + b.val * 2048 + m.val * 256 + flagBit c 128)
  | .vlog2 d b m c => some (2550136836 + d.val * 2097152 + b.val * 2048 + m.val * 256 + flagBit c 128)
  | .vsin d b m c => some (2550136837 + d.val * 2097152 + b.val * 2048 + m.val * 256 + flagBit c 128)
  | .vcos d b m c => some (2550136838 + d.val * 2097152 + b.val * 2048 + m.val * 256 + flagBit c 128)
  | .vtanh d b m c => some (2550136839 + d.val * 2097152 + b.val * 2048 + m.val * 256 + flagBit c 128)
  | .vidx d s m c p => some (2617245696 + d.val * 2097152 + s.val * 2048 + m.val * 256 + flagBit c 128 + p.val)
  | .mand d a b m c => some (2684354560 + d.val * 2097152 + a.val * 65536 + b.val * 2048 + m.val * 256 + flagBit c 128)
  | .mor d a b m c => some (2684354561 + d.val * 2097152 + a.val * 65536 + b.val * 2048 + m.val * 256 + flagBit c 128)
  | .mxor d a b m c => some (2684354562 + d.val * 2097152 + a.val * 65536 + b.val * 2048 + m.val * 256 + flagBit c 128)
  | .mandn d a b m c => some (2684354563 + d.val * 2097152 + a.val * 65536 + b.val * 2048 + m.val * 256 + flagBit c 128)
  | .mnot d b m c => some (2684354564 + d.val * 2097152 + b.val * 2048 + m.val * 256 + flagBit c 128)
  | .mset d m c => some (2684354565 + d.val * 2097152 + m.val * 256 + flagBit c 128)
  | .mclr d m c => some (2684354566 + d.val * 2097152 + m.val * 256 + flagBit c 128)
  | .mpopc d b m c => some (2684354567 + d.val * 2097152 + b.val * 2048 + m.val * 256 + flagBit c 128)
  | .mfirst d b m c => some (2684354568 + d.val * 2097152 + b.val * 2048 + m.val * 256 + flagBit c 128)
  | .vfetch b m => some (2751463488 + b.val * 2048 + m.val * 256)
  | .tfetch b m k => some (2751463425 + b.val * 2048 + m.val * 256 + flagBit k 64)
  | .vsync => some (2751463426)
  | .xqsend a m => some (2751463427 + a.val * 65536 + m.val * 256)
  | .xqrecv d m => some (2751463428 + d.val * 2097152 + m.val * 256)
  | .xqsendCt a => some (2751463427 + a.val * 65536)
  | .xqrecvCt d => some (2751463428 + d.val * 2097152)
  | .vpid d m => some (2751463429 + d.val * 2097152 + m.val * 256)
  | .vld d a m c p => some (2885681152 + d.val * 2097152 + a.val * 65536 + m.val * 256 + flagBit c 128 + flagBit p 64)
  | .vldS d a s m c p => some (2885681160 + d.val * 2097152 + a.val * 65536 + s.val * 2048 + m.val * 256 + flagBit c 128 + flagBit p 64)
  | .vldX d a i m c p e => some (2885681168 + d.val * 2097152 + a.val * 65536 + i.val * 2048 + m.val * 256 + flagBit c 128 + flagBit p 64 + e.val)
  | .vldFf d a m c => some (2885681176 + d.val * 2097152 + a.val * 65536 + m.val * 256 + flagBit c 128)
  | .vldSeg d a m c => some (2885681184 + d.val * 2097152 + a.val * 65536 + m.val * 256 + flagBit c 128)
  | .vldC d a m c p => some (2885681192 + d.val * 2097152 + a.val * 65536 + m.val * 256 + flagBit c 128 + flagBit p 64)
  | .vldCs d a s m c p => some (2885681200 + d.val * 2097152 + a.val * 65536 + s.val * 2048 + m.val * 256 + flagBit c 128 + flagBit p 64)
  | .vldCx d a i m c p e => some (2885681208 + d.val * 2097152 + a.val * 65536 + i.val * 2048 + m.val * 256 + flagBit c 128 + flagBit p 64 + e.val)
  | .vst v a m c p => some (2952790016 + v.val * 2097152 + a.val * 65536 + m.val * 256 + flagBit c 128 + flagBit p 64)
  | .vstS v a s m c p => some (2952790024 + v.val * 2097152 + a.val * 65536 + s.val * 2048 + m.val * 256 + flagBit c 128 + flagBit p 64)
  | .vstX v a i m c p e => some (2952790032 + v.val * 2097152 + a.val * 65536 + i.val * 2048 + m.val * 256 + flagBit c 128 + flagBit p 64 + e.val)
  | .vstU v a m c p => some (2952790040 + v.val * 2097152 + a.val * 65536 + m.val * 256 + flagBit c 128 + flagBit p 64)
  | .vstSeg v a m c => some (2952790048 + v.val * 2097152 + a.val * 65536 + m.val * 256 + flagBit c 128)
  | .vstSu v a s m c p => some (2952790056 + v.val * 2097152 + a.val * 65536 + s.val * 2048 + m.val * 256 + flagBit c 128 + flagBit p 64)
  | .vstXu v a i m c p e => some (2952790064 + v.val * 2097152 + a.val * 65536 + i.val * 2048 + m.val * 256 + flagBit c 128 + flagBit p 64 + e.val)
  | .vamoSwap v s o a m c => some (3019898880 + v.val * 2097152 + s.val * 262144 + o.val * 65536 + a.val * 2048 + m.val * 256 + flagBit c 128)
  | .vamoAdd v s o a m c => some (3019898888 + v.val * 2097152 + s.val * 262144 + o.val * 65536 + a.val * 2048 + m.val * 256 + flagBit c 128)
  | .vamoAnd v s o a m c => some (3019898896 + v.val * 2097152 + s.val * 262144 + o.val * 65536 + a.val * 2048 + m.val * 256 + flagBit c 128)
  | .vamoOr v s o a m c => some (3019898904 + v.val * 2097152 + s.val * 262144 + o.val * 65536 + a.val * 2048 + m.val * 256 + flagBit c 128)
  | .vamoXor v s o a m c => some (3019898912 + v.val * 2097152 + s.val * 262144 + o.val * 65536 + a.val * 2048 + m.val * 256 + flagBit c 128)
  | .vamoMin v s o a m c => some (3019898920 + v.val * 2097152 + s.val * 262144 + o.val * 65536 + a.val * 2048 + m.val * 256 + flagBit c 128)
  | .vamoMax v s o a m c => some (3019898928 + v.val * 2097152 + s.val * 262144 + o.val * 65536 + a.val * 2048 + m.val * 256 + flagBit c 128)
  | .samo v a m c => some (3019898936 + v.val * 2097152 + a.val * 2048 + m.val * 256 + flagBit c 128)
  | .samoO v a m c => some (3019898944 + v.val * 2097152 + a.val * 2048 + m.val * 256 + flagBit c 128)
  | .sbindM d a => some (3087007744 + d.val * 2097152 + a.val * 65536)
  | .sbindQR d q => some (3087007752 + d.val * 2097152 + q.val * 2048)
  | .sbindQW d q => some (3087007753 + d.val * 2097152 + q.val * 2048)
  | .sunbind d => some (3087007760 + d.val * 2097152)
  | .bse d o => some (3087007768 + d.val * 2097152 + o.val * 256)
  | .fldv d t u m => some (3154116608 + d.val * 2097152 + t.val * 65536 + u.val * 2048 + m.val * 256)
  | .fldvX d t u m => some (3154116616 + d.val * 2097152 + t.val * 65536 + u.val * 2048 + m.val * 256)
  | .vffill v a m => some (3154116624 + v.val * 2097152 + a.val * 2048 + m.val * 256)
  | .cpy a m c t f => some (3221225472 + a.val * 2097152 + m.val * 65536 + c.val * 2048 + t.val * 256 + flagBit f 128)
  | .cpyG a v m t f => some (3221225473 + a.val * 2097152 + v.val * 65536 + m.val * 2048 + t.val * 256 + flagBit f 128)
  | .bclose a t => some (3288334336 + a.val * 2097152 + t.val * 256)
  | .bwait a t => some (3288334337 + a.val * 2097152 + t.val * 256)
  | .bwaitm a => some (3288334338 + a.val * 2097152)
  | .rdecl a c => some (3355443200 + a.val * 2097152 + c.val * 2048)
  | .rcloseTeam => some (3355574273)
  | .rcloseClu => some (3355639809)
  | .rchk a p c => some (3355443202 + a.val * 2097152 + flagBit p 65536 + c.val * 2048)
  | .mma a b y x z t f => some (3422552064 + a.val * 2097152 + b.val * 65536 + flagBit y 32768 + flagBit x 16384 + z.val * 2048 + t.val * 256 + flagBit f 128)
  | .mmas a b z t f => some (3422601217 + a.val * 2097152 + b.val * 65536 + z.val * 2048 + t.val * 256 + flagBit f 128)
  | .mjoin a b z t f => some (3422601218 + a.val * 2097152 + b.val * 65536 + z.val * 2048 + t.val * 256 + flagBit f 128)
  | .mfence => some (3422552067)
  | .mzero z => some (3489660928 + z.val * 2048)
  | .mput s p z => some (3489660929 + s.val * 2097152 + p.val * 65536 + z.val * 2048)
  | .mext s p z => some (3489660930 + s.val * 2097152 + p.val * 65536 + z.val * 2048)
  | .zset s z => some (3489660931 + s.val * 2097152 + z.val * 2048)
  | .zget s z => some (3489660932 + s.val * 2097152 + z.val * 2048)
  | .sld q a => some (3556769792 + q.val * 2097152 + a.val * 65536)
  | .sst q a => some (3556769793 + q.val * 2097152 + a.val * 65536)
  | .sadd d a b => some (3556769794 + d.val * 2097152 + a.val * 65536 + b.val * 2048)
  | .smul d a b => some (3556769795 + d.val * 2097152 + a.val * 65536 + b.val * 2048)
  | .sdot d a b => some (3556769796 + d.val * 2097152 + a.val * 65536 + b.val * 2048)
  | .sfromv d s k => some (3556769797 + d.val * 2097152 + s.val * 65536 + k.val * 2048)
  | .stov d s k => some (3556769798 + d.val * 2097152 + s.val * 65536 + k.val * 2048)
  | .slen d s => some (3556769799 + d.val * 2097152 + s.val * 65536)
  | .hint h => some (4160749568 + h.val)
  | .illegalInstruction | .msixUnmask | .l2Read | .l2Write | .l2Atomic | .hbmFillReturn
  | .millAddition | .consumingReadReserve | .consumingReadCommit | .rationDeclaration | .lineSpentEvent | .scopeCloseScan
  | .scopeCloseAck | .futureLoadArrival | .futureFillArrival | .poundWakeup | .deferredAnswer | .futureNack
  | .nackReplay | .memcfgWrite | .krovinoRequestArrival | .pageWalkRead | .xinvPage | .xinvAsid
  | .xinvAll | .xinvIgnored | .xinvComplete | .scratchpadRemoteAccess | .carterAccept | .carterTransferBegin
  | .carterUnit | .carterComplete | .seedWrite | .secroleWrite | .asidWrite | .bseqWrite
  | .sysregDeferredWrite | .stripQueueAppend | .stripQueueConsume | .streamReadAhead | .fldvTimeout | .aibWordLockstep
  | .vpIssue | .convoyDispatch | .accRegionClaim | .matrixAccept | .matrixComplete | .mjoinForm
  | .barrierArrival | .barrierReturn | .crierPostArrival | .safePointSave | .fullSaveDeadline | .saveFrameWrite
  | .restore | .hqEnable | .hqTailSnoop | .hqTailReread | .startRecordAccept | .placeNext
  | .reservation | .groupStart | .spawnGroupStart | .launchComplete | .epochRefill | .powerLeaveGrant
  | .leaseExpire | .watchdogFire | .clerkRun | .clerkHalt | .clerkLaunch | .clerkLaunchi
  | .clerkWaitge | .clerkWaitgePoll | .clerkStore | .clerkAdd | .clerkSetc | .clerkLoop
  | .clerkJge | .clerkJlt | .clerkIrq | .clerkJump | .rqEnable | .releaseReadyTaken
  | .releaseVerdictTaken | .releaseItemDeliver | .ctxHold | .ctxRelease | .ctxKill | .ctxIgnored
  | .ctxCommandComplete | .unitRetire | .maintWindowOpen | .selfTestComplete | .errorRecovery | .sectionArriveStartSet
  | .sectionFirstUse | .hostSharedRead | .hostExclusiveRead | .hostWrite | .backInvalidateResponse | .hostSnpInv
  | .hostSnpData | .hostWindowFillReturn | .hostFutureFill | .flitReceive | .flitReplay | .powerGood
  | .bootStageComplete | .recoveryGo | .attestRequest | .thermalSample | .powerCapSet | .registerWrite
  | .patrolScrub | .retrainedOnSpare => none

/-- The instruction of a word of the control thread; none where R217 makes the word illegal. -/
def decodeControl (w : Nat) : Option Instr :=
  match decode false w with
  | some i => if i.wellFormed then some i else none
  | none => none

/-- A field that names an h register has bit 4 clear (R117, R251). -/
def hField (r : Fin 32) : Bool := decide (r.val < 16)

/-- The forms that a body may hold (R213), with their h register fields (R117, R251, R271, R304). -/
def bodyForm (i : Instr) : Bool :=
  match i with
  | .vadd _ _ b _ _ k | .vsub _ _ b _ _ k | .vrsub _ _ b _ _ k | .vmul _ _ b _ _ k | .vmulh _ _ b _ _ k
  | .vdiv _ _ b _ _ k | .vrem _ _ b _ _ k | .vmin _ _ b _ _ k | .vmax _ _ b _ _ k | .vfma _ _ b _ _ k
  | .vfms _ _ b _ _ k | .vfnma _ _ b _ _ k | .vsadd _ _ b _ _ k | .vssub _ _ b _ _ k | .vabsd _ _ b _ _ k
  | .vand _ _ b _ _ k | .vor _ _ b _ _ k | .vxor _ _ b _ _ k | .vandn _ _ b _ _ k | .vsll _ _ b _ _ k
  | .vsrl _ _ b _ _ k | .vsra _ _ b _ _ k => !k || hField b
  | .vceq _ _ b _ _ k | .vcne _ _ b _ _ k | .vclt _ _ b _ _ k | .vcle _ _ b _ _ k | .vcgt _ _ b _ _ k
  | .vcge _ _ b _ _ k | .vcun _ _ b _ _ k => !k || hField b
  | .vabs _ _ _ _ | .vneg _ _ _ _ | .vnot _ _ _ _ | .vclz _ _ _ _ | .vpopc _ _ _ _ => true
  | .vcvt _ _ _ _ _ | .vcvtSat _ _ _ _ _ | .vretag _ _ _ _ _ => true
  | .vrcp _ _ _ _ | .vrsqrt _ _ _ _ | .vsqrt _ _ _ _ | .vexp2 _ _ _ _ | .vlog2 _ _ _ _ | .vsin _ _ _ _
  | .vcos _ _ _ _ | .vtanh _ _ _ _ => true
  | .vidx _ _ _ _ _ => true
  | .vmv _ b _ _ k => !k || hField b
  | .vmvX d _ _ => hField d
  | .mand _ _ _ _ _ | .mor _ _ _ _ _ | .mxor _ _ _ _ _ | .mandn _ _ _ _ _ | .mnot _ _ _ _ | .mset _ _ _
  | .mclr _ _ _ => true
  | .vld _ a _ _ _ | .vldC _ a _ _ _ | .vst _ a _ _ _ | .vstU _ a _ _ _ => hField a
  | .vldS _ a s _ _ _ | .vldCs _ a s _ _ _ | .vstS _ a s _ _ _ | .vstSu _ a s _ _ _ => hField a && hField s
  | .vldX _ a _ _ _ _ _ | .vldCx _ a _ _ _ _ _ | .vstX _ a _ _ _ _ _ | .vstXu _ a _ _ _ _ _ => hField a
  | .vamoSwap _ _ _ _ _ _ | .vamoAdd _ _ _ _ _ _ | .vamoAnd _ _ _ _ _ _ | .vamoOr _ _ _ _ _ _
  | .vamoXor _ _ _ _ _ _ | .vamoMin _ _ _ _ _ _ | .vamoMax _ _ _ _ _ _ | .samo _ _ _ _ | .samoO _ _ _ _ => true
  | .fldv _ t _ _ | .fldvX _ t _ _ => hField t
  | .vffill _ _ _ => true
  | .tfetch b _ k => !k || hField b
  | .xqsend _ _ | .xqrecv _ _ | .vpid _ _ => true
  | .hint _ => true
  | _ => false

/-- The convoy bit of a convoyable instruction; none for one that is not convoyable (R209). -/
def convoyBit (i : Instr) : Option Bool :=
  match i with
  | .vadd _ _ _ _ c _ | .vsub _ _ _ _ c _ | .vrsub _ _ _ _ c _ | .vmul _ _ _ _ c _ | .vmulh _ _ _ _ c _
  | .vdiv _ _ _ _ c _ | .vrem _ _ _ _ c _ | .vmin _ _ _ _ c _ | .vmax _ _ _ _ c _ | .vfma _ _ _ _ c _
  | .vfms _ _ _ _ c _ | .vfnma _ _ _ _ c _ | .vsadd _ _ _ _ c _ | .vssub _ _ _ _ c _ | .vabsd _ _ _ _ c _
  | .vand _ _ _ _ c _ | .vor _ _ _ _ c _ | .vxor _ _ _ _ c _ | .vandn _ _ _ _ c _ | .vsll _ _ _ _ c _
  | .vsrl _ _ _ _ c _ | .vsra _ _ _ _ c _ => some c
  | .vceq _ _ _ _ c _ | .vcne _ _ _ _ c _ | .vclt _ _ _ _ c _ | .vcle _ _ _ _ c _ | .vcgt _ _ _ _ c _
  | .vcge _ _ _ _ c _ | .vcun _ _ _ _ c _ => some c
  | .vabs _ _ _ c | .vneg _ _ _ c | .vnot _ _ _ c | .vclz _ _ _ c | .vpopc _ _ _ c => some c
  | .vcvt _ _ _ _ c | .vcvtSat _ _ _ _ c | .vretag _ _ _ _ c => some c
  | .vredsum _ _ _ _ c | .vredsumU _ _ _ _ c | .vredmin _ _ _ _ c | .vredmax _ _ _ _ c | .vredand _ _ _ _ c
  | .vredor _ _ _ _ c | .vredxor _ _ _ _ c | .vscan _ _ _ _ c => some c
  | .vmv _ _ _ c _ => some c
  | .vmvX _ _ c => some c
  | .vslup _ _ _ _ c _ | .vsldn _ _ _ _ c _ => some c
  | .vgath _ _ _ _ c => some c
  | .vcompr _ _ _ c | .vexpd _ _ _ c | .vrev _ _ _ c => some c
  | .vrcp _ _ _ c | .vrsqrt _ _ _ c | .vsqrt _ _ _ c | .vexp2 _ _ _ c | .vlog2 _ _ _ c | .vsin _ _ _ c
  | .vcos _ _ _ c | .vtanh _ _ _ c => some c
  | .vidx _ _ _ c _ => some c
  | .mand _ _ _ _ c | .mor _ _ _ _ c | .mxor _ _ _ _ c | .mandn _ _ _ _ c => some c
  | .mnot _ _ _ c => some c
  | .mset _ _ c | .mclr _ _ c => some c
  | .mpopc _ _ _ c | .mfirst _ _ _ c => some c
  | .vld _ _ _ c _ | .vldC _ _ _ c _ | .vst _ _ _ c _ | .vstU _ _ _ c _ => some c
  | .vldS _ _ _ _ c _ | .vldCs _ _ _ _ c _ | .vstS _ _ _ _ c _ | .vstSu _ _ _ _ c _ => some c
  | .vldX _ _ _ _ c _ _ | .vldCx _ _ _ _ c _ _ | .vstX _ _ _ _ c _ _ | .vstXu _ _ _ _ c _ _ => some c
  | .vldFf _ _ _ c | .vldSeg _ _ _ c | .vstSeg _ _ _ c => some c
  | .vamoSwap _ _ _ _ _ c | .vamoAdd _ _ _ _ _ c | .vamoAnd _ _ _ _ _ c | .vamoOr _ _ _ _ _ c
  | .vamoXor _ _ _ _ _ c | .vamoMin _ _ _ _ _ c | .vamoMax _ _ _ _ _ c => some c
  | .samo _ _ _ c | .samoO _ _ _ c => some c
  | _ => none

/-- The C bit is set. -/
def joins (i : Instr) : Bool := convoyBit i == some true

/-- The instruction is convoyable (R209). -/
def convoyable (i : Instr) : Bool := (convoyBit i).isSome

/-- The words of a body decoded, with the first offending one's position (R209, R213). `prev` says that the
word before is convoyable; it is false at the first word. -/
def decodeBody (tf xq prev : Bool) (n : Nat) : List Nat → Except Nat (List Instr)
  | [] => .ok []
  | w :: rest =>
    match decode true w with
    | none => .error n
    | some i =>
      let tfOk := match i with
        | .tfetch _ _ _ => tf
        | .xqsend _ _ => xq
        | .xqrecv _ _ => xq
        | _ => true
      if i.wellFormed && bodyForm i && tfOk && !(joins i && !prev) then
        (decodeBody tf xq (convoyable i) (n + 1) rest).map (fun l => i :: l)
      else .error n

/-- An AIB's header and body (R212 to R214): the XQ bit and the body's instructions, or the position of
the first offending word, 0 for the header. -/
def decodeAib (words : List Nat) : Except Nat (Bool × List Instr) :=
  match words with
  | [] => .error 0
  | h :: body =>
    let len := h / 2 ^ 21 % 32
    if h / 2 ^ 26 = 0x2A ∧ 1 ≤ len ∧ h / 2 ^ 18 % 8 = 0 ∧ h % 2 ^ 16 = 0 ∧ body.length = len then
      (decodeBody (flag h 65536) (flag h 131072) false 1 body).map (fun l => (flag h 131072, l))
    else .error 0

/-- The instruction whose bits, numbered as the opcode table numbers them, are `w`. Every row is one
32-bit word, stored little-endian. -/
def decodeTableWord (nbits w : Nat) : Option Instr := decode false (w % 2 ^ nbits % 2 ^ 32)

end Sys2Proof
end

