-- ==== Sys2Proof/Machine/Num.lean ====
section
/-!
DEFINITION. The type tags, the number formats and the exact values of their encodings
(R120, R121, R148 to R154).
-/

namespace Sys2Proof.Machine

/-- Container width in bits of a tag (R121); 0 for a tag that has none. -/
def cw (tag : Nat) : Nat :=
  match tag with
  | 0x07 | 0x08 | 0x09 | 0x1B => 64
  | 0x05 | 0x06 | 0x0A | 0x1A => 32
  | 0x03 | 0x04 | 0x0B | 0x0C => 16
  | 0x01 | 0x02 | 0x0D | 0x0E | 0x0F | 0x10 | 0x12 | 0x13 | 0x14 | 0x15 | 0x16 | 0x18 => 8
  | 0x11 | 0x17 | 0x19 => 4
  | 0x1C => 1
  | _ => 0

/-- Bits of a container that hold the value: six of eight for the 6-bit formats, whose other bits are
written as zero (R121). -/
def vw (tag : Nat) : Nat :=
  match tag with
  | 0x0F | 0x10 | 0x15 | 0x16 => 6
  | t => cw t

/-- The tag holds MX blocks (R154). -/
def isMx (tag : Nat) : Bool := decide (0x13 ≤ tag) && decide (tag ≤ 0x18)

/-- Integer and idx tags (R148). -/
def isInt (tag : Nat) : Bool := (decide (1 ≤ tag) && decide (tag ≤ 8)) || (decide (0x19 ≤ tag) && decide (tag ≤ 0x1B))

/-- idx tags (R120). -/
def isIdx (tag : Nat) : Bool := tag == 0x1A || tag == 0x1B

/-- Float tags that are not MX, e8m0 among them (R150, R153, R288). [log 14 DEDUCED] -/
def isFloat (tag : Nat) : Bool := decide (0x09 ≤ tag) && decide (tag ≤ 0x12)

/-- An integer tag whose values are signed (R148). -/
def isSigned (tag : Nat) : Bool := isIdx tag || tag == 0x19 || tag == 1 || tag == 3 || tag == 5 || tag == 7

/-- Codes that name no tag (R120). -/
def tagReserved (tag : Nat) : Bool := decide (0x1D ≤ tag)

def tagBit : Nat := 0x1C
def tagE8m0 : Nat := 0x12

/-- Element tag of an MX tag (R154); i8 stands for the elements of mxint8. -/
def mxElem (tag : Nat) : Nat :=
  match tag with
  | 0x13 => 0x0D
  | 0x14 => 0x0E
  | 0x15 => 0x0F
  | 0x16 => 0x10
  | 0x17 => 0x11
  | _ => 0x01

/-- Which encodings of a format are special (R150, R151). -/
inductive FmtKind where
  | ieee | e4m3 | finite
  deriving DecidableEq, Repr

/-- A float format of R150: exponent bits, mantissa bits, bias. -/
structure Fmt where
  eb   : Nat
  mb   : Nat
  bias : Nat
  kind : FmtKind
  deriving DecidableEq, Repr

/-- The format of a float tag other than e8m0 (R150). -/
def fmtOf (tag : Nat) : Fmt :=
  match tag with
  | 0x09 => ⟨11, 52, 1023, .ieee⟩
  | 0x0A => ⟨8, 23, 127, .ieee⟩
  | 0x0B => ⟨5, 10, 15, .ieee⟩
  | 0x0C => ⟨8, 7, 127, .ieee⟩
  | 0x0D => ⟨4, 3, 7, .e4m3⟩
  | 0x0E => ⟨5, 2, 15, .ieee⟩
  | 0x0F => ⟨3, 2, 3, .finite⟩
  | 0x10 => ⟨2, 3, 1, .finite⟩
  | _ => ⟨2, 1, 1, .finite⟩

/-- Pattern of the largest finite value (R150). -/
def Fmt.maxPat (f : Fmt) : Nat :=
  match f.kind with
  | .ieee => (2 ^ f.eb - 1) * 2 ^ f.mb - 1
  | .e4m3 => 0x7E
  | .finite => 2 ^ (f.eb + f.mb) - 1

/-- Pattern of positive infinity, in formats that have one. -/
def Fmt.infPat (f : Fmt) : Nat := (2 ^ f.eb - 1) * 2 ^ f.mb

/-- Canonical NaN (R150). -/
def Fmt.nanPat (f : Fmt) : Nat :=
  match f.kind with
  | .e4m3 => 0x7F
  | _ => (2 ^ f.eb - 1) * 2 ^ f.mb + 2 ^ (f.mb - 1)

/-- The sign's place. -/
def Fmt.signPat (f : Fmt) (neg : Bool) : Nat := if neg then 2 ^ (f.eb + f.mb) else 0

/-- An exact value: a NaN (signalling or not), an infinity, or ± n / d × 2^e with d > 0. -/
inductive Ex where
  | nan (sig : Bool)
  | inf (neg : Bool)
  | num (neg : Bool) (n d : Nat) (e : Int)
  deriving DecidableEq, Repr

/-- The value of an integer. -/
def Ex.ofInt (z : Int) : Ex := .num (decide (z < 0)) z.natAbs 1 0

def Ex.isNan : Ex → Bool
  | .nan _ => true
  | _ => false

def Ex.isSig : Ex → Bool
  | .nan s => s
  | _ => false

def Ex.isZero : Ex → Bool
  | .num _ n _ _ => n == 0
  | _ => false

def Ex.isInf : Ex → Bool
  | .inf _ => true
  | _ => false

/-- The sign; a NaN counts as positive. -/
def Ex.neg : Ex → Bool
  | .nan _ => false
  | .inf s => s
  | .num s _ _ _ => s

/-- The value with its sign set. -/
def Ex.withNeg (s : Bool) : Ex → Ex
  | .nan q => .nan q
  | .inf _ => .inf s
  | .num _ n d e => .num s n d e

/-- The value with its sign inverted. -/
def Ex.flip (x : Ex) : Ex := x.withNeg (!x.neg)

/-- 2^k as a natural number, 1 for negative k. -/
def pow2 (k : Int) : Nat := 2 ^ k.toNat

/-- Order of two magnitudes n / d × 2^e: -1, 0 or 1 as -, 0, + integers. -/
def cmpMag (n1 d1 : Nat) (e1 : Int) (n2 d2 : Nat) (e2 : Int) : Ordering :=
  compare (n1 * d2 * pow2 (e1 - e2)) (n2 * d1 * pow2 (e2 - e1))

/-- Order of two values that are not NaN, −0 equal to +0. -/
def Ex.cmp (a b : Ex) : Ordering :=
  match a, b with
  | .inf s, .inf t => if s = t then .eq else if s then .lt else .gt
  | .inf s, _ => if s then .lt else .gt
  | _, .inf t => if t then .gt else .lt
  | .num s n d e, .num t n' d' e' =>
    if n = 0 then (if n' = 0 then .eq else if t then .gt else .lt)
    else if n' = 0 then (if s then .lt else .gt)
    else if s && !t then .lt
    else if !s && t then .gt
    else if s then cmpMag n' d' e' n d e
    else cmpMag n d e n' d' e'
  | _, _ => .eq

/-- The value of an encoding (R151, R152, R153). The tag is a float tag that is not MX. -/
def floatVal (tag pat : Nat) : Ex :=
  if tag = tagE8m0 then
    if pat % 256 = 255 then .nan false else .num false 1 1 ((pat % 256 : Nat) - 127)
  else
    let f := fmtOf tag
    let p := pat % 2 ^ (1 + f.eb + f.mb)
    let s := bit p (f.eb + f.mb)
    let ex := bits p (f.eb + f.mb - 1) f.mb
    let m := p % 2 ^ f.mb
    if f.kind = .ieee ∧ ex = 2 ^ f.eb - 1 then
      if m = 0 then .inf s else .nan (!bit m (f.mb - 1))
    else if f.kind = .e4m3 ∧ ex = 15 ∧ m = 7 then .nan false
    else if ex = 0 then .num s m 1 (1 - (f.bias : Int) - f.mb)
    else .num s (2 ^ f.mb + m) 1 ((ex : Int) - f.bias - f.mb)

/-- The FMODE flush bit that governs a float tag (R155). -/
def flushes (fmode tag : Nat) : Bool :=
  match tag with
  | 0x09 => bit fmode 7
  | 0x0A => bit fmode 8
  | 0x0B | 0x0C => bit fmode 9
  | 0x12 => false
  | _ => bit fmode 10

/-- The encoding is subnormal and not zero. -/
def isSubnormal (tag pat : Nat) : Bool :=
  tag != tagE8m0 &&
    (let f := fmtOf tag
     bits pat (f.eb + f.mb - 1) f.mb == 0 && pat % 2 ^ f.mb != 0)

/-- A float element read as a source: a subnormal is read as zero of its sign when its class flushes
(R158 step 2). -/
def floatSrc (fmode tag pat : Nat) : Ex :=
  if flushes fmode tag && isSubnormal tag pat then .num (bit pat ((fmtOf tag).eb + (fmtOf tag).mb)) 0 1 0
  else floatVal tag pat

/-- The value of an integer pattern of the tag (R148). -/
def intVal (tag pat : Nat) : Int :=
  if isSigned tag then toS pat (cw tag) else (pat % 2 ^ cw tag : Nat)

/-- Least and greatest integers of a tag (R148). -/
def intMin (tag : Nat) : Int := if isSigned tag then -(2 ^ (cw tag - 1) : Nat) else 0
def intMax (tag : Nat) : Int :=
  if isSigned tag then (2 ^ (cw tag - 1) : Nat) - 1 else (2 ^ cw tag : Nat) - 1

/-- The value of an element of an MX block with E8M0 scale `sc` (R154), its own encoding flushed under FZ8
when `fmode` says so (R166). -/
def mxVal (fmode tag sc pat : Nat) : Ex :=
  if sc % 256 = 255 then .nan false
  else
    let k : Int := (sc % 256 : Nat) - 127
    let x := if tag = 0x18 then
        let z := toS pat 8
        .num (decide (z < 0)) z.natAbs 1 (-6)
      else floatSrc fmode (mxElem tag) pat
    match x with
    | .num s n d e => .num s n d (e + k)
    | y => y

/-- An operand's value: an integer of R148 or a float. -/
inductive Val where
  | int (z : Int)
  | flt (x : Ex)
  deriving DecidableEq, Repr

/-- The value that a non-MX element has as a source. -/
def valOf (fmode tag pat : Nat) : Val :=
  if isFloat tag then .flt (floatSrc fmode tag pat) else .int (intVal tag pat)

def Val.ex : Val → Ex
  | .int z => Ex.ofInt z
  | .flt x => x

def Val.toInt : Val → Int
  | .int z => z
  | .flt _ => 0

/-- The operation's tag for two source tags (R167); none when they do not mix. Bit with bit is left to
VLOGIC. -/
def pairTag (t1 t2 : Nat) : Option Nat :=
  if t1 = 0 ∨ t2 = 0 ∨ isMx t1 ∨ isMx t2 then none
  else if t1 = t2 then some t1
  else if isFloat t1 && isFloat t2 then
    if cw t2 < cw t1 then some t1
    else if cw t1 < cw t2 then some t2
    else some (if cw t1 = 16 then 0x0A else 0x0B)
  else if isInt t1 && isInt t2 then
    if cw t2 < cw t1 then some t1
    else if cw t1 < cw t2 then some t2
    else if !isSigned t1 then some t2
    else if !isSigned t2 then some t1
    else if isIdx t1 then some t2
    else some t1
  else none

end Sys2Proof.Machine
end

