-- ==== Sys2Proof/Config.lean ====
section
/-!
DEFINITION. The free values: what the manual leaves open (R2 and the rules that grant a choice), as
constants without a body, and the figures of the device that several files name.
-/

namespace Sys2Proof.Config

/-- An undefined element value (R2): element `e` of the contents that `seed` names (log entry 1).
[log 1 DESIGN CHOICE] -/
opaque freeElem (seed e : Nat) : Nat

/-- An undefined 64-bit value (R2), named by a counter (log entry 1). [log 1 DESIGN CHOICE] -/
opaque freeWord (n : Nat) : Word

/-- A choice that the manual leaves to the device, named by a counter (log entry 1).
[log 1 DESIGN CHOICE, 11 DESIGN CHOICE] -/
opaque choice (n : Nat) : Nat

/-- Cycles that pass in a step (R5, log entry 8), named by a counter. [log 8 DESIGN CHOICE] -/
opaque stepCycles (n : Nat) : Word

/-- SHA-384 of data (R492, R494), which no rule computes. [log 25 DESIGN CHOICE] -/
opaque sha384 (data : List Nat) : Nat

/-- The hash of the public key that a firmware image's header carries for an algorithm: 0 Ed25519, 1 ML-DSA-65
(R492). [log 25 DESIGN CHOICE] -/
opaque imageKeyHash (alg : Nat) (image : List Nat) : Nat

/-- The image's signature by its key of an algorithm verifies (R492). [log 25 DESIGN CHOICE] -/
opaque imageSigned (alg : Nat) (image : List Nat) : Bool

/-- The security version that the image's header carries (R492). [log 25 DESIGN CHOICE] -/
opaque imageVersion (image : List Nat) : Nat

/-- The hash of the public key of an algorithm in the fuse store (R492). [log 25 DESIGN CHOICE] -/
opaque fuseKeyHash (alg : Nat) : Nat

/-- The least security version that the fuse store accepts (R492). [log 25 DESIGN CHOICE] -/
opaque fuseVersion : Nat

/-- The security engine's signature, by its key of an algorithm, over a report's words (R494).
[log 25 DESIGN CHOICE] -/
opaque signature (alg : Nat) (words : List Nat) : Nat

/-- Units of PWBUDGET for a power cap of `n` watts: in proportion, with a factor that no rule states (R496).
[log 93 DESIGN CHOICE] -/
opaque capUnits (n : Nat) : Nat

/-- Cores of the device (R16). -/
def cores : Nat := 256

/-- Blocks of a core's scratchpad (R17, R95). -/
def spBlocks : Nat := 512

/-- Bytes of local HBM4 (R20, R30). -/
def hbmBytes : Nat := 768 * 2 ^ 30

/-- Offset of the host window in a node's space (R30). -/
def hostBase : Nat := 0x40000000000

/-- Offset of the I/O die register space (R30). -/
def ioBase : Nat := 0x7F000000000

end Sys2Proof.Config
end

