-- ==== Sys2Proof/Machine/State.lean ====
section
/-!
DEFINITION. The state of the device as plain data, the reasons a step can stop, and the state after reset.

A `Table` is a list of (key, value) pairs with keys strictly rising; an unlisted key has the default that
the field's docstring gives. Lists of records carry their own names (a group id, a line number).
-/

namespace Sys2Proof.Machine

/-- A step that stops the machine for good. No trap of the manual is one of these: a trap is a next
state (R421). Raised by nothing but an event that the manual gives no meaning for its arguments. -/
inductive Fault where
  /-- An event of a unit names a unit, group or line that the device does not hold: raised by the
  meanings of the unit steps whose argument lies outside the device. Safe: the device has no such step. -/
  | noSuchUnit
  deriving DecidableEq, Repr

/-- A step to which the model gives no meaning. -/
inductive Refusal where
  /-- The instruction of this mnemonic has no meaning in the model: raised by `exec`'s refused arms.
  Safe: nothing is claimed of it. -/
  | notModelled (mnemonic : String)
  deriving DecidableEq, Repr

/-- Sparse contents by key, keys strictly rising. -/
abbrev Table (α : Type) := List (Nat × α)

/-! ### A group's registers (05_lanes_registers) -/

/-- A vector register: its configuration word's fields (R118), and its elements as container patterns.
An element not listed is an undefined value (R2), the free value that `seed` names. -/
structure VReg where
  tag    : Nat
  gf     : Nat
  td     : Bool
  pin    : Bool
  seed   : Nat
  elems  : Table Nat
  /-- E8M0 scale of block j, for MX tags (R124). -/
  scales : Table Nat
  /-- A scale that is not listed is 0, as the sideband of a row that was no MX register's reads (R124); else it is
  free. -/
  plain  : Bool
  deriving DecidableEq, Repr

/-- A mask register (R115); a bit not listed is the free value that `seed` names. -/
structure MReg where
  seed : Nat
  bits : Table Bool
  deriving DecidableEq, Repr

/-- A sparse register: coordinate and value of each pair, in ascending coordinates, and the pairs whose
value is poisoned (R132, R338). [log 83 DESIGN CHOICE] -/
structure QReg where
  tag    : Nat
  pairs  : List (Nat × Nat)
  poison : List Nat
  deriving DecidableEq, Repr

/-- A held failure of a token: cause, value and the batch that failed (R114). -/
structure FailRec where
  cause : Nat
  val   : Word
  batch : Nat
  deriving DecidableEq, Repr

/-- A batch token (R110): the failure that FAIL shows, DONE and OPEN. -/
structure Token where
  fail  : Option FailRec
  done  : Nat
  opn   : Nat
  /-- Failures of other batches that the Carter took later, oldest first: each is reported in its turn (R114). -/
  more  : List FailRec
  deriving DecidableEq, Repr

/-- The operand window of a matrix operation (R193), open until a wait returns for its batch: the operation, its
token and batch, its handle (8 once the handle names another region) and shape, its operands, and when it was
issued. [log 23 DESIGN CHOICE] -/
structure Window where
  id      : Nat
  tok     : Nat
  batch   : Nat
  z       : Nat
  m       : Nat
  n       : Nat
  vregs   : List Nat
  /-- Runs of scratchpad bytes that the operation reads: first (core × 2^21 + offset) and number; none once a consuming
  operation has committed. -/
  bytes   : List (Nat × Nat)
  issued  : Nat
  /-- Lead and number of its joint operation. -/
  joint   : Option (Nat × Nat)
  /-- An operand has been written within the window. -/
  written : Bool
  /-- The tile has been written by another instruction within the window. -/
  spoiled : Bool
  /-- A wait has returned for its batch, while the window of a partner of its joint operation is open (R332). -/
  closed  : Bool
  deriving DecidableEq, Repr

/-- A memory stream's descriptor (R262). -/
structure StreamDesc where
  base   : Word
  stride : Word
  spad   : Bool
  write  : Bool
  count  : Nat
  chunk  : Nat
  deriving DecidableEq, Repr

/-- What a vector register is bound to (R140, R262, R264). -/
inductive Target where
  | queueRead (q : Nat)
  | queueWrite (q : Nat)
  | stream (d : StreamDesc) (pos : Nat) (ahead : List (Nat × Bool))
  deriving DecidableEq, Repr

/-- A binding of a vector register. -/
structure Binding where
  reg : Nat
  tgt  : Target
  deriving DecidableEq, Repr

/-- An entry of a cross-lane queue: value, tag and destination VP; none for the control thread, and for an entry
of the control thread's, whose destination R145 finds when it is taken (R144, R309, R310). -/
structure XqEntry where
  val  : Word
  tag  : Nat
  dest : Option Nat
  deriving DecidableEq, Repr

/-- What a VP is doing (R302 to R308). [log 60 DEDUCED] -/
inductive VpState where
  /-- Launched, in the lockstep body. -/
  | lockstep
  /-- Independent, at word `pos` of the AIB at `aib`. -/
  | indep (aib : Nat) (xq : Bool) (body : List Instr) (pos : Nat)
  /-- Independent, restored after a full save: the AIB is to be fetched again, and word `pos` is next (R435). -/
  | away (aib pos : Nat)
  /-- Stopped at word `pos`, with a cause and value of its own, or held with a lower VP. -/
  | stopped (aib pos : Nat) (cause : Option (Nat × Word)) (held : Bool)
  deriving DecidableEq, Repr

/-- A virtual processor that a `vfetch` launched and that has not rejoined. -/
structure Vp where
  idx    : Nat
  st     : VpState
  /-- Target recorded by a tfetch of the body it executes (R304). -/
  target : Option Nat
  /-- Flags it has raised while independent, ORed into FFLAGS at its rejoin (R157). -/
  flags  : Nat
  deriving DecidableEq, Repr

/-- The lockstep body in execution (R301, R302): its words, the next word, and in a body with XQ = 1 the
VP whose turn it is (R146). -/
structure AibRun where
  addr : Nat
  xq   : Bool
  body : List Instr
  pos  : Nat
  turn : Nat
  deriving DecidableEq, Repr

/-- A failure at an element, to be taken when the wait that found it ends: element, cause, value, and level,
entry and entry address of a translation. -/
structure LateFail where
  e     : Nat
  cause : Nat
  val   : Nat
  x     : Option (Nat × Nat × Nat)
  deriving DecidableEq, Repr

/-- How the next word is reached (R209). -/
inductive Flow where
  | jumped
  | seq (prevConvoyable : Bool)
  deriving DecidableEq, Repr

/-- A pending pre-emption request (R426). -/
structure Request where
  /-- Launches for whose reserved clusters the Reeve asks the group to yield sections (R402, R403). -/
  yields : List Nat
  /-- A command, a lane retirement or a maintenance window asks for a save. -/
  saves  : Bool
  /-- The group is held once saved (R428). -/
  held   : Bool
  /-- The cycle from which the request is carried out as a full save; none for no deadline (R426). -/
  deadline : Option Nat
  deriving DecidableEq, Repr

/-- What follows a save: the group goes on at once under these sections (R403), is off the device (R426), is
halted with a cause, value and epc (R422), or is killed, with no frame (R428). -/
inductive SaveGoal where
  | stay (sections : List Nat)
  | leave
  | halt (cause : Nat) (val epc : Word)
  | kill
  deriving DecidableEq, Repr

/-- A save decided on (R361, R426): FULL, the live bitmaps of the safe-point entry (x, v, h, m, q, z, b), SPIDX,
RESUME, RESIZE, STREAMS, STUBOFF, and what follows. -/
structure Saving where
  full    : Bool
  live    : List Nat
  spidx   : Nat
  resume  : Word
  resize  : Bool
  /-- The group was split, which makes its safe points non-resizable (R129). -/
  split   : Bool
  streams : Bool
  stub    : Nat
  goal    : SaveGoal
  /-- Its SAVE_WAIT record is written (R429). -/
  waited  : Bool
  deriving DecidableEq, Repr

/-- The trap registers (R243, R421). -/
structure TrapRegs where
  tvec   : Word
  tcause : Nat
  tval   : Word
  tepc   : Word
  plev   : Bool
  lev    : Bool
  tsave  : Vector Word 4
  deriving DecidableEq, Repr

/-- Vector length, grant, role, tile and number-format registers (R128, R138, R155, R156, R162, R243). -/
structure VecRegs where
  vl       : Nat
  vlmax    : Nat
  vstart   : Nat
  grantgen : Nat
  /-- Width and factor of the last `vgrant`, as codes (R205, R246). -/
  vgw      : Nat
  vgg      : Nat
  secrole  : Nat
  tilem    : Nat
  tilen    : Nat
  tilek    : Nat
  fmode    : Nat
  fflags   : Nat
  seed     : Nat
  /-- LFSR of each share lane (R162). -/
  lfsr     : Table Nat
  deriving DecidableEq, Repr

/-- Place of a group on the device and in its team and cluster (R89, R90, R243, R350). -/
structure Place where
  core   : Nat
  slot   : Nat
  det    : Bool
  gix    : Nat
  team   : Nat
  spBase : Nat
  spSize : Nat
  origin : Nat
  rows   : Nat
  cols   : Nat
  teamix : Nat
  deriving DecidableEq, Repr

/-- What a waiting control-thread instruction has already done (R113, R141, R276, R277, R322, R348, R357). -/
structure Waits where
  /-- A `cwait` that waits: barrier and the phase bit it waits to leave (R348). -/
  cwait  : Option (Nat × Nat)
  /-- A `bwait` that waits: the batch it waits for (R113). -/
  bwait  : Option Nat
  /-- A `bwaitm` that waits: the batch of each token that it waits for (R113). -/
  bwaitm : Option (List Nat)
  /-- An `rdecl` whose declarations are sent: core and entry (R276). -/
  rdecl  : Option (Nat × Nat)
  /-- An `rclose` whose scope close has begun (R277). -/
  rclose : Bool
  /-- An `sspawn` that has written its record and waits for a place on the list (R357). -/
  sspawn : Bool
  /-- A `zset` that waits for a run of accumulator words: its handle, the value and the number of words (R315). -/
  zset   : Option (Nat × Word × Nat)
  /-- A register bound to a strip queue that was found empty (R141). -/
  starved : Option Nat
  deriving DecidableEq, Repr

/-- A `tbar` that has arrived and not returned: its address, its barrier, the generation at which it arrived and
its destination (R345, R347). [log 21 DEDUCED] -/
structure Arrived where
  pc      : Word
  barrier : Nat
  gen     : Nat
  rd      : Nat
  deriving DecidableEq, Repr

/-- An entry of the vector queue: a convoy or another instruction that waits to leave it, what it has yet to perform,
and the control thread as it stood when the entry entered, on which it acts (R116, R297, R420). `begun` says that its
convoy has been examined and dispatched (R300). [log 130 DEDUCED] -/
structure QueueEntry where
  words     : List Instr
  begun     : Bool
  pc        : Word
  flow      : Flow
  x         : Vector Word 32
  xPoison   : List Nat
  tr        : TrapRegs
  retired   : Word
  spcount   : Nat
  convoyLen : Nat
  waits     : Waits
  relFence  : Bool
  deriving DecidableEq, Repr

/-- A vector future wait whose requests have been sent (R271): its registers, the active elements and all the
elements that it writes, whether it has a timeout, the failure that it takes when it ends, and the entry that executes it
again should it be abandoned (R270); none for a word of a body. -/
structure FldvRun where
  d     : Nat
  u     : Nat
  act   : List Nat
  els   : List Nat
  /-- VL as the instruction found it. -/
  vl    : Nat
  timed : Bool
  fail  : Option LateFail
  ended : Bool
  entry : Option QueueEntry
  deriving DecidableEq, Repr

/-- A group: a control thread and its VPs (R23). [log 133 DEDUCED] -/
structure Group where
  /-- The group occupies its slot and has not exited. -/
  live     : Bool
  /-- The group has begun (R402, R404). -/
  begun    : Bool
  launch   : Nat
  pl       : Place
  pc       : Word
  flow     : Flow
  x        : Vector Word 32
  xPoison  : List Nat
  /-- x registers that an unfinished ordered fold will write, once for each, and those of them that have been written
  meanwhile (R106). -/
  xPend    : List Nat
  xHit     : List Nat
  h        : Vector Word 16
  hPoison  : List Nat
  v        : Vector VReg 32
  /-- Clock of the last write of each vector register (R192, R193). -/
  vSeq     : Table Nat
  /-- Vector registers that an unfinished copy will write, once for each (R106). -/
  vPend    : List Nat
  m        : Vector MReg 8
  /-- Mask registers that an unfinished copy will write, once for each, and those of them that have been written
  meanwhile (R106). -/
  mPend    : List Nat
  mHit     : List Nat
  q        : Vector QReg 8
  z        : Vector Word 8
  tok      : Vector Token 8
  windows  : List Window
  /-- Clock of the last `mfence` (R192). -/
  mfence   : Nat
  /-- Clock of the last acquire or awaited batch: writes of other agents up to it are ordered before what follows (R184,
  R191); and that clock as it stood at the last `mfence` (R192). -/
  acq      : Nat
  mfAcq    : Nat
  rowMap   : Table Nat
  tr       : TrapRegs
  vc       : VecRegs
  asid     : Nat
  codeBase : Word
  codeLen  : Nat
  retired  : Word
  nackcnt  : Word
  splimit  : Nat
  spcount  : Nat
  binds    : List Binding
  /-- Registers whose stream-end flag is set (R143). -/
  streamEnd : List Nat
  vps      : List Vp
  /-- VP that each share lane last served (R147). -/
  vpServed : Table Nat
  aib      : Option AibRun
  hSnap    : Vector Word 16
  hSnapPoison : List Nat
  fSnap    : Nat
  /-- VL at the `vfetch` whose body runs in lockstep (R302). -/
  vlSnap   : Nat
  /-- Lane queues, each entry with the share lane that it leaves, the queue to VPs and the queue from VPs, oldest
  first (R144). -/
  xq       : List (Nat × XqEntry)
  xqTo     : List XqEntry
  xqFrom   : List XqEntry
  waits    : Waits
  /-- Arrivals at team barriers that have not returned (R345, R347). -/
  arrived  : List Arrived
  /-- A vector future wait in the queue (R271). -/
  fldv     : Option FldvRun
  /-- The vector queue of 32 instructions, oldest first: what the control thread has run ahead of (R23, R297, R420). -/
  vq       : List QueueEntry
  /-- A release fence stands behind vector-stream accesses not yet performed (R183). -/
  relFence : Bool
  /-- A vector wait of the queue or of the lockstep body has been abandoned for a save, and what stood behind it stands
  still until the group resumes (R270, R426). -/
  abandoned : Bool
  /-- Entries that wait for room in a strip queue: the queue, the entry, and whether the write end is unbound
  with it (R141, R265). -/
  appends  : List (Nat × StripEntry × Bool)
  /-- Entries taken off a strip queue for the instruction that waits for them (R141). -/
  fed      : List (Nat × StripEntry)
  /-- Lane count kept while stretched (R433). -/
  stretched : Option Nat
  /-- Arena granules that hold rows beyond 1,024 of a real lane while stretched (R433). -/
  spill    : List Nat
  portable : Bool
  /-- Toll of the convoy that waits for its dispatch charge (R408). -/
  toll     : Nat
  /-- Members of the convoy in progress (R209), counted from the head. -/
  convoyLen : Nat
  request  : Option Request
  /-- The `spt` retired at which a safe point is being taken: its index and address (R361). -/
  atSpt    : Option (Nat × Word)
  /-- A save of this group that waits to be written (R361, R429). -/
  saving   : Option Saving
  /-- The group waits in an external future wait (R269, R412). -/
  external : Bool
  /-- The group is being halted: cause, value and epc (R422). -/
  halt     : Option (Nat × Word × Word)
  deriving DecidableEq, Repr

/-! ### Memory behind and in the L2 slices (02_main_memory) -/

/-- Ration state of a line or block (R39, R44). -/
inductive Ration where
  | none | live | spent
  deriving DecidableEq, Repr

/-- Ration state, count, reserved count, scope and declaration entry of a line or block. -/
structure RationRec where
  st       : Ration
  count    : Nat
  reserved : Nat
  scope    : Nat
  decl     : Nat
  deriving DecidableEq, Repr

/-- What a slice keeps of a line that it holds (R39). The line's changed bytes and fe bits stand in the
overlays of `PhysMem`. -/
structure Line where
  addr    : Nat
  poison  : Bool
  outside : Nat
  ration  : RationRec
  deriving DecidableEq, Repr

/-- A stream of accesses (R174): of the control thread, of a group's vector queue, of an independent VP, or of an engine
that works for a group. `exact` stands for requests that find each byte as it is. -/
inductive Stream where
  | exact | scalar | vector
  | vp (v : Nat)
  | engine
  deriving DecidableEq, Repr

/-- A write that a group has made, with the bytes as they were before it: the group's other streams may find those until
an order stands between the streams, and walks until the write is visible at dev scope (R72, R177, R178, R198). The
model's own (log entry 10). [log 10 DESIGN CHOICE] -/
structure Stale where
  pa     : Nat
  n      : Nat
  old    : Nat
  /-- The writing group, and its stream. -/
  gid    : Nat
  stream : Stream
  /-- Ordered before every later access of its group. -/
  fenced : Bool
  /-- Visible at dev scope. -/
  shown  : Bool
  deriving DecidableEq, Repr

/-- Physical memory: what the storage behind the slices holds, what the slices hold changed, and the
lines present, most recently used first. -/
structure PhysMem where
  /-- Bytes of HBM4, host memory and peer memory by physical address; unlisted: 0 (log entry 6). -/
  cells      : List Host.Cell
  /-- Bytes that slices hold changed and not yet written back. -/
  dirty      : Table Byte
  /-- Words (physical address div 8) whose fe bit is full in memory (R40). -/
  full       : List Nat
  /-- fe bits that slices hold changed. -/
  feDirty    : Table Bool
  /-- Lines whose poison marker is set in memory (R39). -/
  poisoned   : List Nat
  lines      : List Line
  /-- Ways lost of a set (key: slice × 768 + set), counting the spare (R38). -/
  waysLost   : Table Nat
  /-- Writes that some stream may not see yet, newest first. -/
  stale      : List Stale
  /-- Pages of the code of running launches: address div 4,096, and launch (R216). The model's own. -/
  watch      : List (Nat × Nat)
  /-- Words of code that were written while their launch ran: address div 4, launch and the word before the write, newest
  first (R216). The model's own. -/
  codeOld    : List (Nat × Nat × Nat)
  deriving DecidableEq, Repr

/-- A declaration held at its slice or waiting in the port (R45). -/
structure Held where
  line  : Nat
  count : Nat
  scope : Nat
  decl  : Nat
  core  : Nat
  deriving DecidableEq, Repr

/-- An occupied entry of a core's ration declaration table (R47). -/
structure DeclEntry where
  core   : Nat
  idx    : Nat
  scope  : Nat
  /-- Physical address of the notify future, with the line of its home. -/
  notify : Option Nat
  /-- Lines or blocks not yet Spent, those that a transfer has yet to declare among them (R47, R383). -/
  lines  : Nat
  /-- Lines or blocks that a transfer has yet to declare (R107). -/
  due    : Nat
  /-- Lines or blocks newly made live by this declaration (R276). -/
  made   : Nat
  /-- The declaration has been sent whole: the entry ends when `lines` reaches 0. -/
  sealed : Bool
  gid    : Nat
  asid   : Nat
  deriving DecidableEq, Repr

/-- A scope close in progress (R48, R109): the slices and cores still to scan, the entries to end. -/
structure Close where
  scope   : Nat
  gid     : Option Nat
  /-- Launch and ASID of the scope, for its residue records. -/
  launch  : Option Nat
  asid    : Nat
  slices  : List Nat
  cores   : List Nat
  entries : List (Nat × Nat)
  deriving DecidableEq, Repr

/-- Ration state outside the lines: tables, blocks, held declarations, events in flight, closes. -/
structure Rations where
  entries : List DeclEntry
  /-- Ration state of scratchpad blocks (key: core × 512 + block); unlisted: none (R108). -/
  blocks  : Table RationRec
  held    : List Held
  /-- Line-spent events in flight: core and entry (R47). -/
  events  : List (Nat × Nat)
  closes  : List Close
  deriving DecidableEq, Repr

/-- An addition in a Mill's chain (R50). [log 15 DEDUCED] -/
structure Addition where
  pa     : Nat
  tag    : Nat
  fmode  : Nat
  addend : Nat
  poison : Bool
  /-- Address space and launch of its issuer (R79, R412). -/
  asid   : Nat
  launch : Nat
  /-- The group and stream of a `samo` (R198). -/
  src    : Option (Nat × Stream)
  deriving DecidableEq, Repr

/-- Where a future wait stands (R54 to R57). -/
inductive FutState where
  | parked (slice idx : Nat)
  | waking (val : Word) (poison : Bool)
  | deferred (slice : Nat)
  | answering (val : Word) (poison : Bool)
  | nacked
  | backoff
  | answered (val : Word) (poison : Bool)
  | expired
  deriving DecidableEq, Repr

/-- An event of a slice or core in flight: a wake-up or an answer, or a line-spent event of a core's entry (R200). -/
inductive SentEvent where
  | fut (w : Waiter)
  | spent (core idx : Nat)
  deriving DecidableEq, Repr

/-- A future load that has been sent and whose value its waiter has not yet taken. -/
structure FutWait where
  who       : Waiter
  pa        : Nat
  emptying  : Bool
  external  : Bool
  asid      : Nat
  st        : FutState
  /-- Length of the next backoff in cycles (R57). -/
  back      : Nat
  /-- A timeout runs for it (R271). -/
  timed     : Bool
  deriving DecidableEq, Repr

/-! ### Scratchpad and accumulators (04_scratchpad_copies, 12_isa_matrix_sparse) -/

/-- Scratchpads of all cores, keyed core × 2^21 + offset. [log 23 DESIGN CHOICE] -/
structure Spad where
  cells  : List Host.Cell
  /-- Stamp of a block (key: core × 512 + block); unlisted: 0 (R95). -/
  stamps : Table Nat
  /-- Poisoned 64-byte words (R424). -/
  poison : List Nat
  /-- Clock of the last write of a byte, a change of its block's stamp among them, and the group that wrote it, by its
  number + 1, or 0 for an engine (R96, R192, R193). -/
  seqs   : Table (Nat × Nat)
  deriving DecidableEq, Repr

/-- An accumulator element: a pattern, or the free value that a seed names (R2). -/
inductive AccElem where
  | val (p : Nat)
  | free (seed : Nat)
  deriving DecidableEq, Repr

/-- A claimed region of a core's accumulator memory (R133, R315): element (i, j) is listed under
i × 1,024 + j; every other element is `rest`. -/
structure Region where
  core   : Nat
  gid    : Nat
  z      : Nat
  base   : Nat
  words  : Nat
  rest   : AccElem
  elems  : Table AccElem
  poison : List Nat
  deriving DecidableEq, Repr

/-! ### Translation (03_translation) -/

/-- A translation held in a buffer (R73). -/
structure Tlb where
  asid  : Nat
  c     : Nat
  /-- VA[56:c]. -/
  tag   : Nat
  base  : Nat
  /-- RD in bit 0, W in bit 1, X in bit 2, SO in bit 6, as leaf bits [9:3]. -/
  attrs : Nat
  /-- It came from a contiguous run (R69, R85). -/
  cont  : Bool
  deriving DecidableEq, Repr

/-- A walk-cache entry (R73). -/
structure Wc where
  asid  : Nat
  key   : Nat
  table : Nat
  gran  : Nat
  deriving DecidableEq, Repr

/-- A walk in progress that a PAGE_WALK_READ advances (R71, R77). -/
structure Walk where
  core : Nat
  asid : Nat
  va   : Nat
  lvl  : Nat
  tab  : Nat
  gran : Nat
  /-- Cores whose misses it serves (R77). -/
  joined : List Nat
  deriving DecidableEq, Repr

/-- The translation buffers, each list most recently used first. -/
structure Xlate where
  /-- Lane banks, keyed core × 64 + logical lane. -/
  banks : Table (List Tlb)
  /-- Core TLBs, keyed core × 256 + set. -/
  ctlb  : Table (List Tlb)
  /-- Die TLBs, keyed die × 2,048 + set. -/
  dtlb  : Table (List Tlb)
  /-- Walk caches, keyed die × 8 + level. -/
  wc    : Table (List Wc)
  walks : List Walk
  /-- Misses that wait for a walker, in arrival order: core, ASID, address (R77). -/
  queue : List (Nat × Nat × Nat)
  /-- Core last given a freed walker, by die (R77). -/
  served : Table Nat
  deriving DecidableEq, Repr

/-! ### Engines (04_scratchpad_copies, 12_isa_matrix_sparse) -/

/-- How far a Carter transfer has come (R97, R105, R274): waiting for a declaration entry, for leave, for a place,
to begin; in progress; complete, its results kept until its batch completes (R106). -/
inductive XferPhase where
  | entry | leave | place | queued | running | done
  deriving DecidableEq, Repr

/-- A Carter transfer (R97 to R107): its descriptor's sixteen words and what was taken at issue. -/
structure Xfer where
  id      : Nat
  gid     : Nat
  tok     : Nat
  batch   : Nat
  asid    : Nat
  steward : Bool
  phase   : XferPhase
  desc    : Vector Word 16
  /-- cpy.g's register, and its active elements with their row numbers and poison. -/
  rows    : Option (Nat × List (Nat × Int × Bool))
  /-- Register that receives the bounds mask, 0 for none. -/
  mreg    : Nat
  /-- x register that receives an ordered fold's sum, 0 for none. -/
  ret     : Nat
  /-- Elements that are active at issue below VL. -/
  act     : List Nat
  vl      : Nat
  fmode   : Nat
  issued  : Nat
  unit    : Nat
  acc     : Nat
  accPoison : Bool
  /-- Elements for a vector-register destination found so far: value and poison. -/
  out     : Table (Nat × Bool)
  /-- Additions of an unordered fold: place, addend and poison; a place in a scratchpad is 2^60 + core × 2^21 +
  offset. -/
  adds    : List (Nat × Nat × Bool)
  /-- What its undefined values are named by (R2, R106). -/
  seed    : Nat
  /-- The destination registers as they stood at issue (R105, R106). -/
  heldV   : VReg
  heldM   : MReg
  heldX   : Word × Bool
  /-- The entry of the declaration table: core and index (R107). -/
  decl    : Option (Nat × Nat)
  failed  : Bool
  deriving DecidableEq, Repr

/-- A scratchpad tile (R318, R319): the core and first block of its partition, its team's index in the cluster, OFF,
and the descriptor's fields. -/
structure SpTile where
  core   : Nat
  part   : Nat
  team   : Nat
  off    : Nat
  lpitch : Nat
  tpitch : Nat
  bpitch : Nat
  tag    : Nat
  rot    : Nat
  deriving DecidableEq, Repr

/-- A matrix operand (R317, R318). -/
inductive MatOperand where
  | vreg (r : Nat)
  | spad (t : SpTile)
  deriving DecidableEq, Repr

/-- Which matrix form an operation is (R321, R328, R329); a joint one's lead as a team code, its shape and its
position. -/
inductive MatKind where
  | mma | mmas
  | mjoin (lead shape pos : Nat)
  deriving DecidableEq, Repr

/-- How far a matrix operation has come (R322 to R324, R331): waiting for its partners, waiting to be accepted,
accepted. -/
inductive MatPhase where
  | join | leave | running
  deriving DecidableEq, Repr

/-- A matrix operation between its issue and its completion. -/
structure MatOp where
  id     : Nat
  gid    : Nat
  core   : Nat
  kind   : MatKind
  tok    : Nat
  batch  : Nat
  phase  : MatPhase
  z      : Nat
  m      : Nat
  n      : Nat
  k      : Nat
  a      : MatOperand
  b      : MatOperand
  /-- Number of the x register that describes operand A. -/
  areg   : Nat
  aTag   : Nat
  bTag   : Nat
  issued : Nat
  /-- No `mfence` stood between a write of an operand and the issue (R192). -/
  undef  : Bool
  /-- Blocks on which it holds a reservation (R325). -/
  blocks : List Nat
  consume : Bool
  /-- Number of the joint operation of its lead (R330). -/
  joint  : Nat
  deriving DecidableEq, Repr

/-- A request for leave or a lease at a die's power steward (R409, R410). -/
structure Leave where
  die    : Nat
  /-- Who asks: a transfer, a matrix operation, or a group's lease of a kind. -/
  gid    : Nat
  xfer   : Option Nat
  mat    : Option Nat
  lease  : Option (Nat × Nat)
  units  : Nat
  granted : Bool
  deriving DecidableEq, Repr

/-- A strip queue of a core (R140): its ends and its entries, oldest first. -/
structure StripQ where
  core    : Nat
  q       : Nat
  owner   : Nat
  rd      : Option Nat
  wr      : Option Nat
  entries : List StripEntry
  deriving DecidableEq, Repr

/-- The engines' work and the queues that feed it. -/
structure Engines where
  xfers   : List Xfer
  mats    : List MatOp
  nextId  : Nat
  regions : List Region
  leaves  : List Leave
  strips  : List StripQ
  /-- Slot last served by each core's matrix unit (R323). -/
  lastServed : Table Nat
  /-- Joint operations that a position has arrived at, by lead × 4 + position (R330). -/
  jointCount : Table Nat
  deriving DecidableEq, Repr

/-! ### Cores, teams, clusters, channels (05, 13, 17) -/

/-- What a core holds for all its groups (R18, R134, R135, R408). -/
structure Core where
  lanepart : Vector (Option Nat) 8
  lanemod  : Nat
  /-- Physical lane of each logical lane (R135). -/
  lrmap    : Vector Nat 64
  /-- Physical lanes out of service (R18). -/
  retired  : List Nat
  purses   : Table Int
  deriving DecidableEq, Repr

/-- A barrier (R346). -/
structure Barrier where
  memb  : Nat
  arr   : Nat
  gen   : Nat
  p     : Bool
  marks : List Nat
  deriving DecidableEq, Repr

/-- A running team on a core (R89, R346). -/
structure Team where
  core     : Nat
  num      : Nat
  asid     : Nat
  launch   : Nat
  cluster  : Nat
  spBase   : Nat
  spSize   : Nat
  teamix   : Nat
  /-- Groups that belong to the team, by gid. -/
  members  : List Nat
  bars     : Vector Barrier 16
  exited   : Bool
  deriving DecidableEq, Repr

/-- A running cluster (R24, R90, R346). -/
structure Cluster where
  launch : Nat
  idx    : Nat
  origin : Nat
  rows   : Nat
  cols   : Nat
  bars   : Vector Barrier 8
  deriving DecidableEq, Repr

/-- A Crier channel that a launch holds (R353). -/
structure Channel where
  die    : Nat
  ch     : Nat
  launch : Nat
  count  : Word
  deriving DecidableEq, Repr

/-! ### Launches (17_scheduling, 21_code_objects) -/

/-- The chosen image's numbers (R471, R476). -/
structure Image where
  portable : Bool
  codeBase : Word
  codeLen  : Nat
  entries  : List Nat
  tvec     : Word
  sptBase  : Word
  sptCount : Nat
  /-- Sections: START, KIND, offset, length, arrival-future offset, CRC (R472). -/
  sections : List (Bool × Nat × Nat × Nat × Nat × Nat)
  deriving DecidableEq, Repr

/-- What is known of a section (R477, R478). -/
inductive SecState where
  | waiting | good | bad
  deriving DecidableEq, Repr

/-- An accepted launch (R398 to R406). -/
structure Launch where
  id        : Nat
  queue     : Nat
  number    : Nat
  words     : Vector Word 16
  image     : Image
  /-- Clusters placed so far, of GRID. -/
  placed    : Nat
  started   : Nat
  exited    : Nat
  haltCause : Option Nat
  tasks     : List Word
  /-- Groups begun for the first of its tasks (R405). -/
  spawned   : Nat
  wdlimit   : Nat
  /-- The Watchman's counter, and the sum of RETIRED over the launch's groups when it last counted (R412). -/
  wdcount   : Nat
  wdseen    : Nat
  /-- Cycle of its acceptance (R402). -/
  since     : Word
  errq      : Word
  secs      : Table SecState
  /-- Corner reserved for its next cluster (R402). -/
  reserved  : Option Nat
  held      : Bool
  killed    : Bool
  deriving DecidableEq, Repr

/-- A saved group (R429 to R433): its registers as the frame holds them. [log 24 DESIGN CHOICE] -/
structure Saved where
  group    : Group
  how      : Saving
  /-- Share lanes and LANEMOD at the save. -/
  lanes    : Nat
  lanemod  : Nat
  held     : Bool
  /-- First granule of its frame and their number. -/
  granule  : Nat
  granules : Nat
  /-- Physical address of the frame and the words written there, which a restoration reads back (R429, R498). -/
  addr     : Nat
  frame    : List Nat
  regions  : List Region
  strips   : List StripQ
  /-- Row, sideband and mask poison by register and element (R431). -/
  vPoison  : List (Nat × Nat)
  mPoison  : List (Nat × Nat)
  deriving DecidableEq, Repr

/-! ### The I/O die (03, 17, 18, 22) -/

/-- A host queue's registers (R395, R396). -/
structure HostQueue where
  base    : Nat
  tail    : Nat
  size    : Nat
  err     : Bool
  en      : Bool
  /-- A tail word ran too far ahead: nothing is read until EN is set again (R396). -/
  stopped : Bool
  head    : Nat
  /-- The tail line was taken away and is to be read again (R396). -/
  reread  : Bool
  /-- Tail value last read. -/
  seen    : Nat
  deriving DecidableEq, Repr

/-- A release queue's registers and the entry in hand (R415 to R417). -/
structure RelQueue where
  ring  : Word
  asid  : Nat
  size  : Nat
  en    : Bool
  hw    : Word
  hbase : Nat
  hsize : Nat
  prod  : Nat
  cons  : Nat
  head  : Nat
  drop  : Nat
  /-- Words 0 to 2 of the entry whose READY has been taken. -/
  entry : Option (Word × Word × Word)
  /-- The entry's verdict allowed it and it waits for room. -/
  ready : Bool
  deriving DecidableEq, Repr

/-- The Clerk's registers (R414). -/
structure Clerk where
  pc    : Nat
  errop : Nat
  err   : Bool
  run   : Bool
  cnt   : Vector Word 8
  /-- A WAITGE waits at PC. -/
  wait  : Bool
  /-- Records accepted as those of queue 128. -/
  count : Nat
  deriving DecidableEq, Repr

/-- A context command not yet complete (R427, R428). -/
structure CtxCmd where
  op   : Nat
  asid : Nat
  /-- Groups that it has yet to see saved or gone. -/
  left : List Nat
  deriving DecidableEq, Repr

/-- An invalidation command not yet complete (R79). -/
structure InvCmd where
  op   : Nat
  asid : Nat
  vpn  : Nat
  /-- Walks in progress when it was accepted that have not ended: die, ASID, page. -/
  before : List (Nat × Nat × Nat)
  deriving DecidableEq, Repr

/-- MSI-X state (R487) and the vectors whose messages have been sent, oldest first. [log 114 DESIGN CHOICE] -/
structure Msix where
  mask    : Table Bool
  fnMask  : Bool
  pending : List Nat
  sent    : List Nat
  deriving DecidableEq, Repr

/-- A Krovino port (R488 to R490). [log 87 DESIGN CHOICE] -/
structure Port where
  replays : Nat
  lanes   : Nat
  /-- SerDes lanes lost, the spare counted (R442). -/
  lost    : Nat
  up      : Bool
  /-- Sequence number expected of the next flit, and refusals of it in a row. -/
  expect  : Nat
  refused : Nat
  /-- A refused flit is to be replayed. -/
  replay  : Bool
  /-- Buffer places occupied, and hold asserted, on each lane. -/
  buffered : Vector Nat 8
  held    : Vector Bool 8
  deriving DecidableEq, Repr

/-- An error found in a unit, counted for its retirement (R443): the unit, the way where it is a set of ways, the
cycle, and whether it could not be corrected. -/
structure UnitError where
  unit  : RepairUnit
  way   : Nat
  cycle : Word
  bad   : Bool
  deriving DecidableEq, Repr

/-- An attestation report (R494): what it says, and the signatures over that. -/
structure Report where
  nonce    : Nat
  hash     : Nat
  version  : Nat
  node     : Nat
  repairs  : Nat
  edSign   : Nat
  mlSign   : Nat
  deriving DecidableEq, Repr

/-- The I/O die's registers and units. -/
structure Io where
  nodeid     : Nat
  nodeidSet  : Bool
  pounden    : Nat
  /-- Dies on which self-test runs (R58, R444). -/
  testing    : List Nat
  astbase    : Nat
  xinvacc    : Nat
  xinvdone   : Nat
  xinv       : List InvCmd
  hfqBase    : Nat
  hfqSize    : Nat
  hfqEn      : Bool
  hfqProd    : Nat
  hfqCons    : Nat
  hfqLost    : Nat
  hfutval    : Word
  hfutdone   : Nat
  ctxacc     : Nat
  ctxdone    : Nat
  ctx        : List CtxCmd
  arenaBase  : Nat
  arenaSize  : Nat
  deverrq    : Word
  maintWait  : Nat
  maintDie   : Nat
  /-- The die whose maintenance window is open (R444). -/
  maintOpen  : Option Nat
  bootStage  : Nat
  bootCode   : Nat
  rcvaddr    : Word
  rcvlen     : Nat
  pwbudget   : Vector Nat 8
  pwheld     : Vector Word 8
  /-- Budget the host set, up to which a cooled die returns (R496). -/
  pwset      : Vector Nat 8
  hq         : Table HostQueue
  rq         : Table RelQueue
  clerk      : Clerk
  ports      : Table Port
  msix       : Msix
  /-- Sequence numbers taken from each source node, the newest first (R489). -/
  peerSeq    : Table (List Nat)
  /-- Nodes present in the domain besides this one (R60). -/
  peers      : List Nat
  /-- Repairs recorded in the fuse store, and repairs that await a maintenance window or reset (R443). -/
  fuses      : List RepairUnit
  repairs    : List RepairUnit
  /-- Errors counted in the last 2^32 cycles, oldest first (R443). -/
  errors     : List UnitError
  /-- The bytes of the firmware image in module flash, and of the image that runs (R492, R493). -/
  flash      : List Nat
  firmware   : List Nat
  /-- Attestation reports given (R494). -/
  reports    : List Report
  deriving DecidableEq, Repr

/-- The last answer that a unit sent to a requester outside the running group: value, size in bytes and
poison. The model's own field. [log 115 DESIGN CHOICE] -/
structure Answer where
  val    : Nat
  size   : Nat
  poison : Bool
  deriving DecidableEq, Repr

/-- What a step of a unit acts on: the operands of the message, request or event that the unit takes. A
group is named by its core index × 16 + slot, a line by its physical address div 128, a half line by its
physical address div 64. The model's own. [log 2 DESIGN CHOICE, 115 DESIGN CHOICE] -/
structure Msg where
  pa     : Nat := 0
  n      : Nat := 0
  val    : Nat := 0
  tag    : Nat := 0
  fmode  : Nat := 0
  op     : AtomOp := .ld
  a      : Nat := 0
  b      : Nat := 0
  block  : Bool := false
  unit   : Nat := 0
  line   : Nat := 0
  half   : Nat := 0
  count  : Nat := 0
  scope  : Nat := 0
  decl   : Nat := 0
  idx    : Nat := 0
  who    : Waiter := .group 0
  emptying : Bool := false
  external : Bool := false
  src    : Nat := 0
  seq    : Nat := 0
  req    : PeerReq := .read 0 0
  core   : Nat := 0
  asid   : Nat := 0
  va     : Nat := 0
  vpn    : Nat := 0
  off    : Nat := 0
  wr     : Bool := false
  id     : Nat := 0
  gid    : Nat := 0
  tok    : Nat := 0
  num    : Nat := 0
  queue  : Nat := 0
  entry  : StripEntry := .endMark
  reg    : Nat := 0
  vp     : Nat := 0
  cluster : Bool := false
  barrier : Nat := 0
  member : Nat := 0
  sections : Nat := 0
  launch : Nat := 0
  wait   : Nat := 0
  die    : Nat := 0
  repair : RepairUnit := .serdes 0 0
  found  : List RepairUnit := []
  lost   : LostState := .data
  err    : ErrorAt := .none
  sec    : Nat := 0
  bytes  : List (Nat × Nat) := []
  port   : Nat := 0
  ok     : Bool := true
  vals   : List Nat := []
  deriving DecidableEq, Repr

/-- The device. -/
structure State where
  /-- The group whose control thread has its turn. -/
  g        : Group
  /-- The other groups that hold a slot, in turn order. -/
  others   : List Group
  saved    : List Saved
  pm       : PhysMem
  sp       : Spad
  xl       : Xlate
  ra       : Rations
  /-- Mill additions waiting for their line, in arrival order (R50). -/
  chains   : List Addition
  /-- Future loads sent and not yet taken, in arrival order. -/
  futs     : List FutWait
  /-- Events in flight with the source that each left, in the order in which they occurred (R200). -/
  sent     : List (Nat × SentEvent)
  eng      : Engines
  /-- Cores that differ from a core after reset. -/
  cores    : Table Core
  /-- Slot last served at each core's control-thread issue, and by its vector sequencer (R407, R408). -/
  served   : Table Nat
  seqServed : Table Nat
  /-- Groups passed over after a `yield`: the group, the groups that have had a turn since, and the cycle at which it
  ends (R407). -/
  passed   : List (Nat × List Nat × Word)
  teams    : List Team
  clusters : List Cluster
  channels : List Channel
  /-- Posts in flight: die, channel, count (R353). -/
  posts    : List (Nat × Nat × Word)
  /-- Row, sideband and mask granules that are poisoned (R424). -/
  granules : List Nat
  launches : List Launch
  nextLaunch : Nat
  io       : Io
  cycle    : Word
  /-- Counts writes and steps, for operand windows. The model's own. -/
  clock    : Nat
  /-- Counts the free values taken. The model's own (log entry 1). -/
  freeCtr  : Nat
  /-- Steps of units listed to happen next, first first, each with what it acts on. The model's own
  (log entry 2). -/
  inputs   : List (Instr × Msg)
  /-- What the unit step being performed acts on. The model's own. -/
  msg      : Msg
  /-- The running instruction waits; it is tried again after another step. The model's own. -/
  stalled  : Bool
  /-- The step met a line at which it must wait, so it is not performed (R37, R45, R484). The model's own
  (log entry 119). -/
  barred   : Bool
  /-- Registers that the host is to read over CXL.io next, by their offset in the register space, first first (R7,
  R482). The model's own (log entry 123). -/
  hostReads : List Nat
  /-- Half lines, by address div 64, whose Back-Invalidate snoops the host has not answered (R485). -/
  snoops   : List Nat
  /-- Host requests that wait for such an answer, oldest first (R485). -/
  waiting  : List (Instr × Msg)
  answer   : Option Answer
  deriving DecidableEq, Repr

/-! ### Reset -/

def VReg.reset : VReg := ⟨0, 0, false, false, 0, [], [], false⟩

/-- [log 5 DEDUCED] -/
def MReg.reset : MReg := ⟨0, []⟩

def QReg.reset : QReg := ⟨0, [], []⟩

/-- The launch value of a token (R110). -/
def Token.reset : Token := ⟨none, 0, 1, []⟩

def Waits.none : Waits := ⟨.none, .none, .none, .none, false, false, .none, .none⟩

/-- [log 3 DESIGN CHOICE] -/
def TrapRegs.reset : TrapRegs := ⟨0, 0, 0, 0, false, false, Vector.replicate 4 0⟩

/-- [log 4 DEDUCED] -/
def VecRegs.reset : VecRegs := ⟨0, 0, 0, 0, 0, 0, 0, 0, 0, 0, 0, 0, 0, []⟩

/-- Place registers at their reset values (R89, R90): no team, a cluster of one core. -/
def Place.reset : Place := ⟨0, 0, false, 0, 0, 0, 0, 0, 1, 1, 0⟩

/-- A group's registers at their launch values (R404), in no slot yet. [log 3 DESIGN CHOICE, 4 DEDUCED] -/
def Group.reset : Group where
  live := false
  begun := false
  launch := 0
  pl := Place.reset
  pc := 0
  flow := .jumped
  x := Vector.replicate 32 0
  xPoison := []
  xPend := []
  xHit := []
  h := Vector.replicate 16 0
  hPoison := []
  v := Vector.replicate 32 VReg.reset
  vSeq := []
  vPend := []
  m := Vector.replicate 8 MReg.reset
  mPend := []
  mHit := []
  q := Vector.replicate 8 QReg.reset
  z := Vector.replicate 8 0
  tok := Vector.replicate 8 Token.reset
  windows := []
  mfence := 0
  acq := 0
  mfAcq := 0
  rowMap := []
  tr := TrapRegs.reset
  vc := VecRegs.reset
  asid := 0
  codeBase := 0
  codeLen := 0
  retired := 0
  nackcnt := 0
  splimit := 2048
  spcount := 0
  binds := []
  streamEnd := []
  vps := []
  vpServed := []
  aib := none
  hSnap := Vector.replicate 16 0
  hSnapPoison := []
  fSnap := 0
  vlSnap := 0
  xq := []
  xqTo := []
  xqFrom := []
  waits := Waits.none
  arrived := []
  fldv := none
  vq := []
  relFence := false
  abandoned := false
  appends := []
  fed := []
  stretched := none
  spill := []
  portable := false
  toll := 0
  convoyLen := 0
  request := none
  atSpt := none
  saving := none
  external := false
  halt := none

def RationRec.reset : RationRec := ⟨.none, 0, 0, 0, 0⟩

/-- [log 6 DESIGN CHOICE] -/
def PhysMem.reset : PhysMem := ⟨[], [], [], [], [], [], [], [], [], []⟩

/-- A core after reset (R134, R135): no owner, 64 live lanes, the identity lane map. [log 3 DESIGN CHOICE] -/
def Core.reset : Core := ⟨Vector.replicate 8 none, 64, Vector.ofFn (fun i => i.val), [], []⟩

def HostQueue.reset : HostQueue := ⟨0, 0, 0, false, false, false, 0, false, 0⟩

def RelQueue.reset : RelQueue := ⟨0, 0, 0, false, 0, 0, 0, 0, 0, 0, 0, none, false⟩

def Clerk.reset : Clerk := ⟨0, 0, false, false, Vector.replicate 8 0, false, 0⟩

def Port.reset : Port := ⟨0, 0, 0, false, 0, 0, false, Vector.replicate 8 0, Vector.replicate 8 false⟩

/-- [log 7 PRESUMED] -/
def Msix.reset : Msix := ⟨[], false, [], []⟩

/-- The I/O die's registers at the reset values of their tables. [log 3 DESIGN CHOICE] -/
def Io.reset : Io where
  nodeid := 0
  nodeidSet := false
  pounden := 0
  testing := []
  astbase := 0
  xinvacc := 0
  xinvdone := 0
  xinv := []
  hfqBase := 0
  hfqSize := 0
  hfqEn := false
  hfqProd := 0
  hfqCons := 0
  hfqLost := 0
  hfutval := 0
  hfutdone := 0
  ctxacc := 0
  ctxdone := 0
  ctx := []
  arenaBase := 0
  arenaSize := 0
  deverrq := 0
  maintWait := 0
  maintDie := 0
  maintOpen := none
  bootStage := 1
  bootCode := 0
  rcvaddr := 0
  rcvlen := 0
  pwbudget := Vector.replicate 8 64
  pwheld := Vector.replicate 8 0
  pwset := Vector.replicate 8 64
  hq := []
  rq := []
  clerk := Clerk.reset
  ports := []
  msix := Msix.reset
  peerSeq := []
  peers := []
  fuses := []
  repairs := []
  errors := []
  flash := []
  firmware := []
  reports := []

/-- The machine right after reset (R491 stage 1, and the Reset column of every register table). No group
holds a slot, so no instruction runs until a launch has placed one (log entry 2).
[log 3 DESIGN CHOICE, 6 DESIGN CHOICE] -/
def State.reset : State where
  g := Group.reset
  others := []
  saved := []
  pm := PhysMem.reset
  sp := ⟨[], [], [], []⟩
  xl := ⟨[], [], [], [], [], [], []⟩
  ra := ⟨[], [], [], [], []⟩
  chains := []
  futs := []
  sent := []
  eng := ⟨[], [], 0, [], [], [], [], []⟩
  cores := []
  served := []
  seqServed := []
  passed := []
  teams := []
  clusters := []
  channels := []
  posts := []
  granules := []
  launches := []
  nextLaunch := 0
  io := Io.reset
  cycle := 0
  clock := 0
  freeCtr := 0
  inputs := []
  msg := {}
  stalled := false
  barred := false
  hostReads := []
  snoops := []
  waiting := []
  answer := none

end Sys2Proof.Machine
end

