-- ==== Sys2Proof/Machine/Table.lean ====
section
/-!
DEFINITION. Operations on tables (keys strictly rising) and on lists of records, and free orders.
-/

namespace Sys2Proof.Machine

/-- The value listed under `k`. -/
def tabGet? {α : Type} (t : Table α) (k : Nat) : Option α :=
  match t with
  | [] => none
  | (k', v) :: r => if k' = k then some v else tabGet? r k

/-- The value under `k`, or `d` when none is listed. -/
def tabGet {α : Type} (t : Table α) (k : Nat) (d : α) : α := (tabGet? t k).getD d

/-- `t` with `v` under `k`. -/
def tabPut {α : Type} (t : Table α) (k : Nat) (v : α) : Table α :=
  match t with
  | [] => [(k, v)]
  | (k', v') :: r =>
    if k < k' then (k, v) :: (k', v') :: r
    else if k = k' then (k, v) :: r
    else (k', v') :: tabPut r k v

/-- `t` with nothing under `k`. -/
def tabDel {α : Type} (t : Table α) (k : Nat) : Table α :=
  match t with
  | [] => []
  | (k', v) :: r => if k = k' then r else (k', v) :: tabDel r k

/-- `t` with `v` under `k`, where the default `d` is never listed. -/
def tabSet {α : Type} [DecidableEq α] (t : Table α) (k : Nat) (v d : α) : Table α :=
  if v = d then tabDel t k else tabPut t k v

/-- `t` with the entries whose key satisfies `p` removed. -/
def tabDrop {α : Type} (t : Table α) (p : Nat → Bool) : Table α := t.filter (fun kv => !p kv.1)

/-- `t` with every pair of `ws` written, in order. -/
def tabPutAll {α : Type} (t : Table α) (ws : List (Nat × α)) : Table α :=
  ws.foldl (fun t w => tabPut t w.1 w.2) t

/-- Keys strictly rising. -/
def tabWf {α : Type} : Table α → Bool
  | [] => true
  | [_] => true
  | a :: b :: r => decide (a.1 < b.1) && tabWf (b :: r)

/-- A sorted list of numbers with `k` in it. -/
def setAdd (l : List Nat) (k : Nat) : List Nat :=
  match l with
  | [] => [k]
  | a :: r => if k < a then k :: a :: r else if k = a then a :: r else a :: setAdd r k

/-- A list of numbers with `k` taken out. -/
def setDel (l : List Nat) (k : Nat) : List Nat := l.filter (· != k)

/-- The numbers from `a` up to, not including, `b` (R11 with `b` one past the end). -/
def range (a b : Nat) : List Nat := (List.range (b - a)).map (a + ·)

/-- The `n`-th element of a list taken out of it. -/
def takeNth {α : Type} (l : List α) (n : Nat) : Option (α × List α) :=
  match l, n with
  | [], _ => none
  | a :: r, 0 => some (a, r)
  | a :: r, n + 1 => (takeNth r n).map (fun p => (p.1, a :: p.2))

/-- `l` in an order that the device chooses (R187, R188, R272): `n` names the choice. [log 54 DESIGN CHOICE] -/
def freeOrder {α : Type} (n : Nat) (l : List α) : List α :=
  go l.length l n
where
  go (fuel : Nat) (l : List α) (n : Nat) : List α :=
    match fuel with
    | 0 => l
    | fuel + 1 =>
      match l with
      | [] => []
      | [a] => [a]
      | _ =>
        match takeNth l (Config.choice n % l.length) with
        | none => l
        | some (a, r) => a :: go fuel r (n + 1)

/-- The first element that satisfies `p` replaced by its image. -/
def updFirst {α : Type} (l : List α) (p : α → Bool) (f : α → α) : List α :=
  match l with
  | [] => []
  | a :: r => if p a then f a :: r else a :: updFirst r p f

end Sys2Proof.Machine
end

