-- ==== Sys2Proof/Machine/Flags.lean ====
section
/-!
DEFINITION. Rounding and the exception flags that it and the operations raise (R155 to R168).
-/

namespace Sys2Proof.Machine

/-! ### FFLAGS bits (R156) -/

def fNV : Nat := 16
def fDZ : Nat := 8
def fOF : Nat := 4
def fUF : Nat := 2
def fNX : Nat := 1

/-- The rounding mode of FMODE (R155). -/
def rmOf (fmode : Nat) : Nat := fmode % 8

/-- FMODE.SAT (R155). [log 13 DEDUCED] -/
def satOf (fmode : Nat) : Bool := bit fmode 11

/-- Stochastic rounding governs a rounding into this tag (R155). -/
def srGoverns (fmode tag : Nat) : Bool := rmOf fmode == 5 && isFloat tag && decide (cw tag ≤ 8)

/-- The mode in effect for a target: SR into a wider format or an integer is RNE (R155, R164). -/
def modeFor (fmode tag : Nat) : Nat :=
  if rmOf fmode = 5 ∧ srGoverns fmode tag = false then 0 else rmOf fmode

/-- Whether a magnitude with integer part `k` and remainder `r / den` is rounded up (R158, R161). -/
def roundsUp (mode : Nat) (neg : Bool) (rho k r den : Nat) : Bool :=
  if r = 0 then false
  else match mode with
    | 0 => decide (den < 2 * r) || (decide (2 * r = den) && decide (k % 2 = 1))
    | 1 => false
    | 2 => neg
    | 3 => !neg
    | 4 => decide (den ≤ 2 * r)
    | _ => decide (2 ^ 16 ≤ r * 2 ^ 16 / den + rho)

/-- n / d × 2^e in units of 2^q, rounded, and whether that was inexact. -/
def roundAt (mode : Nat) (neg : Bool) (rho n d : Nat) (e q : Int) : Nat × Bool :=
  let num := n * pow2 (e - q)
  let den := d * pow2 (q - e)
  let k := num / den
  let r := num % den
  (if roundsUp mode neg rho k r den then k + 1 else k, decide (r ≠ 0))

/-- floor(log2(n / d)) for n, d > 0. -/
def log2Quot (n d : Nat) : Int :=
  let l : Int := (Nat.log2 n : Int) - Nat.log2 d
  if n * pow2 (-l) < d * pow2 l then l - 1 else l

/-- The overflow result of R159. [log 13 DEDUCED] -/
def overflowPat (f : Fmt) (tag mode : Nat) (sat neg : Bool) : Nat :=
  let toMax := mode == 1 || (mode == 2 && !neg) || (mode == 3 && neg)
    || f.kind == .finite || (sat && decide (cw tag ≤ 8))
  if toMax then f.signPat neg + f.maxPat
  else if f.kind = .ieee then f.signPat neg + f.infPat
  else f.nanPat

/-- `round_to` into a float tag that is neither MX nor e8m0, mode and switches explicit: the pattern and
the flags (R158 to R161). -/
def roundFmt (tag mode : Nat) (sat fz : Bool) (rho : Nat) (x : Ex) : Nat × Nat :=
  let f := fmtOf tag
  match x with
  | .nan s => if f.kind = .finite then (0, fNV) else (f.nanPat, if s then fNV else 0)
  | .inf s =>
    match f.kind with
    | .ieee => (f.signPat s + f.infPat, 0)
    | .e4m3 => (if sat then f.signPat s + f.maxPat else f.nanPat, fNV)
    | .finite => (f.signPat s + f.maxPat, fNV)
  | .num s n d e =>
    if n = 0 then (f.signPat s, 0)
    else
      let l := log2Quot n d + e
      let be : Int := l + f.bias
      let (k, ix) := roundAt mode s rho n d e (l - f.mb)
      if 1 ≤ be then
        let pat := be.toNat * 2 ^ f.mb + k - 2 ^ f.mb
        if f.maxPat < pat then (overflowPat f tag mode sat s, fOF ||| fNX)
        else (f.signPat s + pat, if ix then fNX else 0)
      else if be = 0 ∧ k = 2 ^ (f.mb + 1) then (f.signPat s + 2 ^ f.mb, fNX)
      else if fz then (f.signPat s, fNX ||| fUF)
      else
        let (k2, ix2) := roundAt mode s rho n d e (1 - (f.bias : Int) - f.mb)
        (f.signPat s + k2, if ix2 then fNX ||| fUF else 0)

/-- Conversion into e8m0 (R165). [log 14 DEDUCED] -/
def roundE8m0 (mode : Nat) (x : Ex) : Nat × Nat :=
  match x with
  | .num s n d e =>
    if s ∨ n = 0 then (0xFF, fNV)
    else
      let l := log2Quot n d
      let exact := n * pow2 (-l) == d * pow2 l
      -- the midpoint of 2^l and 2^(l+1) is 3 × 2^(l-1)
      let up := !exact && (mode == 3 ||
        (mode != 1 && mode != 2 && decide (3 * d * pow2 l ≤ 2 * n * pow2 (-l))))
      let ex : Int := l + e + (if up then 1 else 0)
      if 127 < ex then (254, fOF ||| fNX)
      else if ex < -127 then (0, fUF ||| fNX)
      else ((ex + 127).toNat, if exact then 0 else fNX)
  | _ => (0xFF, fNV)

/-- Float to integer (R164), SR taken as RNE. -/
def roundInt (tag mode : Nat) (x : Ex) : Nat × Nat :=
  match x with
  | .nan _ => (0, fNV)
  | .inf s => (wrapN (if s then intMin tag else intMax tag) (cw tag), fNV)
  | .num s n d e =>
    if n ≠ 0 ∧ 80 < log2Quot n d + e then (wrapN (if s then intMin tag else intMax tag) (cw tag), fNV)
    else
      let (k, ix) := roundAt (if mode = 5 then 0 else mode) s 0 n d e 0
      let z : Int := if s then -(k : Int) else k
      if z < intMin tag then (wrapN (intMin tag) (cw tag), fNV)
      else if intMax tag < z then (wrapN (intMax tag) (cw tag), fNV)
      else (wrapN z (cw tag), if ix then fNX else 0)

/-- `round_to` of a value into any float tag that is not MX, mode and SAT explicit. -/
def roundMode (tag mode : Nat) (sat : Bool) (fmode rho : Nat) (x : Ex) : Nat × Nat :=
  if tag = tagE8m0 then roundE8m0 mode x
  else roundFmt tag mode sat (flushes fmode tag) rho x

/-- `round_to` under FMODE with `rho` the LFSR bits for SR (R158, R161). [log 13 DEDUCED] -/
def roundTo (fmode tag rho : Nat) (x : Ex) : Nat × Nat :=
  roundMode tag (modeFor fmode tag) (satOf fmode) fmode rho x

/-- `round_to` for a combination of two partial results: RNE under SR (R155). -/
def roundComb (fmode tag : Nat) (x : Ex) : Nat × Nat :=
  roundMode tag (if rmOf fmode = 5 then 0 else rmOf fmode) (satOf fmode) fmode 0 x

/-! ### Exact arithmetic (R152, R158) -/

def nvIf (b : Bool) : Nat := if b then fNV else 0

/-- a + b exactly; `rdn` gives an exact zero sum its sign (R158). -/
def exAdd (rdn : Bool) (a b : Ex) : Ex × Nat :=
  match a, b with
  | .nan s, y => (.nan false, nvIf (s || y.isSig))
  | x, .nan s => (.nan false, nvIf (s || x.isSig))
  | .inf s, .inf t => if s = t then (.inf s, 0) else (.nan false, fNV)
  | .inf s, _ => (.inf s, 0)
  | _, .inf t => (.inf t, 0)
  | .num s n d e, .num t n' d' e' =>
    if n = 0 ∧ n' = 0 then (.num (if s = t then s else rdn) 0 1 0, 0)
    else if n = 0 then (.num t n' d' e', 0)
    else if n' = 0 then (.num s n d e, 0)
    else
      let em := if e ≤ e' then e else e'
      let p := n * d' * pow2 (e - em)
      let q := n' * d * pow2 (e' - em)
      if s = t then (.num s (p + q) (d * d') em, 0)
      else if p = q then (.num rdn 0 1 0, 0)
      else if q < p then (.num s (p - q) (d * d') em, 0)
      else (.num t (q - p) (d * d') em, 0)

/-- a × b exactly. -/
def exMul (a b : Ex) : Ex × Nat :=
  match a, b with
  | .nan s, y => (.nan false, nvIf (s || y.isSig))
  | x, .nan s => (.nan false, nvIf (s || x.isSig))
  | .inf s, .inf t => (.inf (s != t), 0)
  | .inf s, .num t n _ _ => if n = 0 then (.nan false, fNV) else (.inf (s != t), 0)
  | .num t n _ _, .inf s => if n = 0 then (.nan false, fNV) else (.inf (s != t), 0)
  | .num s n d e, .num t n' d' e' => (.num (s != t) (n * n') (d * d') (e + e'), 0)

/-- a / b exactly (R152, R156). -/
def exDiv (a b : Ex) : Ex × Nat :=
  match a, b with
  | .nan s, y => (.nan false, nvIf (s || y.isSig))
  | x, .nan s => (.nan false, nvIf (s || x.isSig))
  | .inf _, .inf _ => (.nan false, fNV)
  | .inf s, .num t _ _ _ => (.inf (s != t), 0)
  | .num s _ _ _, .inf t => (.num (s != t) 0 1 0, 0)
  | .num s n d e, .num t n' d' e' =>
    if n' = 0 then
      if n = 0 then (.nan false, fNV) else (.inf (s != t), fDZ)
    else (.num (s != t) (n * d') (d * n') (e - e'), 0)

/-- The order used by minimum and maximum: −0 below +0 (R152). -/
def exBelow (a b : Ex) : Bool :=
  match Ex.cmp a b with
  | .lt => true
  | .gt => false
  | .eq => a.neg && !b.neg

/-- Minimum (`lesser`) or maximum (R152, R283). -/
def exMinMax (lesser : Bool) (a b : Ex) : Ex × Nat :=
  let fl := nvIf (a.isSig || b.isSig)
  if a.isNan then (if b.isNan then .nan false else b, fl)
  else if b.isNan then (a, fl)
  else (if exBelow a b = lesser then a else b, fl)

/-! ### The LFSRs (R162) -/

/-- One step. -/
def lfsrStep (s : Nat) : Nat := if s % 2 = 1 then (s / 2) ^^^ 0x80200003 else s / 2

/-- The value that a write of SEED gives share lane `lane`. [log 19 DEDUCED] -/
def lfsrSeed (seed lane : Nat) : Nat :=
  let v := seed ^^^ (lane * 0x9E3779B9 % 2 ^ 32)
  if v = 0 then 1 else v

/-- What a vector instruction has gathered while it rounds: flags and LFSRs, with the FMODE and SEED it
reads, the share lanes of its side, and, for one side of a split group, the place of each of them among
all the group's lanes. -/
structure Rnd where
  fmode : Nat
  seed  : Nat
  lanes : Nat
  keys  : List Nat
  lfsr  : Table Nat
  flags : Nat
  /-- The image is portable: element e steps the LFSR of lane e mod 32 (R480). -/
  port  : Bool
  deriving DecidableEq, Repr

/-- The LFSR of share lane `lane`, and it stepped. -/
def Rnd.step (r : Rnd) (lane : Nat) : Nat × Rnd :=
  let k := r.keys.getD lane lane
  let v := tabGet r.lfsr k (lfsrSeed r.seed k)
  (v % 2 ^ 16, { r with lfsr := tabPut r.lfsr k (lfsrStep v) })

/-- ρ for element `e`, with the lane's LFSR stepped, when SR governs the target (R161). [log 19 DEDUCED] -/
def Rnd.rho (r : Rnd) (tag e : Nat) : Nat × Rnd :=
  if srGoverns r.fmode tag then
    r.step (if r.lanes = 0 then 0 else e % r.lanes)
  else (0, r)

/-- The share lane that the tag places element `e` in decides the LFSR for MX blocks (R123, R161, R480). -/
def Rnd.rhoMx (r : Rnd) (tag e : Nat) : Nat × Rnd :=
  if rmOf r.fmode = 5 then
    r.step (if r.lanes = 0 then 0 else (if isMx tag && !r.port then e / 32 else e) % r.lanes)
  else (0, r)

/-- Flags ORed in. -/
def Rnd.raise (r : Rnd) (fl : Nat) : Rnd := { r with flags := r.flags ||| fl }

/-- A value converted into a non-MX tag for element `e` (R164, R165, R168): `satF` and `satI` are the
saturating choices, `mode` overrides the rounding mode (the RNE forms of VSFU). -/
def Rnd.conv (r : Rnd) (tag e : Nat) (mode : Option Nat) (satF satI : Bool) (v : Val) : Nat × Rnd :=
  if isFloat tag then
    match mode with
    | some m =>
      let (p, fl) := roundMode tag m satF r.fmode 0 v.ex
      (p, r.raise fl)
    | none =>
      let (rho, r) := r.rho tag e
      let (p, fl) := roundMode tag (modeFor r.fmode tag) satF r.fmode rho v.ex
      (p, r.raise fl)
  else
    match v with
    | .int z =>
      if satI then
        (wrapN (if z < intMin tag then intMin tag else if intMax tag < z then intMax tag else z) (cw tag), r)
      else (wrapN z (cw tag), r)
    | .flt x =>
      let (p, fl) := roundInt tag (mode.getD (rmOf r.fmode)) x
      (p, r.raise fl)

/-! ### MX blocks (R166) -/

/-- Largest exponent of an MX tag's element format. -/
def mxEmax (tag : Nat) : Nat :=
  match tag with
  | 0x13 => 8
  | 0x14 => 15
  | 0x15 => 4
  | 0x16 => 2
  | 0x17 => 2
  | _ => 0

/-- The larger magnitude of two values that are not NaN. -/
def exMaxMag (a b : Ex) : Ex := if Ex.cmp (a.withNeg false) (b.withNeg false) = .lt then b else a

/-- One element of an MX block with scale exponent `k`. -/
def Rnd.mxElement (r : Rnd) (tag e : Nat) (k : Int) (x : Ex) : Nat × Rnd :=
  match x with
  | .num s n d ex =>
    let (rho, r) := r.rhoMx tag e
    if tag = 0x18 then
      if n = 0 then (0, r)
      else
        let (m, ix) := roundAt (rmOf r.fmode) s rho n d (ex + 6 - k) 0
        let z : Int := if s then -(m : Int) else m
        if z < -128 then (0x80, r.raise (fOF ||| fNX))
        else if 127 < z then (0x7F, r.raise (fOF ||| fNX))
        else (wrapN z 8, r.raise (if ix then fNX else 0))
    else
      let t := mxElem tag
      let (p, fl) := roundFmt t (rmOf r.fmode) true (flushes r.fmode t) rho (.num s n d (ex - k))
      (p, r.raise fl)
  | _ => (0, r)

/-- A block formed from its active elements: the scale and the elements' patterns (R166). -/
def Rnd.mxBlock (r : Rnd) (tag : Nat) (xs : List (Nat × Ex)) : Nat × List (Nat × Nat) × Rnd :=
  let amax := xs.foldl (fun a p => exMaxMag a p.2) (.num false 0 1 0)
  if xs.any (fun p => p.2.isNan) || amax.isInf then (0xFF, xs.map (fun p => (p.1, 0)), r.raise fNV)
  else
    match amax with
    | .num _ n d e =>
      if n = 0 then (0, xs.map (fun p => (p.1, 0)), r)
      else
        let k0 : Int := log2Quot n d + e - mxEmax tag
        let k := if k0 < -127 then -127 else if 127 < k0 then 127 else k0
        let (els, r) := xs.foldl (fun (acc : List (Nat × Nat) × Rnd) p =>
          let (q, r) := acc.2.mxElement tag p.1 k p.2
          (acc.1 ++ [(p.1, q)], r)) ([], r)
        ((k + 127).toNat, els, r)
    | _ => (0xFF, [], r)

end Sys2Proof.Machine
end

