-- ==== Sys2Proof/Machine/Mem.lean ====
section
/-!
DEFINITION. Physical memory: the regions of an address, home slices and sets, the lines that the slices
hold, reads and writes at a home slice, atomics, Mill additions and full/empty bits (R29 to R52, R484).
-/

namespace Sys2Proof.Machine

/-! ### The physical address (R29 to R35) -/

/-- The node field of an address (R29). -/
def nodeOf (pa : Nat) : Nat := pa / 2 ^ 43 % 512

/-- The offset field of an address (R29). -/
def offOf (pa : Nat) : Nat := pa % 2 ^ 43

/-- Where an address leads (R30, R60). -/
inductive PaKind where
  | hbm | host | io | hole | noNode
  deriving DecidableEq, Repr

/-- The Krovino port of a remote address (R59). -/
def portOfPa (pa : Nat) : Nat := bits pa 10 7 ^^^ nodeOf pa % 16

/-- The port by which a request to a remote address leaves: its own, or the next in service in ascending order
modulo 16; none while every port is out of service (R59, R489). -/
def livePort (s : State) (pa : Nat) : Option Nat :=
  ((List.range 16).map (fun i => (portOfPa pa + i) % 16)).find? (fun p => (tabGet s.io.ports p Port.reset).up)

/-- The region of R30 that the address falls in, seen from this device. A remote node is reached while it
is present and a Krovino port is in service for it (R59, R60, R489). -/
def paKind (s : State) (pa : Nat) : PaKind :=
  let here := nodeOf pa == s.io.nodeid
  let off := offOf pa
  if !here && !(s.io.peers.contains (nodeOf pa) && (livePort s pa).isSome) then .noNode
  else if off < Config.hbmBytes then .hbm
  else if decide (Config.ioBase ≤ off) then .io
  else if here && decide (Config.hostBase ≤ off) && decide (off < 0x60000000000) then .host
  else .hole

/-- The offset that the folds take: the window offset for the host window (R35). -/
def foldOff (pa : Nat) : Nat :=
  let off := offOf pa
  if Config.hostBase ≤ off ∧ off < 0x60000000000 then off - Config.hostBase else off

/-- The stack fold of R33. -/
def stackOf (pa : Nat) : Nat :=
  let p := foldOff pa
  bits p 15 12 ^^^ bits p 19 16 ^^^ bits p 23 20 ^^^ bits p 27 24 ^^^ bits p 31 28 ^^^ bits p 35 32
    ^^^ bits p 39 36 ^^^ bits p 42 40

/-- The stack-local offset (R33). -/
def stackLocal (pa : Nat) : Nat := bits (offOf pa) 39 16 * 2 ^ 12 + bits (offOf pa) 11 0

/-- The pseudo-channel of a stack that holds an address, before any substitution (R33, R34). -/
def pseudoChannelOf (pa : Nat) : Nat := bits (stackLocal pa) 13 8 ^^^ bits (stackLocal pa) 19 14

/-- The home slice of a line (R35). -/
def sliceOf (pa : Nat) : Nat :=
  let p := foldOff pa
  (stackOf pa / 2) * 32 + (bits p 11 7 ^^^ bits p 20 16 ^^^ bits p 25 21 ^^^ bits p 30 26 ^^^ bits p 35 31
    ^^^ bits p 40 36 ^^^ bits p 42 41)

/-- The set of a line within its slice (R35). -/
def setOf (pa : Nat) : Nat := (bits (foldOff pa) 42 16 * 2 + stackOf pa % 2) % 768

/-- Two lines compete for the ways of one set (R35, R38). -/
def sameSet (pa pb : Nat) : Bool :=
  nodeOf pa == nodeOf pb && sliceOf pa == sliceOf pb && setOf pa == setOf pb

/-- The line of an address. -/
def lineOf (pa : Nat) : Nat := pa / 128

/-! ### The canonical form -/

/-- The device's memory. -/
abbrev Memory := PhysMem

/-- A sorted list of numbers, none twice. -/
def rising : List Nat → Bool
  | [] => true
  | [_] => true
  | a :: b :: r => decide (a < b) && rising (b :: r)

/-- The canonical form: addresses strictly rising in every list, no listed byte equal to what an unlisted address
reads as, no line held twice. -/
def Memory.wf (m : Memory) : Bool :=
  tabWf m.cells && m.cells.all (fun c => c.2 != 0) && tabWf m.dirty && tabWf m.feDirty && tabWf m.waysLost
    && rising m.full && rising m.poisoned && decide ((m.lines.map Line.addr).Nodup)

/-! ### The lines -/

/-- The line that a slice holds, if any, a Spent one included (R39). -/
def PhysMem.line? (m : PhysMem) (l : Nat) : Option Line := m.lines.find? (fun x => x.addr == l)

/-- A line whose data a slice holds. -/
def PhysMem.present (m : PhysMem) (l : Nat) : Bool := m.lines.any (fun x => x.addr == l && x.ration.st != .spent)

/-- One byte as a read finds it: the slice's copy where it is changed, else what lies behind. [log 6 DESIGN CHOICE] -/
def PhysMem.byte (m : PhysMem) (a : Nat) : Byte :=
  match tabGet? m.dirty a with
  | some b => b
  | none => tabGet m.cells a 0

/-- The fe bit of the word at index `w` = address div 8 (R40). -/
def PhysMem.isFull (m : PhysMem) (w : Nat) : Bool :=
  match tabGet? m.feDirty w with
  | some b => b
  | none => m.full.contains w

/-- `n` bytes, little-endian (R6). -/
def PhysMem.word (m : PhysMem) (a : Nat) : Nat → Nat
  | 0 => 0
  | n + 1 => (m.byte a).toNat + 256 * m.word (a + 1) n

/-- The poison state of a line: the slice's bit, or the marker behind (R39). -/
def PhysMem.linePoison (m : PhysMem) (l : Nat) : Bool :=
  match m.lines.find? (fun x => x.addr == l && x.ration.st != .spent) with
  | some x => x.poison
  | none => m.poisoned.contains l

/-- The changed bytes and fe bits of a line moved behind the slice, its poison with them (R38, R39, R40). -/
def PhysMem.writeBack (m : PhysMem) (l : Nat) : PhysMem :=
  let mine := m.dirty.filter (fun kv => kv.1 / 128 == l)
  let fes := m.feDirty.filter (fun kv => kv.1 / 16 == l)
  { m with
    cells := mine.foldl (fun c kv => tabSet c kv.1 kv.2 0) m.cells
    dirty := m.dirty.filter (fun kv => kv.1 / 128 != l)
    full := fes.foldl (fun f kv => if kv.2 then setAdd f kv.1 else setDel f kv.1) m.full
    feDirty := m.feDirty.filter (fun kv => kv.1 / 16 != l)
    poisoned := if m.linePoison l then setAdd m.poisoned l
      else if mine = [] ∧ fes = [] then m.poisoned else setDel m.poisoned l }

/-! ### Older values that a read may still find (R72, R177, R178, R198, R216) -/

/-- The write touches bytes [a, a + n). -/
def Stale.meets (r : Stale) (a n : Nat) : Bool := decide (r.pa < a + n) && decide (a < r.pa + r.n)

/-- Bytes about to be written: no older value is found below them, and words of running code are kept as they are before
the write (R177, R216). -/
def PhysMem.overwritten (m : PhysMem) (a n : Nat) : PhysMem :=
  let word (i : Nat) : List (Nat × Nat × Nat) :=
    (m.watch.filter (fun w => w.1 == (a / 4 + i) / 1024)).map (fun w => (a / 4 + i, w.2, m.word ((a / 4 + i) * 4) 4))
  { m with
    stale := m.stale.filter (fun r => !r.meets a n)
    codeOld := if m.watch = [] then m.codeOld
      else (List.range ((a + n + 3) / 4 - a / 4)).flatMap word ++ m.codeOld }

/-- A write by `f` of bytes [a, a + n), noted when a stream of a group makes it. Of older writes of those bytes only its
own stream's still count. [log 10 DESIGN CHOICE] -/
def PhysMem.noted (m : PhysMem) (src : Option (Nat × Stream)) (a n : Nat) (f : PhysMem → PhysMem) : PhysMem :=
  match src with
  | none => f m
  | some (gid, st) =>
    { f m with stale := ⟨a, n, m.word a n, gid, st, false, false⟩
        :: m.stale.filter (fun r => !(r.fenced && r.shown) && (!r.meets a n || (r.gid == gid && r.stream == st))) }

/-- A value of bytes [a, a + n) with a write taken back. -/
def Stale.undo (r : Stale) (a n v : Nat) : Nat :=
  (List.range n).foldl (fun acc i =>
    acc + 256 ^ i * (if r.pa ≤ a + i ∧ a + i < r.pa + r.n then r.old / 256 ^ (a + i - r.pa) % 256 else v / 256 ^ i % 256)) 0

/-- What a read that may not see the writes `p` finds in bytes that hold `v`: `v`, or what they held before the newest
of those writes, before the newest two, and so on (R177, R178). [log 10 DESIGN CHOICE] -/
def lookBack (s : State) (p : Stale → Bool) (a n v : Nat) : Nat × State :=
  match s.pm.stale.filter (fun r => p r && r.meets a n) with
  | [] => (v, s)
  | rs => ((rs.take (Config.choice s.freeCtr % (rs.length + 1))).foldl (fun v r => r.undo a n v) v,
      { s with freeCtr := s.freeCtr + 1 })

/-- What a launch's fetch of a word of its code finds: the word, or one that it held before a write during the launch
(R216). [log 10 DESIGN CHOICE] -/
def codeBack (s : State) (launch pa v : Nat) : Nat × State :=
  match (s.pm.codeOld.filter (fun c => c.1 == pa / 4 && c.2.1 == launch)).map (fun c => c.2.2) with
  | [] => (v, s)
  | olds => ((v :: olds).getD (Config.choice s.freeCtr % (olds.length + 1)) v, { s with freeCtr := s.freeCtr + 1 })

/-- A launch has ended: its code is watched no more. -/
def PhysMem.unwatch (m : PhysMem) (id : Nat) : PhysMem :=
  { m with watch := m.watch.filter (fun w => w.2 != id), codeOld := m.codeOld.filter (fun c => c.2.1 != id) }

/-- Noted writes changed. -/
def updStale (s : State) (f : Stale → Stale) : State :=
  { s with pm := { s.pm with stale := s.pm.stale.map f } }

/-- The changed bytes and fe bits of a line forgotten (R44). -/
def PhysMem.forget (m : PhysMem) (l : Nat) : PhysMem :=
  { m.overwritten (l * 128) 128 with
    dirty := m.dirty.filter (fun kv => kv.1 / 128 != l)
    feDirty := m.feDirty.filter (fun kv => kv.1 / 16 != l) }

/-- A line taken out of the slice: written back unless Spent (R38, R44). -/
def PhysMem.evict (m : PhysMem) (x : Line) : PhysMem :=
  let m' := if x.ration.st = .spent then m else m.writeBack x.addr
  { m' with lines := m'.lines.filter (fun y => y.addr != x.addr) }

/-- Ways in service of a set: sixteen, and one fewer for each way lost beyond the spare (R38). -/
def PhysMem.ways (m : PhysMem) (pa : Nat) : Nat := 17 - max 1 (tabGet m.waysLost (sliceOf pa * 768 + setOf pa) 0)

/-- The lines held in the set of an address. -/
def PhysMem.setLines (m : PhysMem) (pa : Nat) : List Line := m.lines.filter (fun x => sameSet (x.addr * 128) pa)

/-- One line of the set of an address replaced: a Spent line goes first, the least recently used of them, then any
line without a live ration but the most recently used one; `n` names the device's choice (R38).
[log 11 DESIGN CHOICE] -/
def PhysMem.evictOne (m : PhysMem) (pa n : Nat) : PhysMem :=
  let set := m.setLines pa
  match set.reverse.find? (fun x => x.ration.st == .spent) with
  | some x => m.evict x
  | none =>
    let free := set.filter (fun x => x.ration.st == .none)
    let older := (set.drop 1).filter (fun x => x.ration.st == .none)
    let pool := if older = [] then free else older
    match pool[Config.choice n % pool.length]? with
    | some x => m.evict x
    | none => m

/-- `k` lines of the set of an address replaced, one after another. -/
def PhysMem.evictMany (m : PhysMem) (pa n : Nat) : Nat → PhysMem
  | 0 => m
  | k + 1 => (m.evictOne pa n).evictMany pa n k

/-- Room made in the set of an address, so that one line more fits in the ways in service (R38).
[log 11 DESIGN CHOICE] -/
def PhysMem.makeRoom (m : PhysMem) (pa n : Nat) : PhysMem :=
  m.evictMany pa n ((m.setLines pa).length + 1 - m.ways pa)

/-- A Mill's read-modify-write of a value (R49): rounding mode and flush-to-zero are the issuer's FMODE's, SR
acts as RNE, and no flag is set (R104, R261). [log 15 DEDUCED] -/
def millSum (tag fmode old addend : Nat) : Nat :=
  if isFloat tag then
    let rm := rmOf fmode
    (roundMode tag (if rm = 5 then 0 else rm) false fmode 0
      (exAdd (rm == 2) (floatSrc fmode tag old) (floatSrc fmode tag addend)).1).1
  else (old + addend) % 2 ^ cw tag

/-- Bytes changed in the slice's copy. -/
def PhysMem.putBytes (m : PhysMem) (a n val : Nat) : PhysMem :=
  let ws := (List.range n).map (fun i => (a + i, BitVec.ofNat 8 (val / 256 ^ i)))
  { m.overwritten a n with dirty := tabPutAll m.dirty ws }

/-- A line's record replaced. -/
def PhysMem.setLine (m : PhysMem) (l : Nat) (f : Line → Line) : PhysMem :=
  { m with lines := updFirst m.lines (fun x => x.addr == l) f }

/-- One Mill addition performed at a present line (R49); a poisoned addend poisons the line. [log 15 DEDUCED] -/
def PhysMem.mill (m : PhysMem) (a : Addition) : PhysMem :=
  let n := cw a.tag / 8
  let m' := m.putBytes a.pa n (millSum a.tag a.fmode (m.word a.pa n) a.addend)
  if a.poison then m'.setLine (lineOf a.pa) (fun x => { x with poison := true }) else m'

/-- The addition as an access of its stream (R198). -/
def PhysMem.combine (m : PhysMem) (a : Addition) : PhysMem := m.noted a.src a.pa (cw a.tag / 8) (fun m => m.mill a)

/-- The line brought into its slice and made the most recently used; a Spent line is filled again as an
ordinary one (R38, R44). -/
def PhysMem.fill (m : PhysMem) (l n : Nat) : PhysMem :=
  match m.lines.find? (fun x => x.addr == l) with
  | some x =>
    let x' := if x.ration.st = .spent then ⟨l, m.poisoned.contains l, 0, RationRec.reset⟩ else x
    { m with lines := x' :: m.lines.filter (fun y => y.addr != l) }
  | none =>
    let m' := m.makeRoom (l * 128) n
    { m' with lines := ⟨l, m'.poisoned.contains l, 0, RationRec.reset⟩ :: m'.lines }

/-! ### Host copies (R484, R485) -/

/-- State of a half line in an outside field, the half named by its address div 64 (R39). -/
def halfState (o half : Nat) : Nat := o / 4 ^ (half % 2) % 4

/-- The outside field with the state of a half replaced. -/
def setHalf (o half v : Nat) : Nat := if half % 2 = 0 then o / 4 * 4 + v else v * 4 + o % 4

/-- The host's copy of a half line of this node's HBM4: 0 none, 1 shared, 2 exclusive (R39). [log 26 DESIGN CHOICE] -/
def hostCopy (s : State) (half : Nat) : Nat :=
  if nodeOf (half * 64) = s.io.nodeid ∧ paKind s (half * 64) = .hbm then
    halfState (((s.pm.line? (half / 2)).map Line.outside).getD 0) half
  else 0

/-- The halves among `hs` whose host copies must be given up first: exclusive ones, and before anything but a read
shared ones too (R484). -/
def mustRecall (s : State) (wr : Bool) (hs : List Nat) : List Nat :=
  hs.filter (fun h => hostCopy s h == 2 || (wr && hostCopy s h == 1))

/-- Back-Invalidate snoops sent for half lines: the step waits until each has been answered (R485).
[log 119 DESIGN CHOICE] -/
def takeBack (s : State) (hs : List Nat) : State :=
  { s with barred := s.barred || decide (hs ≠ []), snoops := hs.foldl setAdd s.snoops }

/-- The halves of a line. -/
def bothHalves (l : Nat) : List Nat := [2 * l, 2 * l + 1]

/-- The halves that bytes [a, a + n) of one line touch. -/
def halvesOf (a n : Nat) : List Nat :=
  (bothHalves (lineOf a)).filter (fun h => decide (a < h * 64 + 64) && decide (h * 64 < a + n))

/-- A request waits behind a declaration of its line that waits for room (R37, R45).
[log 38 DEDUCED, 119 DESIGN CHOICE] -/
def behindHeld (s : State) (l : Nat) : State :=
  { s with barred := s.barred || s.ra.held.any (fun h => h.line == l) }

/-- The line present, with the Mill additions that waited for it combined in arrival order; a line that is replaced
for it has its host copies recalled (R37, R38, R50, R484). [log 11 DESIGN CHOICE] -/
def touchLine (s : State) (l : Nat) : State :=
  let m0 := s.pm.fill l s.freeCtr
  let gone := s.pm.lines.filter (fun x => m0.lines.all (fun y => y.addr != x.addr))
  let mine := s.chains.filter (fun a => lineOf a.pa == l)
  let m := mine.foldl PhysMem.combine m0
  let m := if mine ≠ [] ∧ paKind s (l * 128) = .host then m.setLine l (fun x => { x with outside := 15 }) else m
  { takeBack s (mustRecall s true (gone.flatMap (fun x => bothHalves x.addr))) with
    pm := m
    chains := s.chains.filter (fun a => lineOf a.pa != l)
    freeCtr := s.freeCtr + 1 }

/-- A slice holds the line of the host window. -/
def holdsHost (s : State) (l : Nat) : Bool :=
  paKind s (l * 128) == .host && s.pm.lines.any (fun x => x.addr == l && x.outside != 0)

/-- A line taken by an invalidating snoop: written back and given up; a live one keeps its ration state (R484, R485). -/
def PhysMem.snpInv (m : PhysMem) (l : Nat) : PhysMem :=
  match m.line? l with
  | some x => if x.ration.st = .live then (m.writeBack l).setLine l (fun x => { x with outside := 0 }) else m.evict x
  | none => m

/-- A line met by a reading snoop: written back, and held shared (R484, R485). -/
def PhysMem.snpData (m : PhysMem) (l : Nat) : PhysMem := (m.writeBack l).setLine l (fun x => { x with outside := 5 })

/-- The outside field after a device access to bytes [a, a + n): a read ends an exclusive host copy, any
other access ends every host copy of the halves it touches (R484, R485); a host-window line is held shared
by a read and exclusive by a write (R61). -/
def outsideAfter (host wr : Bool) (o a n : Nat) : Nat :=
  if host then (if wr then 15 else if o = 15 then 15 else 5)
  else
    let lo := o % 4
    let hi := o / 4
    let hitLo := decide (a % 128 < 64)
    let hitHi := decide (64 < a % 128 + n)
    let upd (h : Nat) (hit : Bool) : Nat := if hit && (wr || h == 2) then 0 else h
    upd lo hitLo + 4 * upd hi hitHi

/-- A device access to bytes of one line: the line present and its outside field moved on. [log 10 DESIGN CHOICE] -/
def accessLine (s : State) (wr : Bool) (a n : Nat) : State :=
  let s := touchLine s (lineOf a)
  let host := paKind s a == .host
  { behindHeld (takeBack s (mustRecall s wr (halvesOf a n))) (lineOf a) with
    pm := s.pm.setLine (lineOf a) (fun x => { x with outside := outsideAfter host wr x.outside a n }) }

/-- A read at the home slice: the value and whether the line is poisoned. [log 10 DESIGN CHOICE] -/
def sliceRead (s : State) (a n : Nat) : Nat × Bool × State :=
  let s := accessLine s false a n
  (s.pm.word a n, s.pm.linePoison (lineOf a), s)

/-- A write at the home slice, by a stream of a group or by another agent. A write of the whole line clears its poison
(R39). [log 10 DESIGN CHOICE] -/
def sliceWriteBy (s : State) (src : Option (Nat × Stream)) (a n val : Nat) : State :=
  let s := accessLine s true a n
  let m := s.pm.noted src a n (fun m => m.putBytes a n val)
  { s with pm := if a % 128 = 0 ∧ n = 128 then m.setLine (lineOf a) (fun x => { x with poison := false }) else m }

/-- A write at the home slice by an agent that is no stream of a group. -/
def sliceWrite (s : State) (a n val : Nat) : State := sliceWriteBy s none a n val

/-- The fe bit of a word set or cleared in the slice's copy (R40). -/
def setFull (s : State) (a : Nat) (b : Bool) : State :=
  { s with pm := { s.pm with feDirty := tabPut s.pm.feDirty (a / 8) b } }

/-- A line marked poisoned in its slice (R39, R425). -/
def poisonLine (s : State) (l : Nat) : State :=
  { s with pm := s.pm.setLine l (fun x => { x with poison := true }) }

/-- The poison of every line that the bytes `as` of one instruction or unit cover whole is cleared
(R39, R424; log entry 9). [log 9 DEDUCED] -/
def clearCovered (s : State) (as : List Nat) : State :=
  let ls := (as.map (· / 128)).eraseDups
  ls.foldl (fun s l =>
    if (List.range 128).all (fun i => as.contains (l * 128 + i)) then
      { s with pm := s.pm.setLine l (fun x => { x with poison := false }) }
    else s) s

/-! ### Atomics (R176, R236, R237, R260) -/

/-- The value an atomic leaves, from the old value and its operand, both of `w` bits; `c` is the compare
value of cas. -/
def atomNew (op : AtomOp) (w old b c : Nat) : Nat :=
  match op with
  | .swap => b
  | .add => (old + b) % 2 ^ w
  | .and => old &&& b
  | .or => old ||| b
  | .xor => old ^^^ b
  | .min => if toS old w ≤ toS b w then old else b
  | .max => if toS old w ≤ toS b w then b else old
  | .minu => if old ≤ b then old else b
  | .maxu => if old ≤ b then b else old
  | .cas => if old = c then b else old
  | .ld => old
  | .st => b

end Sys2Proof.Machine
end

