-- ==== Sys2Proof/Machine/Ops.lean ====
section
/-!
DEFINITION. Operations that every family shares: groups and their registers, free values, error records,
retirement, waiting, and taking a trap and returning from one (R229, R233, R359, R364, R419 to R422,
R437 to R441).
-/

namespace Sys2Proof.Machine

/-- What a step answers. -/
abbrev Res := Host.Outcome State Fault Refusal

/-! ### Trap causes (R419) -/

def cIllegal : Nat := 0x01
def cTag : Nat := 0x02
def cConvoy : Nat := 0x03
def cMisaligned : Nat := 0x04
def cNotPresent : Nat := 0x05
def cPermission : Nat := 0x06
def cReserved : Nat := 0x07
def cRation : Nat := 0x08
def cRotation : Nat := 0x09
def cPoison : Nat := 0x0A
def cSpDistance : Nat := 0x0B
def cFetchBounds : Nat := 0x0C
def cShared : Nat := 0x0D
def cStream : Nat := 0x0E
def cBarrier : Nat := 0x0F
def cSoftware : Nat := 0x10
def cWatchdog : Nat := 0x11

/-! ### Groups -/

/-- Core index × 16 + slot (R16, R17). -/
def Group.gid (g : Group) : Nat := g.pl.core * 16 + g.pl.slot

/-- The group that holds a slot, the current one included. -/
def findGroup (s : State) (gid : Nat) : Option Group :=
  if s.g.live && s.g.gid == gid then some s.g else s.others.find? (fun g => g.live && g.gid == gid)

/-- All groups that hold a slot. -/
def allGroups (s : State) : List Group := (s.g :: s.others).filter (fun g => g.live)

/-- A change to the group that holds a slot. -/
def updGroup (s : State) (gid : Nat) (f : Group → Group) : State :=
  if s.g.live && s.g.gid == gid then { s with g := f s.g }
  else { s with others := updFirst s.others (fun g => g.live && g.gid == gid) f }

/-- A change to every group that satisfies `p`. -/
def updGroups (s : State) (p : Group → Bool) (f : Group → Group) : State :=
  let f' (g : Group) := if g.live && p g then f g else g
  { s with g := f' s.g, others := s.others.map f' }

/-- `f` run with the group of a slot in the current group's place. -/
def onGroup (s : State) (gid : Nat) (f : State → State) : State :=
  if s.g.live && s.g.gid == gid then f s
  else
    match s.others.findIdx? (fun g => g.live && g.gid == gid) with
    | none => s
    | some i =>
      match s.others[i]? with
      | none => s
      | some g =>
        let s' := f { s with g := g, others := s.others.set i s.g }
        match s'.others[i]? with
        | none => s'
        | some g0 => { s' with g := g0, others := s'.others.set i s'.g }

/-- The die of a core (R16). -/
def dieOf (core : Nat) : Nat := core / 32

/-- A core's own state (R18, R134, R135). -/
def coreOf (s : State) (c : Nat) : Core := tabGet s.cores c Core.reset

/-- A core's own state changed. -/
def setCore (s : State) (c : Nat) (k : Core) : State := { s with cores := tabSet s.cores c k Core.reset }

/-- Sections that a slot owns, ascending (R134). -/
def sectionsOf (k : Core) (slot : Nat) : List Nat :=
  (List.range 8).filter (fun i => k.lanepart.toList[i]? == some (some slot))

/-- Sections that the group owns. -/
def ownedSections (s : State) (g : Group) : List Nat := sectionsOf (coreOf s g.pl.core) g.pl.slot

/-- Steward level (R8, R243). -/
def Group.steward (g : Group) : Bool := g.tr.lev

/-- The team that the group belongs to; none while detached (R350). -/
def teamOf (s : State) (g : Group) : Option Team :=
  if g.pl.det then none else s.teams.find? (fun t => t.core == g.pl.core && t.num == g.pl.team && !t.exited)

/-! ### Scalar and shared registers (R115, R229, R425) -/

/-- x0 reads zero. -/
def getX (s : State) (r : Nat) : Word := if r = 0 then 0 else s.g.x.toList.getD r 0

/-- A write to x0 is discarded; a write of a register ends its poison (R424). -/
def Group.setX (g : Group) (r : Nat) (v : Word) : Group :=
  if r = 0 then g else { g with x := g.x.setIfInBounds r v, xPoison := setDel g.xPoison r }

/-- An x register written. One that an unfinished copy will write is undefined until its batch completes, whatever is
written (R106). [log 57 DEDUCED] -/
def setX (s : State) (r : Nat) (v : Word) : State :=
  if s.g.xPend.contains r then
    { s with g := { (s.g.setX r (Config.freeWord s.freeCtr)) with xHit := setAdd s.g.xHit r }, freeCtr := s.freeCtr + 1 }
  else { s with g := s.g.setX r v }

/-- The lowest poisoned register among the x registers named. -/
def poisonedX (s : State) (rs : List Nat) : Option Nat :=
  (rs.filter (fun r => r != 0 && s.g.xPoison.contains r)).min?

/-- Token `k` of the current group changed. -/
def updToken (s : State) (k : Nat) (f : Token → Token) : State :=
  { s with g := { s.g with tok := s.g.tok.setIfInBounds k (f (s.g.tok.toList.getD k Token.reset)) } }

/-! ### Free values (R2) -/

/-- An undefined 64-bit value. [log 1 DESIGN CHOICE] -/
def freeWord (s : State) : Word × State := (Config.freeWord s.freeCtr, { s with freeCtr := s.freeCtr + 1 })

/-- A seed for undefined register contents. [log 1 DESIGN CHOICE, 20 DESIGN CHOICE] -/
def freeSeed (s : State) : Nat × State := (s.freeCtr, { s with freeCtr := s.freeCtr + 1 })

/-- x registers that become undefined. -/
def undefX (s : State) (r : Nat) : State :=
  let (v, s) := freeWord s
  setX s r v

/-! ### Orders between streams (R179, R184, R185, R191) -/

/-- Writes of the current group's streams `p` ordered before whatever it does later. -/
def orderStreams (s : State) (p : Stream → Bool) : State :=
  updStale s (fun r => if r.gid = s.g.gid ∧ p r.stream then { r with fenced := true } else r)

/-- A release at dev scope or wider makes the writes behind it visible there. [log 10 DESIGN CHOICE] -/
def releaseAt (s : State) (scope : Nat) : State :=
  if 4 ≤ scope then updStale s (fun r => { r with shown := true }) else s

/-- What other agents have written so far is ordered before what the current group does next: an acquire, or the return
of a wait for a batch (R184, R191). -/
def ordersOthers (s : State) : State := { s with g := { s.g with acq := s.clock } }

/-- An acquire of the current group (R184). [log 10 DESIGN CHOICE] -/
def acquired (s : State) : State := ordersOthers (orderStreams s (fun _ => true))

/-- The group of a slot has gone from it: its writes have no stream that could miss them (R181). -/
def dropStale (s : State) (gid : Nat) : State :=
  { s with pm := { s.pm with stale := s.pm.stale.filter (fun r => r.gid != gid) } }

/-! ### Interrupts and records (R86, R87, R437 to R441, R487) -/

/-- A vector raised (R487); a vector that nothing has unmasked is masked (log entry 7).
[log 7 PRESUMED, 114 DESIGN CHOICE] -/
def raiseMsix (s : State) (v : Nat) : State :=
  let m := s.io.msix
  let m := if tabGet m.mask v true || m.fnMask then { m with pending := setAdd m.pending v }
    else { m with sent := m.sent ++ [v] }
  { s with io := { s.io with msix := m } }

/-- The physical address at which the model keeps a byte of host memory: in the host window where the
window reaches it, else above every 52-bit address (R30). -/
def hostPa (s : State) (hpa : Nat) : Nat :=
  if hpa < 2 ^ 41 then s.io.nodeid * 2 ^ 43 + Config.hostBase + hpa else 2 ^ 52 + hpa

/-- 64-bit words written at rising addresses. -/
def writeWords (s : State) (pa : Nat) (ws : List Nat) : State :=
  (ws.zipIdx).foldl (fun s w => sliceWrite s (pa + 8 * w.2) 8 w.1) s

/-- A record for the host fault queue (R87). -/
def hostFaultRecord (s : State) (ws : List Nat) : State :=
  let io := s.io
  let cap := 2 ^ (io.hfqSize + 7)
  if io.hfqEn && decide (io.hfqSize ≤ 11) && decide ((io.hfqProd + 2 ^ 32 - io.hfqCons) % 2 ^ 32 < cap) then
    let s := writeWords s (hostPa s (io.hfqBase + io.hfqProd % cap * 32)) ws
    raiseMsix { s with io := { s.io with hfqProd := (io.hfqProd + 1) % 2 ^ 32 } } 0
  else { s with io := { io with hfqLost := min (io.hfqLost + 1) 0xFFFFFFFF } }

/-- The launch with this id. -/
def findLaunch (s : State) (id : Nat) : Option Launch := s.launches.find? (fun l => l.id == id)

/-- A launch changed. -/
def updLaunch (s : State) (id : Nat) (f : Launch → Launch) : State :=
  { s with launches := updFirst s.launches (fun l => l.id == id) f }

/-- An error queue's base and capacity, when its register is valid (R437). -/
def queueOf (q : Word) : Option (Nat × Nat) :=
  let v := q.toNat
  if bit v 0 && decide (bits v 7 4 ≤ 10) then some (bits v 51 12 * 4096, 2 ^ (bits v 7 4 + 6)) else none

/-- The queue that takes a record that concerns a launch whose ERRQBASE is `q`, and whether it is DEVERRQ (R441). -/
def errQueue (s : State) (q : Word) : Option (Nat × Nat × Bool) :=
  match queueOf q with
  | some (b, c) => some (b, c, false)
  | none => (queueOf s.io.deverrq).map (fun q => (q.1, q.2, true))

/-- The queue that takes a record of a launch, or of no launch (R441). -/
def recordQueue (s : State) (launch : Option Nat) : Option (Nat × Nat × Bool) :=
  errQueue s (((launch.bind (findLaunch s)).map Launch.errq).getD 0)

/-- One error record written to a queue (R438, R439): its kind, cause, core, slot, ASID and body words 2 to 6. A core
number beyond the device stands for the I/O die, which R439 codes 0xFF. -/
def writeRecordTo (s : State) (dest : Option (Nat × Nat × Bool)) (kind cause core slot asid : Nat) (body : List Nat) :
    State :=
  match dest with
  | none => s
  | some (base, cap, dev) =>
    match paKind s base with
    | .hole | .noNode | .io => s
    | _ =>
      let (resv, _, s) := sliceRead s base 8
      let (cons, _, s) := sliceRead s (base + 8) 8
      if (resv + 2 ^ 64 - cons) % 2 ^ 64 < cap then
        let s := sliceWrite s base 8 (resv + 1)
        let w0 := kind * 2 ^ 56 + cause * 2 ^ 48 + core % 256 * 2 ^ 40 + slot % 16 * 2 ^ 36 + asid * 2 ^ 20
        let s := writeWords s (base + 64 + resv % cap * 64)
          ([w0, s.cycle.toNat] ++ (List.range 5).map (fun i => body.getD i 0) ++ [(resv + 1) % 2 ^ 64])
        if dev then raiseMsix s 1 else s
      else
        let (lost, _, s) := sliceRead s (base + 16) 8
        sliceWrite s (base + 16) 8 (min (lost + 1) (2 ^ 64 - 1))

/-- One error record of a launch, or of no launch. [log 117 DEDUCED] -/
def writeRecord (s : State) (launch : Option Nat) (kind cause core slot asid : Nat) (body : List Nat) : State :=
  writeRecordTo s (recordQueue s launch) kind cause core slot asid body

/-- A record of the current group's launch. [log 117 DEDUCED] -/
def recordG (s : State) (kind cause : Nat) (body : List Nat) : State :=
  writeRecord s (some s.g.launch) kind cause s.g.pl.core s.g.pl.slot s.g.asid body

/-- A record of the device itself, from the I/O die (R439, R441). -/
def recordDev (s : State) (kind : Nat) (body : List Nat) : State := writeRecord s none kind 0 0xFF 0 0 body

/-! ### Retirement (R229, R243, R359) -/

/-- One instruction retired: RETIRED, and SPCOUNT at task level. -/
def Group.count (g : Group) : Group :=
  { g with
    retired := g.retired + 1
    spcount := if g.tr.lev then g.spcount else g.spcount + 1 }

/-- The instruction retires and the next word follows; `conv` says that it was convoyable (R209). -/
def retireAs (s : State) (conv : Bool) : State :=
  { s with
    g := { s.g.count with
      pc := s.g.pc + 4
      flow := .seq conv
      waits := Waits.none
      convoyLen := if conv then s.g.convoyLen + 1 else 0 }
    stalled := false }

/-- A control-thread instruction that is not convoyable retires. -/
def retire (s : State) : State := retireAs s false

/-- A convoyable instruction retires. -/
def retireV (s : State) : State := retireAs s true

/-- A taken branch or jump retires and the word at `t` heads a new convoy (R209, R233). -/
def retireTo (s : State) (t : Word) : State :=
  { s with
    g := { s.g.count with pc := t, flow := .jumped, waits := Waits.none, convoyLen := 0 }
    stalled := false }

/-- The instruction waits: nothing of it is performed, and it is tried again. -/
def waitHere (s : State) : State := { s with stalled := true }

/-- Bits [63:57] all equal bit 56 (R62). -/
def canonical (va : Nat) : Bool := va / 2 ^ 56 == 0 || va / 2 ^ 56 == 0xFF

/-- The word at `t` lies within the code extent; a non-canonical address lies outside every extent (R233). -/
def inExtent (g : Group) (t : Nat) : Bool :=
  canonical t && decide (g.codeBase.toNat ≤ t) && decide (t + 4 ≤ g.codeBase.toNat + g.codeLen)

/-! ### Traps (R421, R422) -/

/-- The handler's address, 0 when there is none. -/
def TrapRegs.handler (t : TrapRegs) : Word := t.tvec &&& ~~~3#64

/-- The trap cannot be delivered, and the group is halted (R421). -/
def halts (g : Group) (epc : Word) : Bool :=
  g.tr.handler == 0 || (g.tr.lev && epc == g.tr.handler)

/-- The leave of a group's convoy given back (R409). -/
def dropConvoyLeave (s : State) (gid : Nat) : State :=
  if s.eng.leaves = [] then s
  else { s with eng := { s.eng with
    leaves := s.eng.leaves.filter (fun l => !(l.gid == gid && l.xfer.isNone && l.mat.isNone && l.lease.isNone)) } }

/-- Trap entry (R421). A group that cannot take it is halted: its halt is completed once its engine
operations are (R422). -/
def takeTrap (s : State) (cause : Nat) (val epc : Word) : State :=
  let s := dropConvoyLeave s s.g.gid
  if halts s.g epc then
    { s with g := { s.g with halt := some (cause, val, epc) }, stalled := false }
  else
    { s with
      g := { s.g with
        tr := { s.g.tr with
          plev := s.g.tr.lev
          lev := true
          tcause := cause
          tval := val
          tepc := epc &&& ~~~3#64 }
        pc := s.g.tr.handler
        flow := .jumped
        convoyLen := 0
        waits := Waits.none }
      stalled := false }

/-- A trap at the instruction being executed. -/
def trap (s : State) (cause : Nat) (val : Word) : State := takeTrap s cause val s.g.pc

/-- ILLEGAL_INSTR at the word itself (R217). -/
def trapIllegal (s : State) : State := trap s cIllegal s.g.pc

/-- `k` on the state unless one of the x registers read is poisoned, which is consumed (R425). -/
def readingX (s : State) (rs : List Nat) (k : State → State) : State :=
  match poisonedX s rs with
  | some r => trap s cPoison (BitVec.ofNat 64 (0x20 + r))
  | none => k s

/-- A jump or branch to `t`: the extent is checked at the branch itself (R233). `k` writes the link. -/
def transfer (s : State) (t : Word) (k : State → State) : State :=
  if inExtent s.g t.toNat then retireTo (k s) t else trap s cFetchBounds t

/-- Return from a trap (R364). -/
def trapReturn (s : State) : State :=
  let t := s.g.tr.tepc
  let lev := s.g.tr.plev
  if !lev && !inExtent s.g t.toNat then trap s cFetchBounds t
  else
    let g := s.g.count
    { s with
      g := { g with
        tr := { g.tr with lev := lev, plev := false }
        pc := t
        flow := .jumped
        waits := Waits.none
        arrived := if lev then g.arrived else g.arrived.filter (fun a => a.pc == t) }
      stalled := false }

end Sys2Proof.Machine
end

