-- ==== Sys2Proof/Machine/Xlate.lean ====
section
/-!
DEFINITION. Address translation: walks, translation buffers, permissions, invalidation, fault records
(R62 to R85).
-/

namespace Sys2Proof.Machine

/-- Who makes an access, as a fault record names it (R85) and as the lane bank is chosen (R75). -/
structure Who where
  launch  : Nat
  core    : Nat
  slot    : Nat
  asid    : Nat
  steward : Bool
  /-- Logical lane whose bank is looked in first. -/
  lane    : Option Nat
  elem    : Nat
  carter  : Bool
  probe   : Bool
  indep   : Bool
  /-- The stream of the access (R174). -/
  stream  : Stream
  deriving DecidableEq, Repr

/-- The same request, which finds every byte as it is. -/
def Who.exact (w : Who) : Who := { w with stream := .exact }

/-- The group and stream whose write the request makes. -/
def Who.src (w : Who) : Option (Nat × Stream) :=
  match w.stream with
  | .exact | .engine => none
  | st => some (w.core * 16 + w.slot, st)

/-- The request may miss a write: one that another stream of its group has made, with no order between (R178, R190,
R198). -/
def Who.misses (w : Who) (r : Stale) : Bool :=
  !r.fenced && r.gid == w.core * 16 + w.slot && (match w.stream, r.stream with
    | .scalar, .vector | .scalar, .vp _ => true
    | .vector, .scalar | .vector, .vp _ => true
    | .vp _, .scalar => true
    | .vp a, .vp b => a != b
    | .engine, .scalar => true
    | _, _ => false)

/-- The control thread of the current group. -/
def whoG (s : State) : Who :=
  ⟨s.g.launch, s.g.pl.core, s.g.pl.slot, s.g.asid, s.g.steward, none, 0, false, false, false, .scalar⟩

/-- The vector queue of the current group. -/
def whoV (s : State) : Who := { whoG s with stream := .vector }

/-- What an access does, coded as R85 codes KIND, and what it needs (R70). -/
def kRead : Nat := 0
def kWrite : Nat := 1
def kReadWrite : Nat := 2
def kFetch : Nat := 3
def kDeclare : Nat := 4

/-- A failed translation: cause, level, entry and entry address (R71, R85). -/
structure XFail where
  cause : Nat
  lvl   : Nat
  ent   : Nat
  ea    : Nat
  deriving DecidableEq, Repr

/-! ### Walks (R66 to R72) -/

/-- The leaf's reserved bits (R68). -/
def leafReserved (ent : Nat) : Bool :=
  bits ent 63 60 != 0 || bits ent 54 52 != 0 || bits ent 11 10 != 0 || bits ent 8 6 != 0
    || (bit ent 4 && !bit ent 3)

/-- A present entry that breaks the table of R68. -/
def entryBad (ent lvl gran : Nat) : Bool :=
  let k := bits ent 2 1
  let ptrBad := bits ent 63 52 != 0 || bits ent 11 3 != 0
  if 2 ≤ lvl then k != 0 || ptrBad
  else if lvl = 1 then
    if k = 2 then leafReserved ent || bits ent 20 12 != 0 else k == 3 || ptrBad
  else k != 2 || leafReserved ent || (gran == 16 && bits ent 15 12 != 0)

/-- Ways of a walk cache (R73). -/
def wcWays (lvl : Nat) : Nat :=
  match lvl with
  | 4 => 64
  | 3 => 128
  | 2 => 256
  | _ => 1024

/-- An entry of a walk cache, most recently used first (R73, R75). -/
def wcFill (x : Xlate) (die lvl asid va table gran : Nat) : Xlate :=
  let k := die * 8 + lvl
  let key := bits va 56 (9 * lvl + 12)
  let old := (tabGet x.wc k []).filter (fun e => !(e.asid == asid && e.key == key))
  { x with wc := tabPut x.wc k ((⟨asid, key, table, gran⟩ :: old).take (wcWays lvl)) }

/-- The deepest walk-cache hit, as the walk that continues from it; level 5 when none hits (R71, R76). -/
def wcDeepest (x : Xlate) (core asid va : Nat) : Walk :=
  let hit (lvl : Nat) : Option Walk :=
    ((tabGet x.wc (dieOf core * 8 + lvl) []).find? (fun e => e.asid == asid && e.key == bits va 56 (9 * lvl + 12))).map
      (fun e => ⟨core, asid, va, lvl - 1, e.table, e.gran, []⟩)
  (hit 1 <|> hit 2 <|> hit 3 <|> hit 4).getD ⟨core, asid, va, 5, 0, 12, []⟩

/-- The entry with which a walk begins is used, so it is its walk cache's most recent (R73, R76). -/
def wcUse (x : Xlate) (core asid va : Nat) : Xlate :=
  let w := wcDeepest x core asid va
  if w.lvl = 5 then x
  else
    let k := dieOf core * 8 + (w.lvl + 1)
    let mine (e : Wc) : Bool := e.asid == asid && e.key == bits va 56 (9 * (w.lvl + 1) + 12)
    let l := tabGet x.wc k []
    { x with wc := tabPut x.wc k (l.filter mine ++ l.filter (fun e => !mine e)) }

/-- What one walk read leads to. -/
inductive WalkRes where
  | more (w : Walk)
  | leaf (t : Tlb) (lvl ent ea : Nat)
  | fail (f : XFail)
  deriving DecidableEq, Repr

/-- A record of an access to a hole or to an absent node (R31, R60). [log 22 DEDUCED] -/
def holeRecord (s : State) (w : Who) (pa : Nat) (wr : Bool) : State :=
  let kind := if paKind s pa = .noNode then 0x03 else 0x02
  writeRecord s (some w.launch) kind 0 w.core w.slot w.asid [pa, if wr then 1 else 0]

/-- The entry's 8 bytes, and whether the read failed; a write that is not visible at dev scope may be missed (R72).
[log 22 DEDUCED] -/
def walkMem (s : State) (w : Who) (ea : Nat) : Nat × Bool × State :=
  match paKind s ea with
  | .hole | .noNode => (0, true, holeRecord s w ea false)
  | .io => (0, false, s)
  | _ =>
    let (v, bad, s) := sliceRead s ea 8
    let (v, s) := lookBack s (fun r => !r.shown) ea 8 v
    (v, bad, s)

/-- One read of a walk (R71). [log 22 DEDUCED] -/
def walkRead (s : State) (who : Who) (w : Walk) : WalkRes × State :=
  if w.lvl = 5 then
    let ea := s.io.astbase * 2 ^ 19 + w.asid * 8
    let (ent, bad, s) := walkMem s who ea
    if bad then (.fail ⟨cPoison, 5, ent, ea⟩, s)
    else if bit ent 0 = false then (.fail ⟨cNotPresent, 5, ent, ea⟩, s)
    else if bits ent 63 52 ≠ 0 ∨ bits ent 11 1 ≠ 0 then (.fail ⟨cReserved, 5, ent, ea⟩, s)
    else (.more { w with lvl := 4, tab := bits ent 51 12 * 4096, gran := 12 }, s)
  else
    let lo := if 1 ≤ w.lvl then 9 * w.lvl + 12 else w.gran
    let ea := w.tab + bits w.va (9 * w.lvl + 20) lo * 8
    let (ent, bad, s) := walkMem s who ea
    if bad then (.fail ⟨cPoison, w.lvl, ent, ea⟩, s)
    else if bit ent 0 = false then (.fail ⟨cNotPresent, w.lvl, ent, ea⟩, s)
    else if entryBad ent w.lvl w.gran then (.fail ⟨cReserved, w.lvl, ent, ea⟩, s)
    else if bits ent 2 1 = 2 then
      if bit ent 55 then
        if bits ent (lo + 3) lo = bits w.va (lo + 3) lo then
          let c := lo + 4
          (.leaf ⟨w.asid, c, bits w.va 56 c, bits ent 51 c * 2 ^ c, bits ent 9 3, true⟩ w.lvl ent ea, s)
        else (.fail ⟨cReserved, w.lvl, ent, ea⟩, s)
      else (.leaf ⟨w.asid, lo, bits w.va 56 lo, bits ent 51 lo * 2 ^ lo, bits ent 9 3, false⟩ w.lvl ent ea, s)
    else
      let tab := bits ent 51 12 * 4096
      let gran := if bits ent 2 1 = 1 then 16 else w.gran
      let s := { s with xl := wcFill s.xl (dieOf w.core) w.lvl w.asid w.va tab gran }
      (.more { w with lvl := w.lvl - 1, tab := tab, gran := gran }, s)

/-- A walk to its end: at most six reads. -/
def walkAll (s : State) (who : Who) (w : Walk) : Nat → WalkRes × State
  | 0 => (.fail ⟨cReserved, 0, 0, 0⟩, s)
  | n + 1 =>
    match walkRead s who w with
    | (.more w', s') => walkAll s' who w' n
    | r => r

/-! ### Walkers (R77) -/

/-- A walk of a die for an address space and page. -/
def isWalk (w : Walk) (die asid va : Nat) : Bool :=
  dieOf w.core == die && w.asid == asid && bits w.va 56 12 == bits va 56 12

/-- No walker is free for a core: 512 walks run on its die, or 64 of its own. -/
def walkersFull (s : State) (core : Nat) : Bool :=
  decide (512 ≤ (s.xl.walks.filter (fun w => dieOf w.core == dieOf core)).length)
    || decide (64 ≤ (s.xl.walks.filter (fun w => w.core == core)).length)

/-- A freed walker goes to the next core of its die in ascending index after the one last served that has a miss
waiting, and to that core's oldest one. -/
def serveWalkers (s : State) (die : Nat) : State :=
  let last := tabGet s.xl.served die (32 * die + 31)
  let next := ((List.range 32).map (fun i => 32 * die + (last + 1 + i) % 32)).find? (fun c =>
    s.xl.queue.any (fun q => q.1 == c) && !walkersFull s c)
  match next.bind (fun c => s.xl.queue.find? (fun q => q.1 == c)) with
  | some q =>
    let w := wcDeepest s.xl q.1 q.2.1 q.2.2
    { s with xl := { wcUse s.xl q.1 q.2.1 q.2.2 with
      walks := s.xl.walks ++ [{ w with joined := [q.1] }]
      queue := s.xl.queue.erase q
      served := tabPut s.xl.served die q.1 } }
  | none => s

/-- A walk has ended: no command waits for it, and its walker is free. -/
def endWalk (s : State) (die asid va : Nat) : State :=
  serveWalkers { s with
    xl := { s.xl with walks := s.xl.walks.filter (fun w => !isWalk w die asid va) }
    io := { s.io with xinv := s.io.xinv.map (fun c =>
      { c with before := c.before.filter (· != (die, asid, bits va 56 12)) }) } } die

/-! ### Buffers (R73 to R75) -/

/-- The size exponents of R73. -/
def tlbSizes : List Nat := [12, 16, 20, 21, 25]

/-- Core TLB and die TLB sets of an address (R74). -/
def coreSet (asid va c : Nat) : Nat := bits va (c + 7) c ^^^ asid % 256
def dieSet (asid va c : Nat) : Nat := bits va (c + 10) c ^^^ asid % 2048

/-- The entry translates the address. -/
def Tlb.hits (t : Tlb) (asid va : Nat) : Bool := t.asid == asid && t.tag == bits va 56 t.c

/-- An entry at the head of its set, the least recently used one of a full set replaced. [log 11 DESIGN CHOICE] -/
def tlbInsert (l : List Tlb) (t : Tlb) (ways : Nat) : List Tlb :=
  (t :: l.filter (fun e => !(e.asid == t.asid && e.c == t.c && e.tag == t.tag))).take ways

def fillBank (x : Xlate) (core lane : Nat) (t : Tlb) : Xlate :=
  let k := core * 64 + lane
  { x with banks := tabPut x.banks k (tlbInsert (tabGet x.banks k []) t 16) }

def fillCore (x : Xlate) (core va : Nat) (t : Tlb) : Xlate :=
  let k := core * 256 + coreSet t.asid va t.c
  { x with ctlb := tabPut x.ctlb k (tlbInsert (tabGet x.ctlb k []) t 8) }

def fillDie (x : Xlate) (die va : Nat) (t : Tlb) : Xlate :=
  let k := die * 2048 + dieSet t.asid va t.c
  { x with dtlb := tabPut x.dtlb k (tlbInsert (tabGet x.dtlb k []) t 16) }

/-- One of the matching entries; the device may use any (R74). [log 11 DESIGN CHOICE] -/
def pick (n : Nat) (l : List Tlb) : Option Tlb :=
  match l with
  | [] => none
  | [t] => some t
  | l => l[Config.choice n % l.length]?

def lookBank (x : Xlate) (n core lane asid va : Nat) : Option Tlb :=
  pick n ((tabGet x.banks (core * 64 + lane) []).filter (fun t => t.hits asid va))

def lookCore (x : Xlate) (n core asid va : Nat) : Option Tlb :=
  pick n (tlbSizes.flatMap (fun c =>
    (tabGet x.ctlb (core * 256 + coreSet asid va c) []).filter (fun t => t.c == c && t.hits asid va)))

def lookDie (x : Xlate) (n die asid va : Nat) : Option Tlb :=
  pick n (tlbSizes.flatMap (fun c =>
    (tabGet x.dtlb (die * 2048 + dieSet asid va c) []).filter (fun t => t.c == c && t.hits asid va)))

/-- The record of a failed translation, in an error queue and the host fault queue (R85). -/
def xfaultRecordTo (s : State) (dest : Option (Nat × Nat × Bool)) (w : Who) (kind va : Nat) (f : XFail) : State :=
  let b (x : Bool) (n : Nat) : Nat := if x then 2 ^ n else 0
  let ws := [va % 2 ^ 57,
    w.asid * 2 ^ 48 + w.core % 256 * 2 ^ 40 + w.slot % 16 * 2 ^ 36 + w.elem % 2 ^ 18 * 2 ^ 18 + f.lvl * 2 ^ 15 + kind * 2 ^ 12
      + b w.carter 11 + b w.steward 10 + b w.probe 9 + b w.indep 8 + f.cause,
    f.ent, f.ea]
  hostFaultRecord (writeRecordTo s dest 0x01 f.cause w.core w.slot w.asid ws) ws

/-- The record of a failed translation, in the context's error queue and the host fault queue (R85).
[log 117 DEDUCED] -/
def xfaultRecord (s : State) (w : Who) (kind va : Nat) (f : XFail) : State :=
  xfaultRecordTo s (recordQueue s (some w.launch)) w kind va f

/-- A walk has failed: the accesses of the cores that joined it fail, each with its record (R77). -/
def failJoined (s : State) (who : Who) (va : Nat) (f : XFail) (cores : List Nat) : State :=
  cores.foldl (fun s c => xfaultRecord s { who with core := c, elem := 0 } kRead va f) s

/-- A miss walks: it joins the walk in progress for its page and takes its result, or begins one of its own; with no
walker free it waits, and is not performed (R76, R77). [log 122 DESIGN CHOICE] -/
def missWalk (s : State) (w : Who) (va : Nat) : WalkRes × State :=
  let die := dieOf w.core
  match s.xl.walks.find? (fun k => isWalk k die w.asid va) with
  | some k =>
    match walkAll s w k 6 with
    | (.fail f, s) => (.fail f, endWalk (failJoined s w va f (k.joined.filter (· != w.core))) die w.asid va)
    | (r, s) => (r, endWalk s die w.asid va)
  | none =>
    walkAll { s with xl := wcUse s.xl w.core w.asid va, barred := s.barred || walkersFull s w.core } w
      (wcDeepest s.xl w.core w.asid va) 6

/-- The translation of a canonical address through the buffers or a walk (R75), with the leaf read when a
walk gave it. -/
def lookup (s : State) (w : Who) (va : Nat) : Except XFail (Tlb × Option (Nat × Nat × Nat)) × State :=
  let die := dieOf w.core
  let bank (s : State) (t : Tlb) : State :=
    match w.lane with
    | some l => { s with xl := fillBank s.xl w.core l t }
    | none => s
  let core (s : State) (t : Tlb) : State := { s with xl := fillCore s.xl w.core va t }
  match w.lane.bind (fun l => lookBank s.xl s.freeCtr w.core l w.asid va) with
  | some t => (.ok (t, none), bank s t)
  | none =>
    match lookCore s.xl s.freeCtr w.core w.asid va with
    | some t => (.ok (t, none), bank (core s t) t)
    | none =>
      match lookDie s.xl s.freeCtr die w.asid va with
      | some t => (.ok (t, none), bank (core { s with xl := fillDie s.xl die va t } t) t)
      | none =>
        match missWalk s w va with
        | (.leaf t lvl ent ea, s) =>
          (.ok (t, some (lvl, ent, ea)), bank (core { s with xl := fillDie s.xl die va t } t) t)
        | (.fail f, s) => (.error f, s)
        | (.more _, s) => (.error ⟨cReserved, 0, 0, 0⟩, s)

/-- The attributes permit the access (R70). -/
def permits (attrs kind : Nat) (steward : Bool) : Bool :=
  let rd := bit attrs 0
  let wr := bit attrs 1
  let ok := match kind with
    | 0 => rd
    | 1 => wr
    | 2 => rd && wr
    | 3 => bit attrs 2
    | _ => wr
  ok && (steward || !bit attrs 6)

/-- The leaf layout that a record shows for a buffered translation (R85). -/
def tlbEntry (t : Tlb) : Nat :=
  1 + 2 * 2 + (t.attrs % 128) * 8 + t.base / 4096 * 4096 + (if t.cont then 2 ^ 55 else 0)

/-- A virtual address translated for an access (R62, R75, R83): a physical address, or the failure. -/
def translate (s : State) (w : Who) (kind va : Nat) : Except XFail Nat × State :=
  if canonical va = false then (.error ⟨cNotPresent, 6, 0, 0⟩, s)
  else
    match lookup s w va with
    | (.error f, s) => (.error f, s)
    | (.ok (t, leaf), s) =>
      if permits t.attrs kind w.steward then (.ok (t.base + va % 2 ^ t.c), s)
      else
        match leaf with
        | some (lvl, ent, ea) => (.error ⟨cPermission, lvl, ent, ea⟩, s)
        | none => (.error ⟨cPermission, if t.c = 21 ∨ t.c = 25 then 1 else 0, tlbEntry t, 0⟩, s)

/-! ### Invalidation (R79) -/

/-- The entry's range contains the address, or its key lies on the address's path. -/
def Tlb.covers (t : Tlb) (asid va : Nat) : Bool := t.asid == asid && t.tag == bits va 56 t.c

/-- Every entry that a command covers removed from every buffer of the device. -/
def invalidate (x : Xlate) (c : InvCmd) : Xlate :=
  let goneT (t : Tlb) : Bool :=
    match c.op with
    | 0 => t.covers c.asid (c.vpn * 4096)
    | 1 => t.asid == c.asid
    | _ => true
  let goneW (lvl : Nat) (e : Wc) : Bool :=
    match c.op with
    | 0 => e.asid == c.asid && e.key == bits (c.vpn * 4096) 56 (9 * lvl + 12)
    | 1 => e.asid == c.asid
    | _ => true
  { x with
    banks := x.banks.map (fun kv => (kv.1, kv.2.filter (fun t => !goneT t)))
    ctlb := x.ctlb.map (fun kv => (kv.1, kv.2.filter (fun t => !goneT t)))
    dtlb := x.dtlb.map (fun kv => (kv.1, kv.2.filter (fun t => !goneT t)))
    wc := x.wc.map (fun kv => (kv.1, kv.2.filter (fun e => !goneW (kv.1 % 8) e))) }

/-- A command covers the page of a walk. -/
def coversWalk (c : InvCmd) (w : Walk) : Bool :=
  match c.op with
  | 0 => w.asid == c.asid && bits w.va 56 12 == c.vpn
  | 1 => w.asid == c.asid
  | _ => true

end Sys2Proof.Machine
end

