-- ==== Sys2Proof/Machine/Io.lean ====
section
/-!
DEFINITION. The register space of the I/O die, and the bus that leads an access by physical address to a
home slice, a register or a refusal (R7, R30 to R32, R60). A write to a register that has an effect of its
own lists that effect's step to happen next.
-/

namespace Sys2Proof.Machine

/-- A step listed to happen after those listed already. -/
def post (s : State) (i : Instr) (m : Msg) : State := { s with inputs := s.inputs ++ [(i, m)] }

/-- Die d is in deferral mode (R32, R58). [log 43 DEDUCED] -/
def deferring (s : State) (die : Nat) : Bool := !bit s.io.pounden die || s.io.testing.contains die

/-- DEFERDIES (R32). -/
def deferDies (s : State) : Nat :=
  (List.range 8).foldl (fun a d => if deferring s d then a + 2 ^ d else a) 0

/-- The host queue q. -/
def hqOf (s : State) (q : Nat) : HostQueue := tabGet s.io.hq q HostQueue.reset
def setHq (s : State) (q : Nat) (h : HostQueue) : State :=
  { s with io := { s.io with hq := tabSet s.io.hq q h HostQueue.reset } }

/-- The front ends that hold a copy of a line give it up and read their tail word again (R36, R396). -/
def giveUpTail (s : State) (l : Nat) : State :=
  { s with io := { s.io with hq := s.io.hq.map (fun h =>
      (h.1, if h.2.en && !h.2.stopped && lineOf (hostPa s (h.2.tail * 8)) == l then { h.2 with reread := true } else h.2)) } }

/-- The release queue r. -/
def rqOf (s : State) (r : Nat) : RelQueue := tabGet s.io.rq r RelQueue.reset
def setRq (s : State) (r : Nat) (q : RelQueue) : State :=
  { s with io := { s.io with rq := tabSet s.io.rq r q RelQueue.reset } }

/-- The Krovino port p. -/
def portOf (s : State) (p : Nat) : Port := tabGet s.io.ports p Port.reset
def setPort (s : State) (p : Nat) (x : Port) : State :=
  { s with io := { s.io with ports := tabSet s.io.ports p x Port.reset } }

def b2n (b : Bool) : Nat := if b then 1 else 0

/-- The value that a register shows; `host` says that the host reads it over CXL.io (R486, R493). -/
def ioRead (s : State) (host : Bool) (off : Nat) : Nat :=
  let io := s.io
  let r := off - Config.ioBase
  if r < 0x10000 then
    match r with
    | 0x40 => io.nodeid * 2 ^ 32 + deferDies s * 256 + io.pounden
    | 0x80 => io.astbase * 2 ^ 19
    | 0x108 => io.xinvacc
    | 0x110 => io.xinvdone
    | 0x118 => io.hfqBase + io.hfqSize * 16 + b2n io.hfqEn
    | 0x120 => io.hfqProd
    | 0x128 => io.hfqCons
    | 0x130 => io.hfqLost
    | 0x200 => 1
    | 0x300 => if host then io.hfutval.toNat else 0
    | 0x310 => if host then io.hfutdone else 0
    | _ => 0
  else if r < 0x11000 then
    let h := hqOf s ((r - 0x10000) / 0x20)
    match (r - 0x10000) % 0x20 with
    | 0x00 => h.base * 128
    | 0x08 => h.tail * 8
    | 0x10 => h.size * 256 + b2n h.err * 2 + b2n h.en
    | 0x18 => h.head
    | _ => 0
  else if 0x20000 ≤ r ∧ r < 0x20400 then
    let q := rqOf s ((r - 0x20000) / 0x40)
    match (r - 0x20000) % 0x40 with
    | 0x00 => q.ring.toNat
    | 0x08 => q.asid * 2 ^ 32 + q.size * 16 + b2n q.en
    | 0x10 => q.hw.toNat
    | 0x18 => q.hbase * 4096 + q.hsize * 16
    | 0x20 => q.prod
    | 0x28 => q.cons
    | 0x30 => q.head
    | 0x38 => q.drop
    | _ => 0
  else if 0x30000 ≤ r ∧ r < 0x30080 then
    match r - 0x30000 with
    | 0x00 => io.clerk.pc * 32
    | 0x08 => io.clerk.errop * 256 + b2n io.clerk.err * 2 + b2n io.clerk.run
    | k => if 0x40 ≤ k ∧ k % 8 = 0 then (io.clerk.cnt.toList.getD ((k - 0x40) / 8) 0).toNat else 0
  else if 0x40000 ≤ r ∧ r < 0x40100 then
    let d := (r - 0x40000) / 0x20
    match (r - 0x40000) % 0x20 with
    | 0x00 => io.pwbudget.toList.getD d 0
    | 0x08 => (io.pwheld.toList.getD d 0).toNat
    | _ => 0
  else if 0x50000 ≤ r ∧ r < 0x50030 then
    match r - 0x50000 with
    | 0x08 => io.ctxacc
    | 0x10 => io.ctxdone
    | 0x18 => io.arenaBase * 2 ^ 16 + io.arenaSize
    | 0x20 => io.deverrq.toNat
    | 0x28 => io.maintWait * 256 + io.maintDie * 16 + b2n io.maintOpen.isSome
    | _ => 0
  else if 0x70000 ≤ r ∧ r < 0x70020 ∧ host then
    match r - 0x70000 with
    | 0x00 => io.bootCode * 256 + io.bootStage
    | 0x08 => io.rcvaddr.toNat
    | 0x10 => io.rcvlen
    | _ => 0
  else if 0x80000 ≤ r ∧ r < 0x80100 ∧ (r - 0x80000) % 0x10 = 0 then
    let p := portOf s ((r - 0x80000) / 0x10)
    p.replays * 256 + p.lanes * 16 + b2n p.up
  else 0

/-- A host queue enabled: HEAD is 0, and the front end reads the tail line anew (R395, R396). -/
def HostQueue.enable (h : HostQueue) : HostQueue :=
  { h with en := true, head := 0, stopped := false, reread := true, seen := 0 }

/-- A write of a host queue's register (R395). -/
def hqWrite (s : State) (q reg val : Nat) : State :=
  let h := hqOf s q
  match reg with
  | 0x00 => if h.en then s else setHq s q { h with base := bits val 51 7 }
  | 0x08 => if h.en then s else setHq s q { h with tail := bits val 51 3 }
  | 0x10 =>
    let h' := { h with
      size := if h.en then h.size else bits val 11 8
      err := h.err && !bit val 1
      en := h.en && bit val 0 }
    setHq s q (if bit val 0 && !h.en then h'.enable else h')
  | _ => s

/-- A release queue enabled: HEAD, PROD and DROP are 0, and no entry is in hand (R415). -/
def RelQueue.enable (q : RelQueue) : RelQueue :=
  { q with en := true, head := 0, prod := 0, drop := 0, entry := none, ready := false }

/-- Release queue `r` enabled: it gives up a wait of the time before (R415). -/
def enableRq (s : State) (r : Nat) (q : RelQueue) : State :=
  { setRq s r q.enable with
    futs := s.futs.filter (fun f => f.who != .queue r)
    sent := s.sent.filter (fun x => x.2 != .fut (.queue r)) }

/-- A write of a release queue's register (R415). -/
def rqWrite (s : State) (r reg val : Nat) : State :=
  let q := rqOf s r
  match reg with
  | 0x00 => setRq s r { q with ring := BitVec.ofNat 64 val }
  | 0x08 =>
    let q' := { q with asid := bits val 47 32, size := bits val 7 4, en := q.en && bit val 0 }
    if bit val 0 && !q.en then enableRq s r q' else setRq s r q'
  | 0x10 => setRq s r { q with hw := BitVec.ofNat 64 val }
  | 0x18 => setRq s r { q with hbase := bits val 51 12, hsize := bits val 7 4 }
  | 0x28 => setRq s r { q with cons := val % 2 ^ 32 }
  | _ => s

/-- A write of a Clerk register (R414). -/
def clerkWrite (s : State) (reg val : Nat) : State :=
  let c := s.io.clerk
  let set (c : Clerk) : State := { s with io := { s.io with clerk := c } }
  match reg with
  | 0x00 => set { c with pc := bits val 51 5, wait := false }
  | 0x08 =>
    set { c with err := c.err && !bit val 1, run := bit val 0, wait := c.wait && c.run }
  | k => if 0x40 ≤ k ∧ k % 8 = 0 then set { c with cnt := c.cnt.setIfInBounds ((k - 0x40) / 8) (BitVec.ofNat 64 val) } else s

/-- A write of 64 bits to a register; `host` says that the host writes it over CXL.io. [log 88 DEDUCED] -/
def ioWrite (s : State) (host : Bool) (off val : Nat) : State :=
  let io := s.io
  let r := off - Config.ioBase
  if r < 0x10000 then
    match r with
    | 0x40 => post s .memcfgWrite { val := val }
    | 0x80 => { s with io := { io with astbase := bits val 51 19 } }
    | 0x100 =>
      match bits val 63 62 with
      | 0 => post s .xinvPage { asid := bits val 61 46, vpn := bits val 45 1 }
      | 1 => post s .xinvAsid { asid := bits val 61 46 }
      | 2 => post s .xinvAll {}
      | _ => post s .xinvIgnored {}
    | 0x118 => { s with io := { io with
        hfqBase := bits val 47 12 * 4096, hfqSize := bits val 7 4, hfqEn := bit val 0 } }
    | 0x128 => { s with io := { io with hfqCons := val % 2 ^ 32 } }
    | 0x130 => { s with io := { io with hfqLost := val % 2 ^ 32 } }
    | 0x300 => if host then { s with io := { io with hfutval := BitVec.ofNat 64 val } } else s
    | 0x308 => if host then post s .hostFutureFill { pa := bits val 51 3 * 8, val := io.hfutval.toNat } else s
    | _ => s
  else if r < 0x11000 then hqWrite s ((r - 0x10000) / 0x20) ((r - 0x10000) % 0x20) val
  else if 0x20000 ≤ r ∧ r < 0x20400 then rqWrite s ((r - 0x20000) / 0x40) ((r - 0x20000) % 0x40) val
  else if 0x30000 ≤ r ∧ r < 0x30080 then clerkWrite s (r - 0x30000) val
  else if 0x40000 ≤ r ∧ r < 0x40100 ∧ (r - 0x40000) % 0x20 = 0 then
    let d := (r - 0x40000) / 0x20
    let u := max 8 (val % 256)
    { s with io := { io with pwbudget := io.pwbudget.setIfInBounds d u, pwset := io.pwset.setIfInBounds d u } }
  else if 0x50000 ≤ r ∧ r < 0x50030 then
    match r - 0x50000 with
    | 0x00 =>
      match bits val 63 62 with
      | 0 => post s .ctxHold { asid := bits val 47 32, wait := bits val 31 0 }
      | 1 => post s .ctxRelease { asid := bits val 47 32 }
      | 2 => post s .ctxKill { asid := bits val 47 32 }
      | _ => post s .ctxIgnored {}
    | 0x18 => { s with io := { io with arenaBase := bits val 51 16, arenaSize := bits val 4 0 } }
    | 0x20 => { s with io := { io with
        deverrq := BitVec.ofNat 64 (bits val 51 12 * 4096 + bits val 7 4 * 16 + bits val 0 0) } }
    | 0x28 =>
      let s := { s with io := { io with maintWait := bits val 39 8, maintDie := bits val 7 4 } }
      if bit val 0 then post s .maintWindowOpen { die := bits val 7 4, wait := bits val 39 8 } else s
    | _ => s
  else if 0x70000 ≤ r ∧ r < 0x70020 ∧ host then
    match r - 0x70000 with
    | 0x08 => { s with io := { io with rcvaddr := BitVec.ofNat 64 val } }
    | 0x10 => { s with io := { io with rcvlen := bits val 24 0 } }
    | 0x18 => if bit val 0 then post { s with freeCtr := s.freeCtr + 1 } .recoveryGo { val := Config.choice s.freeCtr % 7 } else s
    | _ => s
  else if r = 0x71000 ∧ host then post s .attestRequest { val := val }
  else s

/-! ### The bus -/

/-- A read by physical address: value, poison (R31, R60), and the state after. What a register of another node's
device holds, and what a read below steward level finds, is a free value. [log 27 DEDUCED] -/
def busRead (s : State) (w : Who) (pa n : Nat) : Nat × Bool × State :=
  match paKind s pa with
  | .hole | .noNode => (0, true, holeRecord s w pa false)
  | .io =>
    if w.steward && nodeOf pa == s.io.nodeid then
      (ioRead s false (offOf pa / 8 * 8) / 256 ^ (pa % 8) % 256 ^ n, false, s)
    else ((Config.freeWord s.freeCtr).toNat % 256 ^ n, false, { s with freeCtr := s.freeCtr + 1 })
  | _ =>
    let (v, bad, s) := sliceRead s pa n
    let (v, s) := lookBack s w.misses pa n v
    (v, bad, s)

/-- The value that the bytes of a register beside those written keep: as it reads, with 0 in a field that a written 1
clears (HQCTL.ERR, CLKCTL.ERR), so that such a write clears nothing it does not name. [log 121 DESIGN CHOICE] -/
def ioKeep (s : State) (off : Nat) : Nat :=
  let r := off - Config.ioBase
  let v := ioRead s false off
  if (0x10000 ≤ r ∧ r < 0x11000 ∧ r % 0x20 = 0x10) ∨ r = 0x30008 then v - v / 2 % 2 * 2 else v

/-- A write by physical address: a write to a hole is discarded with a record, one to a register of another node
leaves the device, and one of fewer than 8 bytes of a register writes the others back (R7).
[log 27 DEDUCED, 121 DESIGN CHOICE] -/
def busWrite (s : State) (w : Who) (pa n val : Nat) : State :=
  match paKind s pa with
  | .hole | .noNode => holeRecord s w pa true
  | .io =>
    if w.steward && nodeOf pa == s.io.nodeid then
      let off := offOf pa / 8 * 8
      let old := ioKeep s off
      let sh := 256 ^ (pa % 8)
      ioWrite s false off (old - old / sh % 256 ^ n * sh + val % 256 ^ n * sh)
    else s
  | _ => sliceWriteBy s w.src pa n val

/-- An atomic that writes nothing is an access of its kind all the same: it holds a host-window line exclusive and ends
every host copy (R61, R484). -/
def holdForAtomic (s : State) (pa n : Nat) : State :=
  match paKind s pa with
  | .hbm | .host => accessLine s true pa n
  | _ => s

/-- A read-modify-write by physical address (R176): the old value, poison, and the state after. A poisoned
read or a refused one writes nothing (R235, R236). -/
def busAtomic (s : State) (w : Who) (op : AtomOp) (pa n b c : Nat) : Nat × Bool × State :=
  let (old, bad, s) := busRead s w.exact pa n
  if bad then (old, true, s)
  else
    let wr := match op with
      | .ld => false
      | .cas => old == c
      | _ => true
    (old, false, if wr then busWrite s w pa n (atomNew op (8 * n) old b c) else holdForAtomic s pa n)

end Sys2Proof.Machine
end

