-- ==== Sys2Proof/Machine/Operands.lean ====
section
/-!
DEFINITION. Vector operands: shares and sides, where an element lies, reading and writing elements, masks
and poison, tags, capacities and rows, scalar operands, and what a vector word answers
(R115 to R139, R279 to R282, R424, R425).
-/

namespace Sys2Proof.Machine

/-! ### Shares and sides (R122, R138, R139, R433, R479) -/

/-- The group owns access and execute sections (R139). A portable image is never split (R480). -/
def isSplit (s : State) (g : Group) : Bool :=
  let secs := ownedSections s g
  !g.portable && secs.any (fun i => bit g.vc.secrole i) && secs.any (fun i => !bit g.vc.secrole i)

/-- Sections of the side that holds a register: all of them in an unsplit group. -/
def sideSections (s : State) (g : Group) (access : Bool) : List Nat :=
  if isSplit s g then (ownedSections s g).filter (fun i => bit g.vc.secrole i == access)
  else ownedSections s g

/-- Lane count of a side: 32 in a portable image that owns a section, the kept count while stretched. -/
def sideLanes (s : State) (g : Group) (access : Bool) : Nat :=
  if g.portable then (if ownedSections s g = [] then 0 else 32)
  else match g.stretched with
    | some l => l
    | none => 8 * (sideSections s g access).length

/-- Lv of R126. -/
def lanesV (s : State) (g : Group) : Nat := min (sideLanes s g true) (sideLanes s g false)

/-- The side that holds a vector register (R139). -/
def vSide (r : Nat) : Bool := decide (r < 16)

/-- The logical lane of a share lane (R122); a virtual lane beyond the real share is served by lane
λ mod L′ (R433, R481). [log 19 DEDUCED] -/
def logicalLane (s : State) (g : Group) (access : Bool) (lam : Nat) : Nat :=
  let secs := sideSections s g access
  let n := 8 * secs.length
  if n = 0 then 0
  else
    let l := lam % n
    8 * secs.getD (l / 8) 0 + l % 8

/-! ### How a vector word runs -/

/-- The setting of a vector word: on the control thread, for the launched VPs in lockstep, or for one
independent VP (R280, R282, R302). -/
structure VCtx where
  /-- Scalar operand fields name the h snapshot. -/
  inAib  : Bool
  fmode  : Nat
  vl     : Nat
  vstart : Nat
  /-- The VPs that may act; none: every element. -/
  els    : Option (List Nat)
  /-- Number of the independent VP. -/
  indep  : Option Nat
  deriving DecidableEq, Repr

/-- What a vector word answers. -/
inductive VOut where
  /-- It has been performed. -/
  | done (s : State)
  /-- It fails, whole or at an element; `s` holds what was performed, `mem` that VSTART takes the
  element. -/
  | fail (s : State) (cause : Nat) (val : Word) (e : Option Nat) (mem : Bool)
  /-- It waits. -/
  | wait (s : State)
  deriving DecidableEq, Repr

/-- The setting of the control thread's vector instructions. -/
def ctxG (s : State) : VCtx := ⟨false, s.g.vc.fmode, s.g.vc.vl, s.g.vc.vstart, none, none⟩

/-- The setting in which VSTART is taken as 0 (R291). -/
def VCtx.fromZero (c : VCtx) : VCtx := { c with vstart := 0 }

/-- A register number as a trap value. -/
def regVal (r : Nat) : Word := BitVec.ofNat 64 r

/-! ### Mask registers (R115, R123) -/

def mregOf (g : Group) (m : Nat) : MReg := g.m.toList.getD m MReg.reset

/-- Bit `e` of a mask register; m0 gives 1. -/
def maskBit (g : Group) (m e : Nat) : Bool :=
  if m = 0 then true
  else
    let r := mregOf g m
    match tabGet? r.bits e with
    | some b => b
    | none => Config.freeElem r.seed e % 2 == 1

/-- The elements that act: from VSTART to VL − 1, launched, and with the mask bit (R14, R302); an
independent VP's own element (R282). -/
def active (g : Group) (c : VCtx) (m : Nat) : List Nat :=
  match c.indep with
  | some e => if maskBit g m e then [e] else []
  | none =>
    match c.els with
    | none => (range c.vstart c.vl).filter (maskBit g m)
    | some l => l.filter (fun e => decide (c.vstart ≤ e) && decide (e < c.vl) && maskBit g m e)

/-- The elements whose mask bit is looked at. -/
def candidates (c : VCtx) : List Nat :=
  match c.indep with
  | some e => [e]
  | none =>
    match c.els with
    | none => range c.vstart c.vl
    | some l => l.filter (fun e => decide (c.vstart ≤ e) && decide (e < c.vl))

/-! ### Where an element lies (R123, R130, R424) -/

def vregOf (g : Group) (r : Nat) : VReg := g.v.toList.getD r VReg.reset

/-- Rows per lane of a group factor code (R118). -/
def gfRows (gf : Nat) : Nat := 2 ^ (gf % 4)

/-- Share lane, row of the register group, and bit within the row of element `e` (R123). -/
def place (tag lanes e : Nat) : Nat × Nat × Nat :=
  let l := max lanes 1
  let c := cw tag
  let j := e / 32
  let off := if isMx tag then (j / l) * 32 * c + e % 32 * c else (e / l) * c
  (if isMx tag then j % l else e % l, off / 512, off % 512)

/-- Key of a 64-bit granule of a row, or of its sideband (granule 8), at a physical row of a logical lane;
`pass` numbers the rows that a virtual lane beyond the share takes (R424, R433). -/
def granKey (core lane row pass gran : Nat) : Nat :=
  ((((core * 64 + lane) * 1024 + row) * 64 + pass) * 9 + gran) * 2

/-- Key of a 64-bit granule of mask storage. -/
def maskKey (core lane m gran : Nat) : Nat := (((core * 64 + lane) * 8 + m) * 1024 + gran) * 2 + 1

/-- The granule that holds row `k`, bit `b`, of share lane `lam` of a register; `slot` is the register's
number in the row map: 0 to 31 for v, 32 + q for a sparse register. -/
def granOf (s : State) (slot : Nat) (access : Bool) (lam k gran : Nat) : Nat :=
  let n := max 1 (8 * (sideSections s s.g access).length)
  granKey s.g.pl.core (logicalLane s s.g access lam) (tabGet s.g.rowMap (slot * 128 + k) 0) (lam / n) gran

/-- The granules that hold bits of element `e` of vector register `r`, the scale's sideband with them for
an MX tag. -/
def granulesOf (s : State) (r tag e : Nat) : List Nat :=
  let lanes := sideLanes s s.g (vSide r)
  let (lam, k, b) := place tag lanes e
  let own := granOf s r (vSide r) lam k (b / 64)
  if isMx tag then [own, granOf s r (vSide r) lam k 8] else [own]

/-- The element is poisoned (R425). -/
def elemPoison (s : State) (r e : Nat) : Bool :=
  if s.granules = [] then false
  else (granulesOf s r (vregOf s.g r).tag e).any (fun k => s.granules.contains k)

/-- The granule of mask storage that holds bit `e`. -/
def maskGran (s : State) (m e : Nat) : Nat :=
  let access := decide (m < 4)
  let l := max 1 (sideLanes s s.g access)
  let n := max 1 (8 * (sideSections s s.g access).length)
  maskKey s.g.pl.core (logicalLane s s.g access (e % l)) m (e % l / n * 128 + e / l / 64)

/-- A mask bit is poisoned. [log 32 DEDUCED] -/
def maskPoison (s : State) (m e : Nat) : Bool :=
  if m = 0 ∨ s.granules = [] then false else s.granules.contains (maskGran s m e)

/-- Granules after writes of one instruction: a granule that a poisoned element touches is poisoned, a
granule whose 64 bits are all written is clean (R424). Each write is the granule, its bits, and poison. -/
def granuleWrites (g : List Nat) (ws : List (Nat × Nat × Bool)) : List Nat :=
  if g = [] ∧ ws.all (fun w => !w.2.2) then g
  else
    let ks := (ws.map (·.1)).eraseDups
    ks.foldl (fun g k =>
      let mine := ws.filter (fun w => w.1 == k)
      if mine.any (fun w => w.2.2) then setAdd g k
      else if 64 ≤ mine.foldl (fun (a : Nat) w => a + w.2.1) 0 then setDel g k
      else g) g

/-! ### Reading -/

/-- The pattern of element `e`: a listed value, or a free one (R2); bits [7:6] of a six-bit value are ignored
(R121). -/
def VReg.elem (v : VReg) (e : Nat) : Nat :=
  match tabGet? v.elems e with
  | some p => p % 2 ^ vw v.tag
  | none => Config.freeElem v.seed e % 2 ^ vw v.tag

/-- The E8M0 scale of block `j` of an MX register (R124). -/
def VReg.scale (v : VReg) (j : Nat) : Nat :=
  match tabGet? v.scales j with
  | some p => p
  | none => if v.plain then 0 else Config.freeElem v.seed (2 ^ 32 + j) % 256

def elemOf (s : State) (r e : Nat) : Nat := (vregOf s.g r).elem e

/-- An element as an operand (R148 to R154, R158 step 2). -/
def elemVal (s : State) (fmode r e : Nat) : Val :=
  let v := vregOf s.g r
  if isMx v.tag then .flt (mxVal fmode v.tag (v.scale (e / 32)) (v.elem e)) else valOf fmode v.tag (v.elem e)

/-- Integer element extended by its own signedness. -/
def elemInt (s : State) (r e : Nat) : Int :=
  let v := vregOf s.g r
  intVal v.tag (v.elem e)

/-! ### Rows (R130, R131) -/

/-- Rows per lane that a vector register needs, `vl` the length for a tail-dead one (R130). -/
def rowsNeed (tag gf : Nat) (td : Bool) (lanes vl : Nat) : Nat :=
  if tag = 0 then 0
  else if td then
    let l := max lanes 1
    let bitsN := if isMx tag then ceilDiv (ceilDiv vl 32) l * (32 * cw tag) else ceilDiv vl l * cw tag
    min (gfRows gf) (ceilDiv bitsN 512)
  else gfRows gf

/-- The lowest physical row that the row map does not use. -/
def freeRow (m : Table Nat) : Nat :=
  ((List.range 2048).find? (fun r => !(m.any (fun kv => kv.2 == r)))).getD 0

/-- The row map with exactly `need` rows for a slot (R130). -/
def setRows (m : Table Nat) (slot need : Nat) : Table Nat :=
  let m := m.filter (fun kv => !(kv.1 / 128 == slot && decide (need ≤ kv.1 % 128)))
  (List.range need).foldl (fun m k =>
    if (tabGet? m (slot * 128 + k)).isSome then m else tabPut m (slot * 128 + k) (freeRow m)) m

/-- Rows per lane that the group would hold with `need` for a slot. -/
def rowsWith (m : Table Nat) (slot need : Nat) : Nat :=
  (m.filter (fun kv => kv.1 / 128 != slot)).length + need

/-! ### Writing -/

/-- A vector register with its configuration fields set, its elements undefined when `clear` says so.
[log 20 DESIGN CHOICE] -/
def VReg.undef (v : VReg) (seed : Nat) : VReg := { v with seed := seed, elems := [], scales := [], plain := false }

/-- A vector register replaced; one that an unfinished copy will write is undefined until its batch completes, whatever
is written (R106). [log 57 DEDUCED] -/
def setV (s : State) (r : Nat) (v : VReg) : State :=
  let c := s.clock + 1
  if s.g.vPend.contains r then
    { s with
      g := { s.g with v := s.g.v.setIfInBounds r (v.undef s.freeCtr), vSeq := tabPut s.g.vSeq r c }
      clock := c
      freeCtr := s.freeCtr + 1 }
  else { s with g := { s.g with v := s.g.v.setIfInBounds r v, vSeq := tabPut s.g.vSeq r c }, clock := c }

/-- The register as a write into tag `tag` finds it: retagged, its elements undefined when the container
width changes, its scales 0 when the tag before was none of MX (R119, R124, R168, R281). [log 17 DEDUCED] -/
def retagged (s : State) (r tag : Nat) : VReg × State :=
  let v := vregOf s.g r
  if v.tag = tag then (v, s)
  else if cw v.tag = cw tag ∧ isMx v.tag = isMx tag then ({ v with tag := tag }, s)
  else if cw v.tag = cw tag then
    ({ v with tag := tag, scales := [], plain := true }, s)
  else ({ (v.undef s.freeCtr) with tag := tag }, { s with freeCtr := s.freeCtr + 1 })

/-- Elements at or beyond VL of a tail-dead register forgotten (R131). -/
def dropTail (s : State) (v : VReg) (vl : Nat) : VReg × State :=
  if v.td then
    ({ v with seed := s.freeCtr, elems := v.elems.filter (fun kv => decide (kv.1 < vl))
              scales := v.scales.filter (fun kv => decide (kv.1 * 32 < vl)) },
     { s with freeCtr := s.freeCtr + 1 })
  else (v, s)

/-- Elements of one instruction written into a register: patterns in tag `tag`, with poison. MX scales
come in `sc`. The register takes the tag even when no element is written (R125, R131, R168, R281, R424). -/
def writeElems (s : State) (c : VCtx) (r tag : Nat) (ws : List (Nat × Nat × Bool)) (sc : List (Nat × Nat)) : State :=
  if ws = [] ∧ (vregOf s.g r).tag = tag then s
  else
    let (v, s) := retagged s r tag
    let v := { v with
      elems := tabPutAll v.elems (ws.map (fun w => (w.1, w.2.1 % 2 ^ vw tag)))
      scales := tabPutAll v.scales sc }
    let (v, s) := if c.indep = none then dropTail s v c.vl else (v, s)
    let lanes := sideLanes s s.g (vSide r)
    let need := if c.indep = none then rowsNeed tag v.gf v.td lanes c.vl else gfRows v.gf
    let s := { s with g := { s.g with rowMap := setRows s.g.rowMap r need } }
    let s := setV s r v
    let gw := ws.flatMap (fun w =>
      let (lam, k, b) := place tag lanes w.1
      [(granOf s r (vSide r) lam k (b / 64), cw tag, w.2.2)])
    let gs := sc.map (fun w =>
      let (lam, k, _) := place tag lanes (w.1 * 32)
      (granOf s r (vSide r) lam k 8, cw tag * 4, false))
    { s with granules := granuleWrites (granuleWrites s.granules gw) gs }

/-- Mask bits of one instruction written, with poison; a register that an unfinished copy will write is undefined until
its batch completes, whatever is written (R106). [log 57 DEDUCED] -/
def writeMask (s : State) (m : Nat) (ws : List (Nat × Bool × Bool)) : State :=
  if m = 0 ∨ ws = [] then s
  else
    let r := mregOf s.g m
    let gs := granuleWrites s.granules (ws.map (fun w => (maskGran s m w.1, 1, w.2.2)))
    if s.g.mPend.contains m then
      { s with
        g := { s.g with m := s.g.m.setIfInBounds m ⟨s.freeCtr, []⟩, mHit := setAdd s.g.mHit m }
        granules := gs
        freeCtr := s.freeCtr + 1 }
    else
      { s with
        g := { s.g with m := s.g.m.setIfInBounds m { r with bits := tabPutAll r.bits (ws.map (fun w => (w.1, w.2.1))) } }
        granules := gs }

/-! ### Checks -/

/-- A vector register is bound to a strip queue or a memory stream (R140, R262). -/
def boundTo (g : Group) (r : Nat) : Option Target := (g.binds.find? (fun b => b.reg == r)).map Binding.tgt

def isQueueBound (g : Group) (r : Nat) : Bool :=
  match boundTo g r with
  | some (.queueRead _) => true
  | some (.queueWrite _) => true
  | _ => false

/-- `k` unless, in a split group, a register of the other side is named (R139). `access` says where the
instruction runs; mask registers m1 to m3 belong to the access side. [log 18 DEDUCED] -/
def sideCheck (s : State) (access : Bool) (vs ms : List Nat) (k : Unit → VOut) : VOut :=
  if isSplit s s.g then
    match vs.find? (fun r => vSide r != access && !isQueueBound s.g r) with
    | some r => .fail s cStream (regVal r) none false
    | none =>
      match ms.find? (fun m => m != 0 && decide (m < 4) != access) with
      | some m => .fail s cStream (regVal m) none false
      | none => k ()
  else k ()

/-- Elements that fit in a register of a tag (R127). [log 18 DEDUCED] -/
def capacity (s : State) (r tag gf : Nat) : Nat :=
  if cw tag = 0 then 0 else sideLanes s s.g (vSide r) * gfRows gf * 512 / cw tag

/-- `k` unless VL, or an independent VP's element, lies beyond the capacity of a register under the tag
it has or takes (R127); of a register bound to a strip queue, whose entries hold one row of each lane, that is a
STREAM_FAULT (R141). [log 18 DEDUCED] -/
def capCheck (s : State) (c : VCtx) (rs : List (Nat × Nat)) (k : Unit → VOut) : VOut :=
  let need := match c.indep with
    | some e => e + 1
    | none => c.vl
  match rs.find? (fun rt => decide (capacity s rt.1 rt.2 (vregOf s.g rt.1).gf < need)) with
  | some rt => .fail s (if isQueueBound s.g rt.1 then cStream else cTag) (regVal rt.1) none false
  | none => k ()

/-- `k` unless an independent VP names an MX register (R147). -/
def mxIndep (s : State) (c : VCtx) (rs : List Nat) (k : Unit → VOut) : VOut :=
  match (if c.indep = none then none else rs.find? (fun r => isMx (vregOf s.g r).tag)) with
  | some r => .fail s cTag (regVal r) none false
  | none => k ()

/-- The lowest element whose mask bit is poisoned, of those whose bit is looked at (R425). -/
def maskBad (s : State) (c : VCtx) (m : Nat) : Option Nat :=
  if m = 0 ∨ s.granules = [] then none else (candidates c).find? (fun e => maskPoison s m e)

/-- `k` unless a poisoned mask bit is used as mask (R425). -/
def maskClean (s : State) (c : VCtx) (m : Nat) (k : Unit → VOut) : VOut :=
  match maskBad s c m with
  | some e => .fail s cPoison (regVal e) (some e) false
  | none => k ()

/-- `k` unless a poisoned mask bit is used as mask, or one of the elements `es` of a register is consumed poisoned: the
trap names the lowest such element of all (R425). -/
def opsClean (s : State) (c : VCtx) (m : Nat) (ops : List (List Nat × List Nat)) (k : Unit → VOut) : VOut :=
  let own := if s.granules = [] then [] else
    ops.filterMap (fun o => o.2.find? (fun e => o.1.any (fun r => elemPoison s r e)))
  match ((maskBad s c m).toList ++ own).min? with
  | some e => .fail s cPoison (regVal e) (some e) false
  | none => k ()

/-- `k` unless one of the elements of a register is poisoned, which is consumed (R425). -/
def elemsClean (s : State) (rs : List Nat) (es : List Nat) (k : Unit → VOut) : VOut :=
  match (if s.granules = [] then none else es.find? (fun e => rs.any (fun r => elemPoison s r e))) with
  | some e => .fail s cPoison (regVal e) (some e) false
  | none => k ()

/-- `k` unless the instruction would take the group past 1,024 rows in a lane (R131). -/
def rowCheck (s : State) (slot need : Nat) (k : Unit → VOut) : VOut :=
  let n := rowsWith s.g.rowMap slot need
  if 1024 < n ∧ s.g.stretched = none ∧ s.g.portable = false then .fail s cIllegal (regVal n) none false else k ()

/-! ### Scalar operands (R116, R117, R280) -/

/-- The scalar operand: x at queue entry, or the h snapshot inside an AIB; a poisoned one is consumed. -/
def scalarOp (s : State) (c : VCtx) (r : Nat) (k : Word → VOut) : VOut :=
  if c.inAib then
    if s.g.hSnapPoison.contains (r % 16) then .fail s cPoison (regVal (0x60 + r % 16)) none false
    else k (s.g.hSnap.toList.getD (r % 16) 0)
  else if r ≠ 0 ∧ s.g.xPoison.contains r then .fail s cPoison (regVal (0x20 + r)) none false
  else k (getX s r)

/-! ### Results (R156, R157, R168) -/

/-- The full share's lanes that are the lanes of a side, in their order; none listed in an unsplit group, where they are
the same. -/
def sideKeys (s : State) (access : Bool) : List Nat :=
  if isSplit s s.g then
    let all := ownedSections s s.g
    (sideSections s s.g access).flatMap (fun i => (List.range 8).map (fun j => 8 * all.idxOf i + j))
  else []

/-- Rounding for a register's side under the word's FMODE. -/
def rndOf (s : State) (c : VCtx) (access : Bool) : Rnd :=
  let keys := sideKeys s access
  ⟨c.fmode, s.g.vc.seed, sideLanes s s.g access, keys, s.g.vc.lfsr, 0, s.g.portable⟩

/-- Flags and LFSRs put back: an independent VP's flags wait for its rejoin (R157). -/
def putRnd (s : State) (c : VCtx) (r : Rnd) : State :=
  let g := s.g
  match c.indep with
  | none => { s with g := { g with vc := { g.vc with fflags := g.vc.fflags ||| r.flags, lfsr := r.lfsr } } }
  | some e =>
    { s with g := { g with
        vc := { g.vc with lfsr := r.lfsr }
        vps := updFirst g.vps (fun v => v.idx == e) (fun v => { v with flags := v.flags ||| r.flags }) } }

/-- The tag a destination takes for a result tag: its own when pinned (R168). [log 17 DEDUCED] -/
def destTag (g : Group) (r t : Nat) : Nat :=
  let v := vregOf g r
  if v.pin then v.tag else t

/-- An integer result wrapped to its tag before it is converted (R168). -/
def wrapTo (t : Nat) (v : Val) : Val :=
  match v with
  | .int z => .int (intVal t (wrapN z (cw t)))
  | x => x

/-- The blocks of an MX register that a set of elements touches. [log 32 DEDUCED] -/
def blocksOf (es : List Nat) : List Nat := (es.map (· / 32)).eraseDups

/-- Values converted into a tag, element by element, or block by block for an MX tag; each block's
elements that are not active take the encoding of zero (R125, R164, R166, R168). [log 32 DEDUCED] -/
def convAll (r : Rnd) (tag : Nat) (mode : Option Nat) (satF satI : Bool) (vals : List (Nat × Val)) :
    List (Nat × Nat) × List (Nat × Nat) × Rnd :=
  if isMx tag then
    let r0 := match mode with
      | some m => { r with fmode := r.fmode / 8 * 8 + m }
      | none => r
    let (els, scs, r1) := (blocksOf (vals.map (·.1))).foldl
      (fun (acc : List (Nat × Nat) × List (Nat × Nat) × Rnd) j =>
        let mine := (vals.filter (fun v => v.1 / 32 == j)).map (fun v => (v.1, v.2.ex))
        let (sc, ps, r') := acc.2.2.mxBlock tag mine
        let full := (List.range 32).map (fun i => (32 * j + i, ((ps.find? (fun p => p.1 == 32 * j + i)).map (·.2)).getD 0))
        (acc.1 ++ full, acc.2.1 ++ [(j, sc)], r')) ([], [], r0)
    (els, scs, { r1 with fmode := r.fmode })
  else
    let (els, r1) := vals.foldl (fun (acc : List (Nat × Nat) × Rnd) v =>
      let (p, r') := acc.2.conv tag v.1 mode satF satI v.2
      (acc.1 ++ [(v.1, p)], r')) ([], r)
    (els, [], r1)

/-- Results of the operation tag `t` written into a register, with the flags that the operation raised
(R156, R168). [log 17 DEDUCED, 31 DEDUCED] -/
def writeVals (s : State) (c : VCtx) (r t : Nat) (vals : List (Nat × Val)) (fl : Nat) (mode : Option Nat) : State :=
  let d := destTag s.g r t
  let rnd := (rndOf s c (vSide r)).raise fl
  let (els, scs, rnd) := convAll rnd d mode (satOf c.fmode) false (vals.map (fun v => (v.1, wrapTo t v.2)))
  putRnd (writeElems s c r d (els.map (fun p => (p.1, p.2, false))) scs) c rnd

/-- The destination can take results of tag `t`: a pinned unconfigured register takes none, a pinned bit
register only those of bit sources, and no integer goes into an MX or e8m0 register (R119, R168, R287,
R295). -/
def destOk (g : Group) (r t : Nat) : Bool :=
  let v := vregOf g r
  !(v.pin && (v.tag == 0 || (v.tag == tagBit && t != tagBit) || (t == tagBit && v.tag != tagBit)
    || (isInt t && (isMx v.tag || v.tag == tagE8m0))))

/-! ### A control-thread vector instruction ends -/

/-- The group's vector queue issues nothing: an engine operation at its head has not been accepted (R274, R322),
VPs have not rejoined (R306), a vector future wait has not ended (R271), or an entry waits for room in a strip
queue (R141). [log 56 DEDUCED] -/
def queueBusy (s : State) : Bool :=
  s.g.vps.length != 0 || s.g.fldv.isSome || decide (s.g.appends ≠ [])
    || s.eng.mats.any (fun o => o.gid == s.g.gid && (o.phase != .running))
    || s.eng.xfers.any (fun o => o.gid == s.g.gid && (o.phase == .entry || o.phase == .leave || o.phase == .place))

/-- An entry of the current group's words at its pc. [log 130 DEDUCED] -/
def entryHere (g : Group) (words : List Instr) (begun : Bool) : QueueEntry :=
  ⟨words, begun, g.pc, g.flow, g.x, g.xPoison, g.tr, g.retired, g.spcount, g.convoyLen, Waits.none, g.relFence⟩

/-- The vector queue is held: an instruction that enters it does not leave it at once. [log 56 DEDUCED] -/
def queueHeld (s : State) : Bool := queueBusy s || decide (s.g.vq ≠ [])

/-- Vector-stream accesses issued before have not been performed: those of a body or of an independent VP, of a vector
future wait, or of what waits in the queue. A stopped VP makes none. -/
def vecAccesses (s : State) : Bool :=
  s.g.vps.any (fun v => match v.st with
    | .stopped _ _ _ _ => false
    | _ => true) || s.g.fldv.isSome || decide (s.g.vq ≠ [])

/-- A release, or a write of the scalar stream behind a release fence, waits for the accesses that it covers (R183). -/
def releaseWaits (s : State) (release : Bool) : Bool := (release || s.g.relFence) && vecAccesses s

/-- `k` once every access that a release covers has been performed; `rel` is the scope of a release (R183). -/
def released (s : State) (rel : Option Nat) (k : State → State) : State :=
  if releaseWaits s rel.isSome then waitHere s
  else
    match rel with
    | some scope => releaseAt (k s) scope
    | none => k s

end Sys2Proof.Machine
end

