-- ==== Sys2Proof/Machine/Access.lean ====
section
/-!
DEFINITION. Accesses by virtual and by scratchpad address: checking a location, the scratchpads, reading
and writing what a check found, and the probe over a vector instruction's elements
(R81 to R84, R88 to R94, R108, R175, R252, R424).
-/

namespace Sys2Proof.Machine

/-! ### Scratchpads (R88 to R94, R108) -/

def spKey (core off : Nat) : Nat := core * 2 ^ 21 + off
def spWordKey (core off : Nat) : Nat := core * 2 ^ 15 + off / 64
def blockKey (core off : Nat) : Nat := core * 512 + off / 4096

/-- The byte at a physical scratchpad offset. [log 6 DESIGN CHOICE] -/
def Spad.byte (p : Spad) (core off : Nat) : Byte := tabGet p.cells (spKey core off) 0

/-- `n` bytes, little-endian. -/
def Spad.word (p : Spad) (core off : Nat) : Nat → Nat
  | 0 => 0
  | n + 1 => (p.byte core off).toNat + 256 * p.word core (off + 1) n

/-- Bytes written, keeping the canonical form. -/
def Spad.put (p : Spad) (core off n val : Nat) : Spad :=
  { p with cells := (List.range n).foldl (fun c i =>
      tabSet c (spKey core (off + i)) (BitVec.ofNat 8 (val / 256 ^ i)) 0) p.cells }

/-- An ordinary access to a Spent block returns it to ration none (R108). -/
def spTouch (s : State) (core off : Nat) : State :=
  let k := blockKey core off
  if (tabGet s.ra.blocks k RationRec.reset).st = .spent then
    { s with ra := { s.ra with blocks := tabDel s.ra.blocks k } }
  else s

/-- A read at the bank: value and poison (R94, R424). -/
def spRead (s : State) (core off n : Nat) : Nat × Bool × State :=
  (s.sp.word core off n, s.sp.poison.contains (spWordKey core off), spTouch s core off)

/-- The clock and the writer noted for `n` bytes that are written. -/
def Spad.mark (p : Spad) (core off n clock writer : Nat) : Spad :=
  { p with seqs := tabPutAll p.seqs ((List.range n).map (fun i => (spKey core (off + i), clock, writer))) }

/-- A write at the bank (R94), by the group `writer` − 1, or by an engine (0). -/
def spWrite (s : State) (writer core off n val : Nat) : State :=
  let s := spTouch s core off
  let c := s.clock + 1
  { s with sp := (s.sp.put core off n val).mark core off n c writer, clock := c }

/-- The writer of a scratchpad that a request stands for. -/
def Who.writer (w : Who) : Nat := if w.carter then 0 else w.core * 16 + w.slot + 1

/-- A 64-byte word poisoned. -/
def spPoison (s : State) (core off : Nat) : State :=
  { s with sp := { s.sp with poison := setAdd s.sp.poison (spWordKey core off) } }

/-- The poison of every 64-byte word that the bytes of one instruction or unit cover whole is cleared
(R424). [log 9 DEDUCED] -/
def spClearCovered (s : State) (core : Nat) (offs : List Nat) : State :=
  if s.sp.poison = [] then s
  else
    let ws := (offs.map (· / 64)).eraseDups
    ws.foldl (fun s w =>
      if (List.range 64).all (fun i => offs.contains (w * 64 + i)) then
        { s with sp := { s.sp with poison := setDel s.sp.poison (core * 2 ^ 15 + w) } }
      else s) s

/-- The partition that a scratchpad address names: core, first block and size; none where R91 refuses it. -/
def partitionOf (s : State) (g : Group) (addr : Nat) : Option (Nat × Nat × Nat) :=
  if g.pl.det ∨ bits addr 63 26 ≠ 0 then none
  else if bit addr 21 then
    let j := bits addr 25 22
    if j < g.pl.cols * g.pl.rows then
      let core := g.pl.origin + j / g.pl.cols * 8 + j % g.pl.cols
      match (teamOf s g).bind (fun t0 => s.teams.find? (fun t =>
        t.core == core && t.launch == t0.launch && t.cluster == t0.cluster && t.teamix == j)) with
      | some t => some (core, t.spBase, t.spSize)
      | none => none
    else none
  else if bits addr 25 22 ≠ 0 then none
  else some (g.pl.core, g.pl.spBase, g.pl.spSize)

/-- The physical offset of `n` bytes at a scratchpad address, and the core (R89, R91). [log 39 DEDUCED] -/
def spLocate (s : State) (g : Group) (addr n : Nat) : Option (Nat × Nat) :=
  match partitionOf s g addr with
  | none => none
  | some (core, base, size) =>
    let off := bits addr 20 0
    if (off + n - 1) / 4096 < size then some (core, (base + off / 4096) * 4096 + off % 4096) else none

/-! ### Locations -/

/-- An address before it is checked; a scratchpad address is none when it lies outside OFF (R251). -/
inductive Loc where
  | va (a : Nat)
  | sp (a : Nat) (ok : Bool)
  deriving DecidableEq, Repr

/-- A place found by a check. -/
inductive PLoc where
  | pa (a : Nat)
  | sp (core off : Nat)
  deriving DecidableEq, Repr

/-- A failed check: cause, value, and for a translation what its record carries. -/
structure EFail where
  cause : Nat
  val   : Nat
  x     : Option (XFail × Nat)
  deriving DecidableEq, Repr

def Loc.addr : Loc → Nat
  | .va a => a
  | .sp a _ => a

/-- `n` bytes at a location checked in the order of R83 and R91: alignment to `al`, then the walk and the
permission, or the partition. [log 39 DEDUCED] -/
def checkLoc (s : State) (w : Who) (kind : Nat) (l : Loc) (n al : Nat) : Except EFail PLoc × State :=
  if l.addr % al ≠ 0 then (.error ⟨cMisaligned, l.addr, none⟩, s)
  else
    match l with
    | .va a =>
      match translate s w kind a with
      | (.ok pa, s) => (.ok (.pa pa), s)
      | (.error f, s) => (.error ⟨f.cause, a, some (f, a)⟩, s)
    | .sp a ok =>
      match (if ok then spLocate s s.g a n else none) with
      | some (core, off) => (.ok (.sp core off), s)
      | none => (.error ⟨cPermission, a, none⟩, s)

/-- The record of a failure that is taken (R85). -/
def failRecord (s : State) (w : Who) (kind : Nat) (f : EFail) : State :=
  match f.x with
  | some (x, va) => xfaultRecord s w kind va x
  | none => s

def plRead (s : State) (w : Who) (l : PLoc) (n : Nat) : Nat × Bool × State :=
  match l with
  | .pa a => busRead s w a n
  | .sp core off => spRead s core off n

def plWrite (s : State) (w : Who) (l : PLoc) (n val : Nat) : State :=
  match l with
  | .pa a => busWrite s w a n val
  | .sp core off => spWrite s w.writer core off n val

/-- The place marked poisoned (R105, R425). -/
def plPoison (s : State) (l : PLoc) : State :=
  match l with
  | .pa a =>
    match paKind s a with
    | .hbm | .host => poisonLine s (lineOf a)
    | _ => s
  | .sp core off => spPoison s core off

/-- Poison cleared where the writes of one instruction or unit cover a whole line or word (R39, R424).
[log 9 DEDUCED] -/
def plClear (s : State) (ls : List (PLoc × Nat)) : State :=
  if s.sp.poison = [] ∧ s.pm.poisoned = [] ∧ s.pm.lines.all (fun l => !l.poison) then s
  else
    let pas := ls.flatMap (fun x => match x.1 with
      | .pa a => (List.range x.2).map (a + ·)
      | .sp _ _ => [])
    let cores := (ls.filterMap (fun x => match x.1 with
      | .sp c _ => some c
      | .pa _ => none)).eraseDups
    let s := clearCovered s pas
    cores.foldl (fun s c =>
      spClearCovered s c (ls.flatMap (fun x => match x.1 with
        | .sp c' o => if c' = c then (List.range x.2).map (o + ·) else []
        | .pa _ => []))) s

/-- A scalar access of the control thread: `k` on the place, or the trap with its record (R83, R84). -/
def scalarAccess (s : State) (kind : Nat) (va : Word) (n : Nat) (k : State → Nat → State) : State :=
  match checkLoc s (whoG s) kind (.va va.toNat) n n with
  | (.ok (.pa pa), s) => k s pa
  | (.ok (.sp _ _), s) => s
  | (.error f, s) => trap (failRecord s (whoG s) kind f) f.cause (BitVec.ofNat 64 f.val)

/-! ### Vector accesses (R81, R82, R252) -/

/-- Who accesses element `e`: an indexed access and an independent VP look in the bank of the lane that
holds the element of register `r` (R75). [log 131 DESIGN CHOICE] -/
def whoE (s : State) (c : VCtx) (r e : Nat) (indexed : Bool) : Who :=
  let lam := (place (vregOf s.g r).tag (sideLanes s s.g (vSide r)) e).1
  { whoG s with
    lane := if indexed || c.indep != none then some (logicalLane s s.g (vSide r) lam) else none
    elem := e
    probe := indexed
    indep := c.indep != none
    stream := match c.indep with
      | some v => .vp v
      | none => .vector }

/-- One element to be accessed: its number and its location; and where poison keeps it from being accessed, the value
that the trap has (R252, R419, R425). -/
structure EReq where
  e   : Nat
  loc : Loc
  bad : Option Nat
  deriving DecidableEq, Repr

/-- The requests of the active elements of a memory form, up to the lowest element whose mask bit is poisoned, which
fails with its address (R419, R425). -/
def requests (s : State) (c : VCtx) (m : Nat) (req : Nat → EReq) : List EReq :=
  let es := active s.g c m
  match maskBad s c m with
  | none => es.map req
  | some x => (es.filter (fun e => decide (e < x))).map req ++ [{ req x with bad := some (req x).loc.addr }]

/-- The places below the lowest element whose data in a register is poisoned; that element fails with its address
(R253, R419, R425). -/
def dataClean (s : State) (v : Nat) (req : Nat → EReq) (ls : List (Nat × PLoc)) (fail : Option (Nat × EFail)) :
    List (Nat × PLoc) × Option (Nat × EFail) :=
  match (if s.granules = [] then none else ls.find? (fun l => elemPoison s v l.1)) with
  | some b => (ls.filter (fun l => decide (l.1 < b.1)), some (b.1, ⟨cPoison, (req b.1).loc.addr, none⟩))
  | none => (ls, fail)

/-- The elements checked in ascending order by `chk`: the places of those below the first failure, that
failure, and the state after. A probe pass goes on to the last element, so that the banks are filled (R82). -/
def probeWith (chk : State → Who → Loc → Except EFail PLoc × State) (s : State) (who : Nat → Who) (all : Bool) :
    List EReq → List (Nat × PLoc) × Option (Nat × EFail) × State
  | [] => ([], none, s)
  | q :: rest =>
    let (res, s) : Except EFail PLoc × State := match q.bad with
      | some v => (.error ⟨cPoison, v, none⟩, s)
      | none => chk s (who q.e) q.loc
    match res with
    | .ok l =>
      let (ls, f, s) := probeWith chk s who all rest
      ((q.e, l) :: ls, f, s)
    | .error f =>
      if all then
        let (_, _, s) := probeWith chk s who all rest
        ([], some (q.e, f), s)
      else ([], some (q.e, f), s)

/-- The elements checked for accesses of `n` bytes aligned to `al`. -/
def probe (s : State) (who : Nat → Who) (kind n al : Nat) (all : Bool) (qs : List EReq) :
    List (Nat × PLoc) × Option (Nat × EFail) × State :=
  probeWith (fun s w l => checkLoc s w kind l n al) s who all qs

/-- A memory form's failure at an element, its record written (R84, R85). -/
def memFail (s : State) (w : Who) (kind e : Nat) (f : EFail) : VOut :=
  .fail (failRecord s w kind f) f.cause (BitVec.ofNat 64 f.val) (some e) true

end Sys2Proof.Machine
end

