-- ==== Sys2Proof/Machine/Regs.lean ====
section
/-!
DEFINITION. Which registers a vector instruction names, and the issue class that R298 gives it: what the
convoy rules (R300), the bindings (R142, R262) and the checks of an AIB (R301) ask of a word.
-/

namespace Sys2Proof.Machine

/-- The pipes of R298. -/
inductive Pipe where
  | alu | mulp | sfu | cross | load | store | none
  deriving DecidableEq, Repr

/-- Pipes of a kind in each lane (R298). -/
def Pipe.count : Pipe → Nat
  | .alu => 2
  | .none => 0
  | _ => 1

/-- The registers and the frame of a vector word. -/
structure Regs where
  /-- Vector registers read as sources. -/
  src   : List Nat := []
  /-- Vector registers written. -/
  dst   : List Nat := []
  /-- Mask registers read, the instruction's own mask among them when it is not m0. -/
  msrc  : List Nat := []
  mdst  : List Nat := []
  /-- x registers read as scalar operands. -/
  xsrc  : List Nat := []
  xdst  : List Nat := []
  /-- The instruction's own mask. -/
  mask  : Nat := 0
  /-- An index or address register. -/
  index : Option Nat := none
  pipe  : Pipe := .none
  /-- Element-wise (R279, R286, R296). -/
  elem  : Bool := false
  /-- Cross-element (R291). -/
  cross : Bool := false
  deriving DecidableEq, Repr

/-- Mask registers with m0 left out. -/
def realMasks (ms : List Nat) : List Nat := ms.filter (· != 0)

/-- A binary element-wise form: vs2 is an x register when `k`. -/
def regsBin (p : Pipe) (d a b m : Nat) (k reads : Bool) : Regs :=
  { src := (if k then [a] else [a, b]) ++ (if reads then [d] else []), dst := [d], msrc := realMasks [m]
    xsrc := if k then [b] else [], mask := m, pipe := p, elem := true }

/-- A unary element-wise form. -/
def regsUn (p : Pipe) (d b m : Nat) : Regs :=
  { src := [b], dst := [d], msrc := realMasks [m], mask := m, pipe := p, elem := true }

/-- A comparison. -/
def regsCmp (d a b m : Nat) (k : Bool) : Regs :=
  { src := if k then [a] else [a, b], mdst := [d], msrc := realMasks [m], xsrc := if k then [b] else []
    mask := m, pipe := .alu, elem := true }

/-- A reduction or scan: vs1 holds the starting value. -/
def regsRed (d a b m : Nat) : Regs :=
  { src := [a, b], dst := [d], msrc := realMasks [m], mask := m, pipe := .cross, cross := true }

/-- An element-wise mask form. -/
def regsMask (d : Nat) (ms : List Nat) (m : Nat) : Regs :=
  { mdst := [d], msrc := realMasks (ms ++ [m]), mask := m, pipe := .alu, elem := true }

/-- A load. -/
def regsLd (d a m : Nat) (xs idx : List Nat) : Regs :=
  { src := idx, dst := [d], msrc := realMasks [m], xsrc := a :: xs, mask := m, index := idx.head?, pipe := .load }

/-- A store. -/
def regsSt (v a m : Nat) (xs idx : List Nat) : Regs :=
  { src := v :: idx, msrc := realMasks [m], xsrc := a :: xs, mask := m, index := idx.head?, pipe := .store }

/-- A vector atomic: vs3 is read and written. -/
def regsAmo (v a m : Nat) : Regs :=
  { src := [v, a], dst := [v], msrc := realMasks [m], mask := m, index := some a, pipe := .store }

/-- The registers that an instruction of the vector queue names; nothing for the others. -/
def regsOf (i : Instr) : Regs :=
  match i with
  | .vadd d a b m _ k | .vsub d a b m _ k | .vrsub d a b m _ k | .vmin d a b m _ k | .vmax d a b m _ k
  | .vsadd d a b m _ k | .vssub d a b m _ k | .vabsd d a b m _ k | .vand d a b m _ k | .vor d a b m _ k
  | .vxor d a b m _ k | .vandn d a b m _ k | .vsll d a b m _ k | .vsrl d a b m _ k | .vsra d a b m _ k =>
    regsBin .alu d a b m k false
  | .vmul d a b m _ k | .vmulh d a b m _ k | .vdiv d a b m _ k | .vrem d a b m _ k => regsBin .mulp d a b m k false
  | .vfma d a b m _ k | .vfms d a b m _ k | .vfnma d a b m _ k => regsBin .mulp d a b m k true
  | .vabs d b m _ | .vneg d b m _ | .vnot d b m _ | .vclz d b m _ | .vpopc d b m _ => regsUn .alu d b m
  | .vceq d a b m _ k | .vcne d a b m _ k | .vclt d a b m _ k | .vcle d a b m _ k | .vcgt d a b m _ k
  | .vcge d a b m _ k | .vcun d a b m _ k => regsCmp d a b m k
  | .vcvt d _ b m _ | .vcvtSat d _ b m _ | .vretag d _ b m _ => regsUn .alu d b m
  | .vredsum d a b m _ | .vredsumU d a b m _ | .vredmin d a b m _ | .vredmax d a b m _ | .vredand d a b m _
  | .vredor d a b m _ | .vredxor d a b m _ | .vscan d a b m _ => regsRed d a b m
  | .vmv d b m _ k =>
    if k then { dst := [d.val], msrc := realMasks [m], xsrc := [b.val], mask := m, pipe := .alu, elem := true }
    else regsUn .alu d b m
  | .vmvX d b _ => { src := [b.val], xdst := [d.val], pipe := .cross, cross := true }
  | .vslup d a b m _ k | .vsldn d a b m _ k =>
    { src := if k then [a.val] else [a.val, b.val], dst := [d.val], msrc := realMasks [m]
      xsrc := if k then [b.val] else [], mask := m, pipe := .cross, cross := true }
  | .vgath d a b m _ => { src := [a.val, b.val], dst := [d.val], msrc := realMasks [m], mask := m, pipe := .cross, cross := true }
  | .vcompr d b m _ | .vexpd d b m _ | .vrev d b m _ =>
    { src := [b.val], dst := [d.val], msrc := realMasks [m], mask := m, pipe := .cross, cross := true }
  | .vrcp d b m _ | .vrsqrt d b m _ | .vsqrt d b m _ | .vexp2 d b m _ | .vlog2 d b m _ | .vsin d b m _
  | .vcos d b m _ | .vtanh d b m _ => regsUn .sfu d b m
  | .vidx d _ m _ _ => { dst := [d.val], msrc := realMasks [m], mask := m, pipe := .alu, elem := true }
  | .mand d a b m _ | .mor d a b m _ | .mxor d a b m _ | .mandn d a b m _ => regsMask d [a, b] m
  | .mnot d b m _ => regsMask d [b] m
  | .mset d m _ | .mclr d m _ => regsMask d [] m
  | .mpopc d b m _ | .mfirst d b m _ =>
    { msrc := realMasks [b.val, m.val], xdst := [d.val], mask := m, pipe := .cross, cross := true }
  | .vfetch b m => { msrc := realMasks [m], xsrc := [b.val], mask := m }
  | .tfetch b m k => { src := if k then [] else [b.val], msrc := realMasks [m], mask := m }
  | .xqsend a m => { src := [a.val], msrc := realMasks [m], mask := m }
  | .xqrecv d m => { dst := [d.val], msrc := realMasks [m], mask := m }
  | .vpid d m => { dst := [d.val], msrc := realMasks [m], mask := m, elem := true }
  | .vld d a m _ _ | .vldC d a m _ _ => regsLd d a m [] []
  | .vldS d a s m _ _ | .vldCs d a s m _ _ => regsLd d a m [s] []
  | .vldX d a i m _ _ _ | .vldCx d a i m _ _ _ => regsLd d a m [] [i]
  | .vldFf d a m _ | .vldSeg d a m _ => regsLd d a m [] []
  | .vst v a m _ _ | .vstU v a m _ _ => regsSt v a m [] []
  | .vstS v a s m _ _ | .vstSu v a s m _ _ => regsSt v a m [s] []
  | .vstX v a i m _ _ _ | .vstXu v a i m _ _ _ => regsSt v a m [] [i]
  | .vstSeg v a m _ => regsSt v a m [] []
  | .vamoSwap v _ _ a m _ | .vamoAdd v _ _ a m _ | .vamoAnd v _ _ a m _ | .vamoOr v _ _ a m _
  | .vamoXor v _ _ a m _ | .vamoMin v _ _ a m _ | .vamoMax v _ _ a m _ => regsAmo v a m
  | .samo v a m _ | .samoO v a m _ =>
    { src := [v.val, a.val], msrc := realMasks [m], mask := m, index := some a, pipe := .store }
  | .fldv d t u m | .fldvX d t u m =>
    { src := [d.val], dst := [d.val], msrc := realMasks [m], mdst := realMasks [u], xsrc := [t.val], mask := m, index := some d }
  | .vffill v a m => { src := [v.val, a.val], msrc := realMasks [m], mask := m, index := some a }
  | .mput s p _ => { src := [s.val], xsrc := [p.val] }
  | .mext d p _ => { dst := [d.val], xsrc := [p.val] }
  | .sfromv _ s k => { src := [s.val], msrc := realMasks [k], mask := k }
  | .stov d _ k => { dst := [d.val], msrc := realMasks [k], mask := k }
  | .sdot d _ _ | .slen d _ => { xdst := [d.val] }
  | _ => {}

end Sys2Proof.Machine
end

