-- ==== Sys2Proof/Machine/Stream.lean ====
section
/-!
DEFINITION. Bound vector registers: strip queues and memory streams, moved one chunk at a time around the
instruction that names them (R140 to R143, R262 to R265); and how a vector instruction of the control
thread ends.
-/

namespace Sys2Proof.Machine

/-! ### Strip queues (R140, R141) -/

/-- Strip queue `q` of a core. -/
def stripOf (s : State) (core q : Nat) : Option StripQ := s.eng.strips.find? (fun x => x.core == core && x.q == q)

/-- A strip queue changed. -/
def updStrip (s : State) (core q : Nat) (f : StripQ → StripQ) : State :=
  { s with eng := { s.eng with strips := updFirst s.eng.strips (fun x => x.core == core && x.q == q) f } }

/-- An entry appended, when there is room (R141). [log 40 DEDUCED] -/
def stripAppend (s : State) (core q : Nat) (e : StripEntry) : Option State :=
  match stripOf s core q with
  | some x =>
    if x.entries.length < 16 then some (updStrip s core q (fun x => { x with entries := x.entries ++ [e] })) else none
  | none => none

/-- The write end of a queue unbound. -/
def freeWrite (s : State) (core q : Nat) : State :=
  let s := updStrip s core q (fun x => { x with wr := none })
  { s with eng := { s.eng with strips := s.eng.strips.filter (fun x => x.rd.isSome || x.wr.isSome) } }

/-- An entry appended by the current group, or left to wait for room; `last` unbinds the write end with it
(R141, R143, R265). [log 30 DEDUCED, 40 DEDUCED] -/
def stripSend (s : State) (q : Nat) (e : StripEntry) (last : Bool) : State :=
  match (if s.g.appends = [] then stripAppend s s.g.pl.core q e else none) with
  | some s => if last then freeWrite s s.g.pl.core q else s
  | none => { s with g := { s.g with appends := s.g.appends ++ [(q, e, last)] } }

/-- The oldest entry consumed (R141). -/
def stripConsume (s : State) (core q : Nat) : Option (StripEntry × State) :=
  match (stripOf s core q).map StripQ.entries with
  | some (e :: _) => some (e, updStrip s core q (fun x => { x with entries := x.entries.drop 1 }))
  | _ => none

/-- The oldest entry for a bound register: one taken for it already, or the queue's (R141). -/
def stripTake (s : State) (r q : Nat) : Option (StripEntry × State) :=
  match s.g.fed.find? (fun x => x.1 == r) with
  | some (_, e) => some (e, { s with g := { s.g with fed := s.g.fed.filter (fun x => x.1 != r) } })
  | none => stripConsume s s.g.pl.core q

/-- A binding of the current group ended (R265). [log 40 DEDUCED] -/
def unbind (s : State) (r : Nat) : State :=
  let t := boundTo s.g r
  let s := { s with g := { s.g with
    binds := s.g.binds.filter (fun b => b.reg != r)
    streamEnd := setDel s.g.streamEnd r
    fed := s.g.fed.filter (fun x => x.1 != r) } }
  match t with
  | some (.queueWrite q) => stripSend s q .endMark true
  | some (.queueRead q) =>
    let s := updStrip s s.g.pl.core q (fun x => { x with rd := none })
    { s with eng := { s.eng with strips := s.eng.strips.filter (fun x => x.rd.isSome || x.wr.isSome) } }
  | _ => s

/-- Bindings ended in ascending register order, up to one whose end marker must wait for room (R265). -/
def unbindAll (s : State) (rs : List Nat) : State :=
  rs.foldl (fun s r => if s.g.appends = [] then unbind s r else s) s

/-! ### Addresses (R251) -/

/-- The location `d` bytes from a base. -/
def locAt (sp : Bool) (base : Word) (d : Int) : Loc :=
  if sp then
    let off : Int := (bits base.toNat 20 0 : Nat) + d
    if 0 ≤ off ∧ off < 2 ^ 21 then .sp (base.toNat / 2 ^ 21 * 2 ^ 21 + off.toNat) true
    else .sp (wrapN ((base.toNat : Int) + d) 64) false
  else .va (wrapN ((base.toNat : Int) + d) 64)

/-- The location of element `i` of a memory stream (R262). -/
def StreamDesc.loc (d : StreamDesc) (tag i : Nat) : Loc :=
  locAt d.spad d.base ((i : Int) * d.stride.toInt * (cw tag / 8 : Nat))

/-! ### Consuming -/

/-- A register's binding replaced. -/
def setBinding (s : State) (r : Nat) (t : Target) : State :=
  { s with g := { s.g with binds := updFirst s.g.binds (fun b => b.reg == r) (fun b => { b with tgt := t }) } }

/-- The elements of a bound register set for the instruction that reads it, and VL (R141, R142). An entry brings no
scales, so those of an MX register stay free values. [log 124 DESIGN CHOICE] -/
def feed (s : State) (r n : Nat) (vals : List (Nat × Bool)) : State :=
  let tag := (vregOf s.g r).tag
  let s := { s with g := { s.g with vc := { s.g.vc with vl := n } } }
  writeElems s (ctxG s) r tag ((vals.take n).zipIdx.map (fun v => (v.2, v.1.1, v.1.2))) []

/-- A read that finds an end marker or an exhausted stream (R143). -/
def streamEnded (s : State) (r : Nat) : State :=
  { s with g := { s.g with vc := { s.g.vc with vl := 0 }, streamEnd := setAdd s.g.streamEnd r } }

/-- The next `k` elements of a read stream: those read ahead, then reads in ascending order, up to the
first that fails (R81, R263). [log 44 DESIGN CHOICE] -/
def streamRead (s : State) (d : StreamDesc) (tag pos : Nat) : Nat → List (Nat × Bool) →
    List (Nat × Bool) × Option (Nat × EFail) × State
  | 0, _ => ([], none, s)
  | k + 1, v :: ahead =>
    let (vs, f, s) := streamRead s d tag (pos + 1) k ahead
    (v :: vs, f.map (fun f => (f.1 + 1, f.2)), s)
  | k + 1, [] =>
    let n := cw tag / 8
    match checkLoc s (whoV s) kRead (d.loc tag pos) n n with
    | (.error f, s) => ([], some (0, f), s)
    | (.ok l, s) =>
      let (v, p, s) := plRead s (whoV s) l n
      let (vs, f, s) := streamRead s d tag (pos + 1) k []
      ((v, p) :: vs, f.map (fun f => (f.1 + 1, f.2)), s)

/-- One bound source's chunk consumed: done with the elements in place, or why not. A stream whose read fails at an
element leaves the elements below it in place. -/
def consume (s : State) (r : Nat) (t : Target) : VOut :=
  let tag := (vregOf s.g r).tag
  if s.g.streamEnd.contains r then .fail s cStream (regVal r) none false
  else
    match t with
    | .queueWrite _ => .fail s cStream (regVal r) none false
    | .queueRead q =>
      match stripTake s r q with
      | none => .wait { s with g := { s.g with waits := { s.g.waits with starved := some r } } }
      | some (.endMark, s') => .done (streamEnded s' r)
      | some (.data n tg vals, s') =>
        if s.g.vc.vl < n then .fail s cStream (regVal r) none false
        else if tg ≠ tag then .fail s cTag (regVal r) none false
        else .done (feed s' r n vals)
    | .stream d pos ahead =>
      if d.write then .fail s cStream (regVal r) none false
      else if d.count ≤ pos then .done (streamEnded s r)
      else
        let k := min d.chunk (d.count - pos)
        if s.g.vc.vl < k then .fail s cStream (regVal r) none false
        else
          match streamRead s d tag pos k ahead with
          | (vs, none, s') => .done (setBinding (feed s' r k vs) r (.stream d (pos + k) (ahead.drop k)))
          | (vs, some (e, f), s') => memFail (feed s' r k vs) (whoV s') kRead e f

/-- The lower of two failures at elements, the earlier where they are at the same (R81). -/
def lowerFail (a b : Option (Nat × Nat × Word)) : Option (Nat × Nat × Word) :=
  match a, b with
  | some x, some y => if y.1 < x.1 then b else a
  | none, b => b
  | a, none => a

/-- Every bound source's chunk consumed, in operand order, and the lowest element at which the read of a stream
fails, with its cause and value (R81, R142). [log 30 DEDUCED] -/
def consumeAll (s : State) (low : Option (Nat × Nat × Word)) : List (Nat × Target) → VOut × Option (Nat × Nat × Word)
  | [] => (.done s, low)
  | (r, t) :: rest =>
    match consume s r t with
    | .done s' => consumeAll s' low rest
    | .fail s' c v (some e) true => consumeAll s' (lowerFail low (some (e, c, v))) rest
    | o => (o, low)

/-! ### Producing -/

/-- The elements that a write to a bound register moves: below VL, inactive ones zero (R141). -/
def produced (s : State) (r m : Nat) : List (Nat × Bool) :=
  (List.range s.g.vc.vl).map (fun e =>
    if decide (s.g.vc.vstart ≤ e) && maskBit s.g m e then (elemOf s r e, elemPoison s r e) else (0, false))

/-- The bound register's elements undefined again (R262). -/
def undefBound (s : State) (r : Nat) : State :=
  { s with g := { s.g with v := s.g.v.setIfInBounds r ((vregOf s.g r).undef s.freeCtr) }, freeCtr := s.freeCtr + 1 }

/-- Elements stored at rising positions of a write stream, up to the first that fails (R142, R263).
[log 30 DEDUCED] -/
def streamWrite (s : State) (d : StreamDesc) (tag pos : Nat) : List (Nat × Nat) → Option (Nat × EFail) × State
  | [] => (none, s)
  | (e, v) :: rest =>
    let n := cw tag / 8
    match checkLoc s (whoV s) kWrite (d.loc tag (pos + e)) n n with
    | (.error f, s) => (some (e, f), s)
    | (.ok l, s) => streamWrite (plWrite s (whoV s) l n v) d tag pos rest

/-- One bound destination's chunk moved; `s0` is the state before the instruction. -/
def produce (s0 s : State) (r m : Nat) (t : Target) : VOut :=
  let tag := (vregOf s.g r).tag
  let vl := s.g.vc.vl
  match t with
  | .queueRead _ => .fail s0 cStream (regVal r) none false
  | .queueWrite q =>
    if lanesV s s.g * 512 < vl * cw tag then .fail s0 cStream (regVal r) none false
    else
      .done (undefBound (stripSend s q (.data vl tag (produced s r m)) false) r)
  | .stream d pos ahead =>
    if !d.write || decide (d.chunk < vl) || decide (d.count < pos + vl) then .fail s0 cStream (regVal r) none false
    else
      let es := active s.g (ctxG s) m
      match es.find? (fun e => elemPoison s r e) with
      | some e => .fail s0 cPoison (BitVec.ofNat 64 ((d.loc tag (pos + e)).addr)) (some e) true
      | none =>
        match streamWrite s d tag pos (es.map (fun e => (e, elemOf s r e))) with
        | (none, s') => .done (undefBound (setBinding s' r (.stream d (pos + vl) ahead)) r)
        | (some (e, f), s') => memFail s' (whoV s') kWrite e f

/-- [log 30 DEDUCED] -/
def produceAll (s0 s : State) (m : Nat) : List (Nat × Target) → VOut
  | [] => .done s
  | (r, t) :: rest =>
    match produce s0 s r m t with
    | .done s' => produceAll s0 s' m rest
    | o => o

/-- After a failure, the bindings, the queues and VL are as they were before the instruction. -/
def unconsumed (s0 s : State) : State :=
  { s with
    g := { s.g with binds := s0.g.binds, streamEnd := s0.g.streamEnd, fed := s0.g.fed, vc := { s.g.vc with vl := s0.g.vc.vl } }
    eng := { s.eng with strips := s0.eng.strips } }

/-- The instruction acts on one element after another, so that one whose chunk fails at an element is performed below
it (R81, R142). -/
def Regs.stepwise (r : Regs) : Bool := r.elem || r.pipe == .load || r.pipe == .store

/-- A bound destination's memory stream takes the elements below `e`; the stream stays where it is, since the
instruction goes on from `e` once its failure is mended (R81, R142). -/
def producePart (s : State) (m e : Nat) (b : Nat × Target) : State :=
  match b.2 with
  | .stream d pos _ =>
    if d.write then
      (streamWrite s d (vregOf s.g b.1).tag pos
        (((active s.g (ctxG s) m).filter (fun i => decide (i < e))).map (fun i => (i, elemOf s b.1 i)))).2
    else s
  | _ => s

/-- `f` with the bound registers that the instruction names moving one chunk each. Where a chunk's read fails at an
element, `f` acts below it, and the failure is taken then, unless `f` fails (R81, R142). -/
def withBound (s : State) (r : Regs) (f : State → VCtx → VOut) : VOut :=
  let bnd (rs : List Nat) := rs.eraseDups.filterMap (fun x => (boundTo s.g x).map (fun t => (x, t)))
  if s.g.binds = [] then f s (ctxG s)
  else
    match consumeAll s none (bnd r.src) with
    | (.done s1, none) =>
      match f s1 (ctxG s1) with
      | .done s2 =>
        match produceAll s s2 r.mask (bnd r.dst) with
        | .done s3 =>
          .done ((bnd r.src).foldl (fun s x => undefBound s x.1) s3)
        | .fail s' c v e m => .fail (unconsumed s s') c v e m
        | .wait _ => .wait s
      | .fail s' c v e m => .fail (unconsumed s s') c v e m
      | .wait s' => .wait (unconsumed s s')
    | (.done s1, some (e, cause, v)) =>
      if r.stepwise then
        match f s1 { ctxG s1 with els := some (range s1.g.vc.vstart e) } with
        | .done s2 => .fail (unconsumed s ((bnd r.dst).foldl (fun s b => producePart s r.mask e b) s2)) cause v (some e) true
        | .fail s' c v e m => .fail (unconsumed s s') c v e m
        | .wait s' => .wait (unconsumed s s')
      else .fail (unconsumed s s1) cause v (some e) true
    | (.fail s' c v e m, _) => .fail (unconsumed s s') c v e m
    | (.wait s', _) => .wait (unconsumed s s')

/-! ### A control-thread vector instruction ends (R279, R306, R408, R419) -/

/-- Element groups of 128 bits per lane that hold one of the elements, in the busiest share lane (R371). -/
def elemGroups (s : State) (es : List Nat) (r : Nat) : Nat :=
  let lanes := sideLanes s s.g (vSide r)
  let at_ := (es.map (fun e =>
    let p := place (vregOf s.g r).tag lanes e
    (p.1, p.2.1 * 4 + p.2.2 / 128))).eraseDups
  ((at_.map (·.1)).eraseDups.map (fun l => (at_.filter (fun p => p.1 == l)).length)).foldl max 0

/-- The toll of a convoy member whose active elements are `es` (R408). [log 36 DEDUCED] -/
def memberToll (s : State) (es : List Nat) (r : Regs) : Nat :=
  lanesV s s.g * (((r.dst ++ r.src).head?).map (elemGroups s es)).getD 1

/-- A vector instruction of the control thread: it waits while the queue is held; when it completes VSTART
becomes 0 and it retires; when it fails it traps. -/
def controlV (s : State) (i : Instr) (f : State → VCtx → VOut) : State :=
  if queueHeld s then waitHere s
  else
    let r := regsOf i
    match withBound s r f with
    | .done s' =>
      let g := s'.g
      retireAs { s' with g := { g with
        vc := { g.vc with vstart := 0 }
        toll := if convoyable i then g.toll + memberToll s' (active g (ctxG s') r.mask) r else g.toll } } (convoyable i)
    | .fail s' cause val e mem =>
      let s' := match e with
        | some n => if mem then { s' with g := { s'.g with vc := { s'.g.vc with vstart := n } } } else s'
        | none => s'
      trap s' cause val
    | .wait s' => waitHere s'

end Sys2Proof.Machine
end

