-- ==== Sys2Proof/Machine/Power.lean ====
section
/-!
DEFINITION. Leave of the power stewards, leases, purses and the convoy's dispatch (R367, R408 to R411).
-/

namespace Sys2Proof.Machine

/-- Budget of a die (R411). -/
def budgetOf (s : State) (die : Nat) : Nat := s.io.pwbudget.toList.getD die 64

/-- Kind of operation that a request is for: 0 matrix, 1 copy, 2 convoy (R367). -/
def Leave.opKind (l : Leave) : Nat := if l.mat.isSome then 0 else if l.xfer.isSome then 1 else 2

/-- A running lease of the group covers a kind of operation, and no other operation uses it (R410). -/
def leaseServes (s : State) (gid k : Nat) : Bool :=
  s.eng.leaves.any (fun l => l.gid == gid && l.granted && (match l.lease with
    | some (kind, _) => kind == 3 || kind == k
    | none => false))
  && !(s.eng.leaves.any (fun l => l.gid == gid && l.lease.isNone && l.granted && l.units == 0 && l.opKind == k))

/-- A request put to the steward of a die; one that a lease serves has its leave at once (R409, R410). -/
def askLeave (s : State) (l : Leave) : State :=
  let l := if l.lease.isNone && leaseServes s l.gid l.opKind then { l with units := 0, granted := true } else l
  { s with eng := { s.eng with leaves := s.eng.leaves ++ [l] } }

/-- Requests that satisfy `p` ended, granted or not. -/
def dropLeaves (s : State) (p : Leave → Bool) : State :=
  { s with eng := { s.eng with leaves := s.eng.leaves.filter (fun l => !p l) } }

/-- What a request costs: a cost above the budget is taken as the budget. -/
def leaveCost (s : State) (l : Leave) : Nat := min l.units (budgetOf s l.die)

/-- The oldest request of a die that waits. -/
def leaveNext (s : State) (die : Nat) : Option Leave := s.eng.leaves.find? (fun l => l.die == die && !l.granted)

/-- Units held at a die. -/
def leaveHeld (s : State) (die : Nat) : Nat :=
  (s.eng.leaves.filter (fun l => l.die == die && l.granted)).foldl (fun a l => a + l.units) 0

/-- The oldest request can be granted (R409). -/
def leaveReady (s : State) (die : Nat) : Bool :=
  match leaveNext s die with
  | some l => decide (leaveHeld s die + leaveCost s l ≤ budgetOf s die)
  | none => false

/-- POWER_LEAVE_GRANT (R409): the die of the message grants its oldest request when its budget covers it. -/
def execPowerLeaveGrant (s : State) : Res :=
  let die := s.msg.die
  if 8 ≤ die then .fault .noSuchUnit
  else
    .next (match leaveNext s die with
      | some l =>
        if leaveReady s die then
          let ls := updFirst s.eng.leaves (fun x => x.die == die && !x.granted)
            (fun x => { x with units := leaveCost s l, granted := true })
          { s with eng := { s.eng with leaves := ls } }
        else s
      | none => s)

/-- The lease of a group of a kind. -/
def isLease (l : Leave) (gid kind : Nat) : Bool :=
  l.gid == gid && (match l.lease with
    | some (k, _) => k == kind
    | none => false)

/-- LEASE_EXPIRE (R410): the lease of the message's group and kind runs out. -/
def execLeaseExpire (s : State) : Res :=
  .next (dropLeaves s (fun l => l.granted && isLease l s.msg.gid s.msg.num))

/-- Units of a lease kind (R410). -/
def leaseUnits (kind : Nat) : Nat :=
  match kind with
  | 0 => 8
  | 1 => 2
  | 2 => 1
  | _ => 11

/-- pwlease (R367): a reserved bit makes the value illegal. -/
def execPwlease (a : Fin 32) (s : State) : Res :=
  .next (readingX s [a] fun s =>
    let v := (getX s a).toNat
    if bits v 63 34 ≠ 0 then trap s cIllegal (getX s a)
    else
      let kind := bits v 33 32
      let cycles := min (bits v 31 0) 1048576
      let s := dropLeaves s (fun l => isLease l s.g.gid kind)
      retire (if cycles = 0 then s
        else askLeave s ⟨dieOf s.g.pl.core, s.g.gid, none, none, some (kind, cycles), leaseUnits kind, false⟩))

/-! ### Convoys (R408, R409) -/

/-- A convoy's own request. -/
def isConvoyLeave (l : Leave) (gid : Nat) : Bool := l.gid == gid && l.xfer.isNone && l.mat.isNone && l.lease.isNone

/-- A VMUL-class member (R298). -/
def isVmul (i : Instr) : Bool :=
  match i with
  | .vmul _ _ _ _ _ _ | .vmulh _ _ _ _ _ _ | .vfma _ _ _ _ _ _ | .vfms _ _ _ _ _ _ | .vfnma _ _ _ _ _ _ => true
  | _ => false

/-- The convoy of the current group may issue: it needs no leave or has it; the state otherwise, with the
request put (R409). -/
def convoyLeave (s : State) (members : List Instr) : Option State :=
  if members.any isVmul && decide (4 ≤ (ownedSections s s.g).length) then
    match s.eng.leaves.find? (fun l => isConvoyLeave l s.g.gid) with
    | some l => if l.granted then none else some s
    | none =>
      let s := askLeave s ⟨dieOf s.g.pl.core, s.g.gid, none, none, none, 1, false⟩
      if s.eng.leaves.any (fun l => isConvoyLeave l s.g.gid && l.granted) then none else some s
  else none

/-- PRIO of a launch's start record (R398). -/
def Launch.prio (l : Launch) : Nat := bits (l.words.toList.getD 0 0).toNat 34 32

/-- The refill of a purse (R408). [log 36 DEDUCED] -/
def purseAfter (purse : Int) (prio sections : Nat) : Int :=
  let f : Int := 1024 * (prio + 1) * sections
  min (purse + f) (2 * f)

/-- The toll of the current group is charged to its purse (R408). -/
def chargeToll (s : State) : State :=
  let k := coreOf s s.g.pl.core
  let p := max (tabGet k.purses s.g.pl.slot 0 - s.g.toll) (-(2 ^ 20 : Nat))
  let s := setCore s s.g.pl.core { k with purses := tabSet k.purses s.g.pl.slot p 0 }
  { s with g := { s.g with toll := 0 } }

/-- EPOCH_REFILL (R408): every purse of a group that owns sections is refilled. -/
def execEpochRefill (s : State) : Res :=
  .next ((allGroups s).foldl (fun s g =>
    let n := (ownedSections s g).length
    if n = 0 then s
    else
      let k := coreOf s g.pl.core
      let prio := ((findLaunch s g.launch).map Launch.prio).getD 0
      setCore s g.pl.core { k with purses := tabSet k.purses g.pl.slot (purseAfter (tabGet k.purses g.pl.slot 0) prio n) 0 }) s)

end Sys2Proof.Machine
end

