-- ==== Sys2Proof/Machine/Future.lean ====
section
/-!
DEFINITION. Future words at their home slice: a load's arrival, a fill, parked and deferred waiters, wake-ups,
answers, refusals and cancellation (R40, R41, R53 to R58, R267, R268).
-/

namespace Sys2Proof.Machine

/-- The home slice of a word, with its node. -/
def homeOf (pa : Nat) : Nat := nodeOf pa * 256 + sliceOf pa

/-- The additions that a Mill holds, of those that have come to it: 64 chains and 256 additions, the rest waiting in
the mesh port in the order in which they came (R50). -/
def fitMill (addrs : List Nat) (n : Nat) : List Addition → List Addition
  | [] => []
  | a :: rest =>
    let addrs := setAdd addrs a.pa
    if 256 ≤ n ∨ 64 < addrs.length then [] else a :: fitMill addrs (n + 1) rest

/-- What `f` takes of the additions that have come to each Mill. -/
def atMills (s : State) (f : List Addition → List Addition) : List Addition :=
  ((s.chains.map (fun a => homeOf a.pa)).eraseDups).flatMap (fun h => f (s.chains.filter (fun a => homeOf a.pa == h)))

/-- Additions that no Mill has accepted yet (R50, R412). -/
def portAdditions (s : State) : List Addition := atMills s (fun l => l.drop (fitMill [] 0 l).length)

/-- The home slice's die is in deferral mode; another node's Pound is taken to be enabled. [log 43 DEDUCED] -/
def homeDefers (s : State) (pa : Nat) : Bool := nodeOf pa == s.io.nodeid && deferring s (sliceOf pa / 32)

/-- A future word must lie in the HBM4 of a node (R41); a node that is absent or cut off refuses the request itself
(R60, R489). [log 42 DEDUCED] -/
def futureOk (pa : Nat) : Bool := decide (offOf pa < Config.hbmBytes)

/-! ### Events of one source keep their order (R200) -/

/-- Where an event in flight is going: the core of a group, another node, or the I/O die. -/
def SentEvent.dest : SentEvent → Nat
  | .fut (.group g) | .fut (.vp g _) | .fut (.elem g _) => g / 16
  | .fut (.peer n _) => 256 + n
  | .fut (.queue _) => 1024
  | .spent core _ => core

/-- Events leave a source, behind those of it that are in flight. [log 120 DESIGN CHOICE] -/
def noteSent (s : State) (source : Nat) (es : List SentEvent) : State :=
  { s with sent := s.sent ++ es.map (fun e => (source, e)) }

/-- An event has arrived, or its waiter has gone. -/
def dropSent (s : State) (e : SentEvent) : State :=
  { s with sent := s.sent.eraseP (fun x => x.2 == e) }

/-- No event of the same source to the same destination left before this one. [log 120 DESIGN CHOICE] -/
def firstSent (s : State) (e : SentEvent) : Bool :=
  match s.sent.find? (fun x => x.2 == e) with
  | some (source, _) => (s.sent.find? (fun x => x.1 == source && x.2.dest == e.dest)).map (·.2) == some e
  | none => true

/-- Pound entries in use in a partition. -/
def parkedAt (s : State) (slice : Nat) : List Nat :=
  s.futs.filterMap (fun f => match f.st with
    | .parked sl i => if sl = slice then some i else none
    | _ => none)

/-- Deferred requests held by a slice. -/
def deferredAt (s : State) (slice : Nat) : Nat :=
  (s.futs.filter (fun f => match f.st with
    | .deferred sl => sl == slice
    | _ => false)).length

/-- The group of a waiter, for NACKCNT (R57). -/
def waiterGid : Waiter → Option Nat
  | .group g => some g
  | .vp g _ => some g
  | .elem g _ => some g
  | .queue _ => none
  | .peer _ _ => none

/-- Who asks for a group that holds a slot, or held it. -/
def whoGid (s : State) (gid asid : Nat) : Who :=
  match findGroup s gid with
  | some g => ⟨g.launch, g.pl.core, g.pl.slot, asid, g.steward, none, 0, false, false, false, .exact⟩
  | none => ⟨s.nextLaunch, gid / 16 % 256, gid % 16, asid, false, none, 0, false, false, false, .exact⟩

/-- Who sends a future load. -/
def futWho (s : State) (f : FutWait) : Who :=
  match waiterGid f.who with
  | some g => whoGid s g f.asid
  | none => ⟨s.nextLaunch, 256, 0, f.asid, false, none, 0, false, false, false, .exact⟩

/-- A future load at its home slice (R54 to R57): the value at once from a full word; a word read poisoned is
not emptied (R267); otherwise it takes the lowest free entry (R407), is deferred, or is refused. -/
def futHome (s : State) (f : FutWait) : FutWait × State :=
  let (v, bad, s) := sliceRead s f.pa 8
  if s.pm.isFull (f.pa / 8) then
    ({ f with st := .answered (BitVec.ofNat 64 v) bad, back := 64 },
     if f.emptying && !bad then setFull s f.pa false else s)
  else
    let h := homeOf f.pa
    if homeDefers s f.pa then
      if deferredAt s h < 32 then ({ f with st := .deferred h, back := 64 }, s) else ({ f with st := .nacked }, s)
    else
      let used := parkedAt s h
      match (List.range 128).find? (fun i => !used.contains i) with
      | some i => ({ f with st := .parked h i, back := 64 }, s)
      | none => ({ f with st := .nacked }, s)

/-- A future load arrives: at its home slice, or at the unit that refuses it, with poison and a record, because its
address is a hole or its node absent (R31, R60, R489). -/
def futArrive (s : State) (f : FutWait) : FutWait × State :=
  match paKind s f.pa with
  | .hole | .noNode => ({ f with st := .answered 0 true }, holeRecord s (futWho s f) f.pa false)
  | _ => futHome s f

/-- The waits of one waiter; an element wait is one waiter for each element. -/
def futOf (s : State) (w : Waiter) : Option FutWait := s.futs.find? (fun f => f.who == w)

/-- A request sent, which arrives at once; it is listed after all that arrived before. -/
def futSend (s : State) (f : FutWait) : State :=
  let (f', s) := futArrive s f
  { s with futs := s.futs.filter (fun g => g.who != f.who) ++ [f'] }

/-- A wait changed. -/
def updFut (s : State) (w : Waiter) (g : FutWait → FutWait) : State :=
  { s with futs := updFirst s.futs (fun f => f.who == w) g }

/-- A wait taken off the list: a parked or deferred one is cancelled, a wake-up on its way is discarded
(R55, R270). -/
def futDrop (s : State) (w : Waiter) : State :=
  { dropSent s (.fut w) with futs := s.futs.filter (fun f => f.who != w) }

/-- The deferred requests of a word answered by a fill, in deferral order, up to and with the oldest emptying
one (R56, R268); whether that one took the value comes with them. -/
def answerDeferred (pa : Nat) (v : Word) (bad : Bool) : List FutWait → List FutWait × Bool
  | [] => ([], false)
  | f :: rest =>
    match f.st with
    | .deferred _ =>
      if f.pa = pa then
        if f.emptying then ({ f with st := .answering v bad } :: rest, !bad)
        else
          let (r, t) := answerDeferred pa v bad rest
          ({ f with st := .answering v bad } :: r, t)
      else
        let (r, t) := answerDeferred pa v bad rest
        (f :: r, t)
    | _ =>
      let (r, t) := answerDeferred pa v bad rest
      (f :: r, t)

/-- A fill performed at the home slice of a word (R54, R56): the value written, the word full, every parked
waiter of the word woken and the deferred ones answered. -/
def futFill (s : State) (pa : Nat) (v : Word) : State :=
  let s := setFull (sliceWrite s pa 8 v.toNat) pa true
  let bad := s.pm.linePoison (lineOf pa)
  let futs := s.futs.map (fun f => match f.st with
    | .parked _ _ => if f.pa = pa then { f with st := .waking v bad } else f
    | _ => f)
  let woken := (List.range 128).flatMap (fun i =>
    (s.futs.filter (fun f => f.pa == pa && f.st == .parked (homeOf pa) i)).map (fun f => SentEvent.fut f.who))
  let (futs, taken) := answerDeferred pa v bad futs
  let answers := (futs.filter (fun f => s.futs.any (fun g => g.who == f.who && (match g.st with
    | .deferred _ => f.st != g.st
    | _ => false)))).map (fun f => SentEvent.fut f.who)
  let s := noteSent { s with futs := futs } (homeOf pa) (woken ++ answers)
  if taken then setFull s pa false else s

/-- A load of a word is given up. An emptying one whose answer is on its way leaves the word as it is: the word, still
empty, has its value and full state again (R270). [log 95 DESIGN CHOICE] -/
def putBack (s : State) (f : FutWait) : State :=
  let s := dropSent s (.fut f.who)
  match f.st with
  | .answering v false => if f.emptying && !s.pm.isFull (f.pa / 8) then futFill s f.pa v else s
  | _ => s

/-- The future loads of a group cancelled (R55, R270). One that has returned to a VP is not: its value waits for the
instruction, which is executed again. [log 95 DESIGN CHOICE] -/
def cancelFuts (s : State) (gid : Nat) : State :=
  let gone (f : FutWait) : Bool := match f.who, f.st with
    | .vp _ _, .answered _ _ => false
    | w, _ => waiterGid w == some gid
  let fs := s.futs.filter gone
  fs.foldl putBack { s with futs := s.futs.filter (fun f => !gone f) }

/-- A fill by physical address: a hole or an absent node discards it with a record (R31, R267). -/
def busFill (s : State) (w : Who) (pa : Nat) (v : Word) : State :=
  match paKind s pa with
  | .hole | .noNode => holeRecord s w pa true
  | .io => s
  | _ => futFill s pa v

/-- A refused request after its backoff: NACKCNT counts it, and it arrives again with the next backoff
doubled, to at most 4,096 cycles (R57). -/
def futReplay (s : State) (f : FutWait) : State :=
  let s := match waiterGid f.who with
    | some g => updGroup s g (fun g => { g with nackcnt := g.nackcnt + 1 })
    | none => s
  futSend s { f with back := min (2 * f.back) 4096 }

/-- The entry of a die into deferral mode: each parked entry becomes a deferred request while its slice has
room, and the rest are refused (R58). [log 101 DESIGN CHOICE] -/
def deferAll (s : State) (die : Nat) : State :=
  s.futs.foldl (fun s f => match f.st with
    | .parked sl _ =>
      if sl / 256 = s.io.nodeid ∧ sl % 256 / 32 = die then
        updFut s f.who (fun f => { f with st := if deferredAt s sl < 32 then .deferred sl else .nacked })
      else s
    | _ => s) s

/-- What changes deferral modes by `f`: every die that enters one has its waiters converted (R58). -/
def redefer (s : State) (f : State → State) : State :=
  let s' := f s
  (List.range 8).foldl (fun a d => if !deferring s d && deferring s' d then deferAll a d else a) s'

/-- A location found by a check must also be a future word (R41): the failure carries the permission failure's
level and entry (R85). [log 42 DEDUCED] -/
def futureLeaf (s : State) (w : Who) (va : Nat) : XFail :=
  match lookup s w va with
  | (.ok (t, leaf), _) =>
    match leaf with
    | some (lvl, ent, ea) => ⟨cPermission, lvl, ent, ea⟩
    | none => ⟨cPermission, if t.c = 21 ∨ t.c = 25 then 1 else 0, tlbEntry t, 0⟩
  | (.error f, _) => f

/-- The address of a future word checked: alignment, translation with the permission of `kind`, and R41.
[log 42 DEDUCED] -/
def checkFuture (s : State) (w : Who) (kind va : Nat) : Except EFail Nat × State :=
  match checkLoc s w kind (.va va) 8 8 with
  | (.ok (.pa pa), s') =>
    if futureOk pa then (.ok pa, s')
    else (.error ⟨cPermission, va, some (futureLeaf s w va, va)⟩, s')
  | (.ok (.sp _ _), s') => (.error ⟨cPermission, va, none⟩, s')
  | (.error f, s') => (.error f, s')

end Sys2Proof.Machine
end

