-- ==== Sys2Proof/Machine/Ration.lean ====
section
/-!
DEFINITION. Rationed lines and blocks: reservation and commitment of consuming reads, declarations and the
quota, the declaration table, line-spent events and scope closes (R39, R42 to R48, R107 to R109).
-/

namespace Sys2Proof.Machine

/-- What carries a ration: an L2 line, or a block of a scratchpad (core × 512 + block). -/
inductive RUnit where
  | line (l : Nat)
  | block (k : Nat)
  deriving DecidableEq, Repr

/-- The unit of a place; none where there is no line to charge (R257). -/
def unitOf (s : State) (l : PLoc) : Option RUnit :=
  match l with
  | .pa a =>
    match paKind s a with
    | .hbm | .host => some (.line (lineOf a))
    | _ => none
  | .sp core off => some (.block (blockKey core off))

def rationOf (s : State) (u : RUnit) : RationRec :=
  match u with
  | .line l => ((s.pm.line? l).map Line.ration).getD RationRec.reset
  | .block k => tabGet s.ra.blocks k RationRec.reset

def setRation (s : State) (u : RUnit) (r : RationRec) : State :=
  match u with
  | .line l => { s with pm := s.pm.setLine l (fun x => { x with ration := r }) }
  | .block k => { s with ra := { s.ra with blocks := tabSet s.ra.blocks k r RationRec.reset } }

/-- Scope codes of R39. -/
def teamScope (core team : Nat) : Nat := core * 16 + team
/-- [log 49 DEDUCED] -/
def clusterScope (origin : Nat) : Nat := 4096 + origin * 16

/-! ### Declarations at a line or block (R44, R45) -/

/-- Live lines of the set of a line. -/
def liveInSet (s : State) (l : Nat) : Nat :=
  (s.pm.lines.filter (fun x => sameSet (x.addr * 128) (l * 128) && x.ration.st == .live)).length

/-- The ration quota of a line's set (R45). -/
def quota (s : State) (l : Nat) : Nat := if 16 ≤ s.pm.ways (l * 128) then 8 else 7

/-- What a declaration comes to. -/
inductive DeclRes where
  | made | gained | refused | held
  deriving DecidableEq, Repr

/-- The outside field of a line after a declaration or a drop: no host copy of a line of HBM4; a host-window line is
held as it was, or shared once fetched, and after a drop (`gone`) not at all (R61, R484). -/
def outsideOwned (host gone : Bool) (o : Nat) : Nat :=
  if host then (if gone then 0 else if o = 0 then 5 else o) else 0

/-- The host's copies of both halves of a line are given up for a declaration or a drop of it (R484, R485). -/
def ownLine (s : State) (l : Nat) (gone : Bool) : State :=
  let host := paKind s (l * 128) == .host
  { takeBack s (mustRecall s true (bothHalves l)) with
    pm := s.pm.setLine l (fun x => { x with outside := outsideOwned host gone x.outside }) }

/-- A declaration of `k` reads by `scope` at a unit (R44, R484). [log 38 DEDUCED] -/
def declareAt (s : State) (u : RUnit) (k scope decl : Nat) : DeclRes × State :=
  let r := rationOf s u
  if r.st = .live then
    if r.scope = scope ∧ r.count + k ≤ 255 then (.gained, setRation s u { r with count := r.count + k })
    else (.refused, s)
  else
    match u with
    | .block _ => (.made, setRation s u ⟨.live, k, 0, scope, decl⟩)
    | .line l =>
      if quota s l ≤ liveInSet s l then (.held, s)
      else (.made, setRation (ownLine (touchLine s l) l false) u ⟨.live, k, 0, scope, decl⟩)

/-- The record of a refused declaration (R44, R440), to the queue of the declaring launch. -/
def refusedRecord (s : State) (launch : Option Nat) (core slot asid : Nat) (u : RUnit) : State :=
  let r := rationOf s u
  let (addr, blk) := match u with
    | .line l => (l * 128, 0)
    | .block k => (k % 512 * 4096, 2 ^ 63 + k / 512 * 2 ^ 40)
  writeRecord s launch 0x04 0 core slot asid [addr, r.count + r.scope * 2 ^ 16 + blk]

/-! ### The declaration table (R47) -/

def entryOf (s : State) (core idx : Nat) : Option DeclEntry :=
  s.ra.entries.find? (fun e => e.core == core && e.idx == idx)

def updEntry (s : State) (core idx : Nat) (f : DeclEntry → DeclEntry) : State :=
  { s with ra := { s.ra with entries := updFirst s.ra.entries (fun e => e.core == core && e.idx == idx) f } }

/-- The lowest free entry of a core's table. -/
def freeEntry (s : State) (core : Nat) : Option Nat :=
  (List.range 64).find? (fun i => (entryOf s core i).isNone)

/-- An entry ends: its notify future, if any, is filled (R47, R48, R276). -/
def endEntry (s : State) (core idx : Nat) (v : Word) : State :=
  match entryOf s core idx with
  | none => s
  | some e =>
    let s := match e.notify with
      | some pa => busFill s (whoGid s e.gid e.asid) pa v
      | none => s
    { s with ra := { s.ra with
        entries := s.ra.entries.filter (fun x => !(x.core == core && x.idx == idx))
        closes := s.ra.closes.map (fun c => { c with entries := c.entries.filter (· != (core, idx)) }) } }

/-- A line-spent event at its core: the entry's line number falls, and at zero it ends with the value 1
(R47). An entry whose declaration is still being made does not end. -/
def spentEvent (s : State) (core idx : Nat) : State :=
  let s := updEntry s core idx (fun e => { e with lines := e.lines - 1 })
  match entryOf s core idx with
  | some e => if e.sealed && e.lines == 0 then endEntry s core idx 1 else s
  | none => s

/-- A line or block newly live under an entry. -/
def countMade (s : State) (core idx : Nat) : State :=
  updEntry s core idx (fun e => { e with lines := e.lines + 1, made := e.made + 1 })

/-- A declaration held at its slice is tried when a live line of its set ends: among the sixteen places of
the slice, in arrival order, while the set has room or the line is live already; a freed place goes to the oldest one
in the port (R37, R45). [log 38 DEDUCED] -/
def admitHeld (s : State) : Nat → State
  | 0 => s
  | n + 1 =>
    let placed (h : Held) : Bool :=
      let mine := s.ra.held.filter (fun x => sliceOf (x.line * 128) == sliceOf (h.line * 128))
      (mine.take 16).contains h
    match s.ra.held.find? (fun h => placed h &&
        (decide (liveInSet s h.line < quota s h.line) || (rationOf s (.line h.line)).st == .live)) with
    | none => s
    | some h =>
      let s := { s with ra := { s.ra with held := s.ra.held.erase h } }
      match declareAt s (.line h.line) h.count h.scope h.decl with
      | (.made, s) => admitHeld (countMade s h.core h.decl) n
      | (.refused, s) =>
        let e := entryOf s h.core h.decl
        let g := e.bind (fun e => findGroup s e.gid)
        admitHeld (refusedRecord s (g.map Group.launch) h.core ((e.map (fun e => e.gid % 16)).getD 0)
          ((e.map DeclEntry.asid).getD 0) (.line h.line)) n
      | (_, s) => admitHeld s n

/-- A declaration of a line waits ahead (R37, R45). [log 38 DEDUCED] -/
def heldBack (s : State) (u : RUnit) : Bool :=
  match u with
  | .line l => s.ra.held.any (fun h => h.line == l)
  | .block _ => false

/-- A declaration put behind those that wait (R45). -/
def holdDecl (s : State) (u : RUnit) (k scope core idx : Nat) : State :=
  match u with
  | .line l => { s with ra := { s.ra with held := s.ra.held ++ [⟨l, k, scope, idx, core⟩] } }
  | .block _ => s

/-- A unit declared under an entry by the group: made, gained, refused with its record, or held, as one is behind a
declaration of its line that waits (R37). -/
def declareUnit (s : State) (launch : Option Nat) (slot asid : Nat) (u : RUnit) (k scope core idx : Nat) : State :=
  if heldBack s u then holdDecl s u k scope core idx
  else
    match declareAt s u k scope idx with
    | (.made, s) => countMade s core idx
    | (.gained, s) => s
    | (.refused, s) => refusedRecord s launch core slot asid u
    | (.held, s) => holdDecl s u k scope core idx

/-- A place declared under an entry: one in a hole or of an absent node is refused with its record, and one that holds
no line is not declared (R31, R60). [log 38 DEDUCED] -/
def declarePlace (s : State) (w : Who) (l : PLoc) (k scope core idx : Nat) : State :=
  match unitOf s l with
  | some u => declareUnit s (some w.launch) w.slot w.asid u k scope core idx
  | none =>
    match l with
    | .pa a => if paKind s a = .io then s else holeRecord s w a true
    | .sp _ _ => s

/-! ### Consuming reads (R42 to R44, R257) -/

/-- One count reserved; none where the unit has none to give (R43). -/
def reserveUnit (s : State) (u : RUnit) : Option State :=
  let r := rationOf s u
  if r.st = .live ∧ r.reserved < r.count then some (setRation s u { r with reserved := r.reserved + 1 }) else none

/-- A reservation given back. -/
def releaseUnit (s : State) (u : RUnit) : State :=
  let r := rationOf s u
  setRation s u { r with reserved := r.reserved - 1 }

/-- Where the line-spent event of a unit comes from: its slice, or 2^17 above its core (R200). -/
def unitSource : RUnit → Nat
  | .line l => homeOf (l * 128)
  | .block k => 2 ^ 17 + k / 512

/-- A reserved count committed: at zero the line is dropped without write-back, the block keeps its bytes, and
the line-spent event leaves for its core (R44, R47, R108). -/
def commitUnit (s : State) (u : RUnit) : State :=
  let r := rationOf s u
  if r.st ≠ .live then s
  else if 1 < r.count then setRation s u { r with count := r.count - 1, reserved := r.reserved - 1 }
  else
    let core := match u with
      | .line _ => r.scope / 16 % 256
      | .block k => k / 512
    let s := setRation s u { r with st := .spent, count := 0, reserved := 0 }
    let s := match u with
      | .line l => let s := ownLine s l true; { s with pm := s.pm.forget l }
      | .block _ => s
    let s := noteSent s (unitSource u) [.spent core r.decl]
    let s := { s with ra := { s.ra with events := s.ra.events ++ [(core, r.decl)] } }
    match u with
    | .line _ => admitHeld s s.ra.held.length
    | .block _ => s

/-- The units that the places read, each with the lowest element that reads it, ascending (R42). -/
def chargedUnits (s : State) (ls : List (Nat × PLoc)) : List (Nat × RUnit) :=
  ls.foldl (fun acc l =>
    match unitOf s l.2 with
    | some u => if acc.any (fun a => a.2 == u) then acc else acc ++ [(l.1, u)]
    | none => acc) []

/-- Reservations made in ascending element order: those made, and the element at which one fails (R43). -/
def reserveAll (s : State) : List (Nat × RUnit) → List RUnit × Option Nat × State
  | [] => ([], none, s)
  | (e, u) :: rest =>
    match reserveUnit s u with
    | some s =>
      let (us, f, s) := reserveAll s rest
      (u :: us, f, s)
    | none => ([], some e, s)

/-! ### Closes (R48, R109) -/

/-- A RATION_RESIDUE record, to the queue of the launch of the scope (R440). -/
def residueRecord (s : State) (launch : Option Nat) (asid core : Nat) (u : RUnit) (count scope : Nat) : State :=
  let (addr, blk) := match u with
    | .line l => (l * 128, 0)
    | .block k => (k % 512 * 4096, 2 ^ 63 + k / 512 * 2 ^ 40)
  writeRecord s launch 0x05 0 core 0 asid [addr, count + scope * 2 ^ 16 + blk]

/-- The launch and the ASID of a scope, from a team that has it. -/
def scopeLaunch (s : State) (scope : Nat) : Option Nat × Nat :=
  match s.teams.find? (fun t => if scope / 4096 = 0 then teamScope t.core t.num == scope else
      (s.clusters.any (fun c => c.launch == t.launch && c.idx == t.cluster && clusterScope c.origin == scope))) with
  | some t => (some t.launch, t.asid)
  | none => (none, 0)

/-- A close ends the ration state of this unit: it is live or Spent under the scope (R44, R48), and not by a
declaration whose entry was taken after the close began (R277). [log 48 DEDUCED] -/
def closesUnit (s : State) (c : Close) (core : Nat) (r : RationRec) : Bool :=
  r.scope == c.scope && (match r.st with
    | .none => false
    | .live => c.entries.contains (core, r.decl)
    | .spent => c.entries.contains (core, r.decl) || !s.ra.entries.any (fun e => e.core == core && e.idx == r.decl))

/-- One unit of a scope returned to none, a live one with its residue record; its dirty data stays (R44, R48).
[log 47 DEDUCED, 48 DEDUCED] -/
def closeUnit (s : State) (c : Close) (u : RUnit) : State :=
  let r := rationOf s u
  let s := if r.st = .live then residueRecord s c.launch c.asid (r.scope / 16 % 256) u r.count r.scope else s
  let s := match u with
    | .line l => if r.st = .spent then { s with pm := { s.pm with lines := s.pm.lines.filter (fun x => x.addr != l) } } else s
    | .block _ => s
  setRation s u RationRec.reset

/-- A slice scanned for the lines of a close (R44, R48). -/
def scanSlice (s : State) (slice : Nat) (c : Close) : State :=
  let ls := s.pm.lines.filter (fun x => sliceOf (x.addr * 128) == slice && closesUnit s c (c.scope / 16 % 256) x.ration)
  let s := ls.foldl (fun s x => closeUnit s c (.line x.addr)) s
  if ls = [] then s else admitHeld s s.ra.held.length

/-- A core's blocks scanned (R108, R109). -/
def scanCore (s : State) (core : Nat) (c : Close) : State :=
  let ks := s.ra.blocks.filter (fun kv => kv.1 / 512 == core && closesUnit s c core kv.2)
  ks.foldl (fun s kv => closeUnit s c (.block kv.1)) s

/-- A close of a scope begun: the slices and cores to scan, and the entries occupied at this moment
(R48, R109, R277). [log 47 DEDUCED] -/
def beginClose (s : State) (scope launch asid : Nat) (gid : Option Nat) (cores : List Nat) : State :=
  let slices := if scope / 4096 = 0 then List.range 256 else []
  let es := (s.ra.entries.filter (fun e => e.scope == scope)).map (fun e => (e.core, e.idx))
  { s with ra := { s.ra with closes := s.ra.closes ++ [⟨scope, gid, some launch, asid, slices, cores, es⟩] } }

/-- The close with every scan acknowledged: the entries still occupied end with the value 0 (R48). [log 47 DEDUCED] -/
def endClose (s : State) (c : Close) : State :=
  let s := { s with ra := { s.ra with closes := s.ra.closes.erase c } }
  c.entries.foldl (fun s e => endEntry s e.1 e.2 0) s

end Sys2Proof.Machine
end

