-- ==== Sys2Proof/Machine/Elem.lean ====
section
/-!
DEFINITION. The element-wise frame (R279 to R282): the checks in their order, the operands of each active
element, and the results written; for results that are values, and for mask bits.
-/

namespace Sys2Proof.Machine

/-- TAG_MISMATCH naming a register. [log 16 DEDUCED] -/
def tagFail (s : State) (r : Nat) : VOut := .fail s cTag (regVal r) none false

/-- The tag of a vector register. -/
def tagOf (s : State) (r : Nat) : Nat := (vregOf s.g r).tag

/-- Arithmetic takes integers, idx and floats; logic and shifts integers and idx (R283, R285). [log 14 DEDUCED] -/
def numTag (t : Nat) : Bool := isInt t || isFloat t
def intTag (t : Nat) : Bool := isInt t
def intOrBit (t : Nat) : Bool := isInt t || t == tagBit

/-- A tag that an arithmetic source may carry at all (R167). -/
def sourceTag (bitOk : Bool) (t : Nat) : Bool := t != 0 && !isMx t && (bitOk || t != tagBit) && t != 0

/-- The operation's tag for two sources (R167), `k` on it, or TAG_MISMATCH naming the offending one.
[log 16 DEDUCED] -/
def pairK (s : State) (bitOk : Bool) (a ta b tb : Nat) (k : Nat → VOut) : VOut :=
  if sourceTag bitOk ta = false then tagFail s a
  else if sourceTag bitOk tb = false then tagFail s b
  else if bitOk && ta == tagBit && tb == tagBit then k tagBit
  else
    match pairTag ta tb with
    | some t => k t
    | none => tagFail s b

/-- A value as the operation's tag reads it: an integer extended by its own signedness and taken in the
width and signedness of the tag; a float unchanged (R167). [log 16 DEDUCED] -/
def asTag (t : Nat) (v : Val) : Val :=
  match v with
  | .int z => .int (intVal t (wrapN z (cw t)))
  | x => x

/-- A scalar operand read in a tag (R280). -/
def scalarVal (fmode tag : Nat) (w : Word) : Val := valOf fmode tag (w.toNat % 2 ^ cw tag)

/-- The destination checked and its rows granted: tags, capacity of the registers named, rows
(R119, R127, R131, R168). -/
def destK (s : State) (c : VCtx) (d t : Nat) (srcs : List Nat) (k : Nat → VOut) : VOut :=
  if destOk s.g d t = false then tagFail s d
  else
    let dt := destTag s.g d t
    let v := vregOf s.g d
    capCheck s c (srcs.map (fun r => (r, tagOf s r)) ++ [(d, dt)]) (fun _ =>
      rowCheck s d (if c.indep = none then rowsNeed dt v.gf v.td (sideLanes s s.g (vSide d)) c.vl else gfRows v.gf)
        (fun _ => k dt))

/-- A binary or fused element-wise form: `f` on the operation's tag and the operands a, b and d gives the
value and its flags; `exact` says that the form does not round (R283 to R285). -/
def binary (s : State) (c : VCtx) (d a b m : Nat) (k fused exact : Bool) (ok : Nat → Bool)
    (f : Nat → Val → Val → Val → Val × Nat) : VOut :=
  let srcs := (if k then [a] else [a, b]) ++ (if fused then [d] else [])
  let bitOk := ok tagBit
  sideCheck s false (srcs ++ [d]) [m] fun _ =>
  mxIndep s c (srcs ++ [d]) fun _ =>
  pairK s bitOk a (tagOf s a) b (if k then tagOf s a else tagOf s b) fun t0 =>
  if ok t0 = false then tagFail s a
  else
    let go (t : Nat) : VOut :=
      destK s c d t srcs fun dt =>
      let es := active s.g c m
      let body (sv : Nat → Val) : VOut :=
        opsClean s c m [(srcs, es)] fun _ =>
        let rs := es.map (fun e =>
          let (v, fl) := f t (asTag t (elemVal s c.fmode a e)) (asTag t (sv e))
            (if fused then asTag t (elemVal s c.fmode d e) else .int 0)
          (e, v, fl))
        .done (writeVals s c d t (rs.map (fun r => (r.1, r.2.1))) (rs.foldl (fun x r => x ||| r.2.2) 0)
          (if exact && dt == t then some 0 else none))
      if k then scalarOp s c b fun w => body (fun _ => scalarVal c.fmode (tagOf s a) w)
      else body (fun e => elemVal s c.fmode b e)
    if fused then pairK s false d t0 d (tagOf s d) go else go t0

/-- A unary element-wise form of VARITH or VLOGIC: T is the source's tag. -/
def unary (s : State) (c : VCtx) (d b m : Nat) (exact : Bool) (ok : Nat → Bool)
    (f : Nat → Val → Val × Nat) : VOut :=
  sideCheck s false [b, d] [m] fun _ =>
  mxIndep s c [b, d] fun _ =>
  let t := tagOf s b
  if ok t = false then tagFail s b
  else
    destK s c d t [b] fun dt =>
    let es := active s.g c m
    opsClean s c m [([b], es)] fun _ =>
    let rs := es.map (fun e => (e, f t (elemVal s c.fmode b e)))
    .done (writeVals s c d t (rs.map (fun r => (r.1, r.2.1))) (rs.foldl (fun x r => x ||| r.2.2) 0)
      (if exact && dt == t then some 0 else none))

/-- A comparison: mask bits written for the active elements, flags raised (R286). -/
def compareForm (s : State) (c : VCtx) (d a b m : Nat) (k : Bool) (f : Val → Val → Bool × Nat) : VOut :=
  let srcs := if k then [a] else [a, b]
  sideCheck s false srcs [m, d] fun _ =>
  mxIndep s c srcs fun _ =>
  pairK s false a (tagOf s a) b (if k then tagOf s a else tagOf s b) fun t =>
  capCheck s c (srcs.map (fun r => (r, tagOf s r))) fun _ =>
  let es := active s.g c m
  let body (sv : Nat → Val) : VOut :=
    opsClean s c m [(srcs, es)] fun _ =>
    let rs := es.map (fun e => (e, f (asTag t (elemVal s c.fmode a e)) (asTag t (sv e))))
    let s' := writeMask s d (rs.map (fun r => (r.1, r.2.1, false)))
    .done (putRnd s' c ((rndOf s' c false).raise (rs.foldl (fun x r => x ||| r.2.2) 0)))
  if k then scalarOp s c b fun w => body (fun _ => scalarVal c.fmode (tagOf s a) w)
  else body (fun e => elemVal s c.fmode b e)

/-- A value given to each active element in vd's own tag (R280, R288, R311). -/
def generate (s : State) (c : VCtx) (d m : Nat) (access mxOk : Bool) (f : Nat → Val) : VOut :=
  let t := tagOf s d
  sideCheck s access [d] [m] fun _ =>
  mxIndep s c [d] fun _ =>
  if t = 0 ∨ t = tagBit ∨ (isMx t ∧ mxOk = false) then tagFail s d
  else
    destK s c d t [] fun _ =>
    maskClean s c m fun _ =>
    .done (writeVals s c d t ((active s.g c m).map (fun e =>
      (e, if isFloat t then .flt (f e).ex else f e))) 0 none)

/-- Patterns copied into a destination, each with its element's poison; the elements of `es` are written
(R281, R287, R294, R425). -/
def copyPats (s : State) (c : VCtx) (d tag : Nat) (ws : List (Nat × Nat × Bool)) : State :=
  writeElems s c d tag ws []

end Sys2Proof.Machine
end

