-- ==== Sys2Proof/Machine/VecMem.lean ====
section
/-!
DEFINITION. VLD and VST: vector loads and stores, consuming and fault-first forms, and segments
(R248 to R259).
-/

namespace Sys2Proof.Machine

/-- How a form computes its addresses (R251). -/
inductive AForm where
  | unit
  | stride (r : Nat)
  | index (r sc : Nat)
  deriving DecidableEq, Repr

/-- The index register, if any. -/
def AForm.idx : AForm → List Nat
  | .index r _ => [r]
  | _ => []

def AForm.isIndex : AForm → Bool
  | .index _ _ => true
  | _ => false

def AForm.isUnit : AForm → Bool
  | .unit => true
  | _ => false

/-- Bytes that an access to an element of a container takes: a packed element lies in one byte (R249). -/
def accBytes (cw : Nat) : Nat := max 1 (cw / 8)

/-- The register that R250 refuses: the data register for its tag, or the index register. -/
def memTagBad (s : State) (r : Nat) (f : AForm) : Option Nat :=
  let t := tagOf s r
  if t = 0 ∨ isMx t ∨ (cw t < 8 ∧ f.isUnit = false) then some r
  else f.idx.find? (fun i => !(isInt (tagOf s i) && decide (32 ≤ cw (tagOf s i))))

/-- `k` on the function that gives each element its request (R251). -/
def withAddrs (s : State) (c : VCtx) (sp : Bool) (a : Nat) (f : AForm) (w : Nat) (k : (Nat → EReq) → VOut) : VOut :=
  scalarOp s c a fun base =>
  match f with
  | .unit => k (fun e => ⟨e, locAt sp base ((e * w / 8 : Nat) : Int), none⟩)
  | .stride r => scalarOp s c r fun st => k (fun e => ⟨e, locAt sp base ((e : Int) * st.toInt), none⟩)
  | .index r sc => k (fun e =>
    ⟨e, locAt sp base (elemInt s r e * (2 ^ sc : Nat)), if elemPoison s r e then some e else none⟩)

/-- The checks that come before any element is accessed (R139, R250, R127, R425). -/
def memChecks (s : State) (c : VCtx) (r m : Nat) (f : AForm) (k : Unit → VOut) : VOut :=
  sideCheck s true (r :: f.idx) [m] fun _ =>
  mxIndep s c [r] fun _ =>
  match memTagBad s r f with
  | some x => tagFail s x
  | none => capCheck s c ((r :: f.idx).map (fun x => (x, tagOf s x))) k

/-- Rows that a register keeps its tag with. -/
def rowsAs (s : State) (c : VCtx) (r : Nat) : Nat :=
  let v := vregOf s.g r
  if c.indep = none then rowsNeed v.tag v.gf v.td (sideLanes s s.g (vSide r)) c.vl else gfRows v.gf

/-- The elements read at the places, in ascending order: pattern and poison (R249, R253). -/
def readElems (s : State) (who : Nat → Who) (w : Nat) : List (Nat × PLoc) → List (Nat × Nat × Bool) × State
  | [] => ([], s)
  | (e, l) :: rest =>
    let (v, p, s) := plRead s (who e) l (accBytes w)
    let (ws, s) := readElems s who w rest
    ((e, if w < 8 then v / 2 ^ (e * w % 8) % 2 ^ w else v, p) :: ws, s)

/-- A load (R255, R256, R257). A consuming one finds every byte as it is (R196). -/
def loadForm (s : State) (c : VCtx) (d a m : Nat) (sp : Bool) (f : AForm) (ff consuming : Bool) : VOut :=
  memChecks s c d m f fun _ =>
  rowCheck s d (rowsAs s c d) fun _ =>
  let t := tagOf s d
  let w := cw t
  withAddrs s c sp a f w fun req =>
  let es := active s.g c m
  let kind := if consuming then kReadWrite else kRead
  let who := fun e => whoE s c d e f.isIndex
  let n := accBytes w
  let (ls, fail, s1) := probe s who kind n n f.isIndex (requests s c m req)
  let units := if consuming then chargedUnits s1 ls else []
  if units.any (fun u => heldBack s1 u.2) then .wait s
  else
    let (us, tooMany, s1) := reserveAll s1 units
    let ls := match tooMany with
      | some e => ls.filter (fun l => decide (l.1 < e))
      | none => ls
    let fail := match tooMany with
      | some e => some (e, (⟨cRation, (req e).loc.addr, none⟩ : EFail))
      | none => fail
    let short := match fail with
      | some (e, _) => ff && es.head? != some e
      | none => false
    let (s1, c1) := match fail with
      | some (e, _) =>
        if short then ({ s1 with g := { s1.g with vc := { s1.g.vc with vl := e } } }, { c with vl := e }) else (s1, c)
      | none => (s1, c)
    let (ws, s1) := readElems s1 (if consuming then fun e => (who e).exact else who) w ls
    let s1 := writeElems s1 c1 d t ws []
    let s1 := us.foldl commitUnit s1
    match (if short then none else fail) with
    | some (e, x) => memFail s1 (who e) kind e x
    | none => .done s1

/-! ### Stores -/

/-- A place in a hole or at an unreachable node: what is written there is discarded with one record (R31, R253). -/
def plAbsent (s : State) (l : PLoc) : Bool :=
  match l with
  | .pa a => paKind s a == .hole || paKind s a == .noNode
  | .sp _ _ => false

/-- One element written at its place; a packed one is merged into its byte (R175, R249). [log 68 DEDUCED] -/
def storeElem (s : State) (who : Who) (w e : Nat) (l : PLoc) (v : Nat) : State :=
  if w < 8 then
    let sh := 2 ^ (e * w % 8)
    if plAbsent s l then plWrite s who l 1 (v * sh)
    else
      let (old, _, s) := plRead s who.exact l 1
      plWrite s who l 1 (old - old / sh % 2 ^ w * sh + v * sh)
  else plWrite s who l (w / 8) v

/-- Places that the written elements cover: for packed ones, bytes of which every element is written.
[log 9 DEDUCED] -/
def coveredPlaces (w : Nat) (ls : List (Nat × PLoc)) : List (PLoc × Nat) :=
  if w < 8 then
    (ls.filter (fun l => decide (8 / w ≤ (ls.filter (fun x => x.2 == l.2)).length))).map (fun l => (l.2, 1))
  else ls.map (fun l => (l.2, w / 8))

/-- Places overlap: only then does the order of an unordered store show. -/
def overlaps (ls : List (Nat × PLoc)) : Bool := (ls.map (·.2)).eraseDups.length != ls.length

/-- A store (R259): `unordered` for the `.u` forms. -/
def storeForm (s : State) (c : VCtx) (v a m : Nat) (sp : Bool) (f : AForm) (unordered : Bool) : VOut :=
  memChecks s c v m f fun _ =>
  let w := cw (tagOf s v)
  withAddrs s c sp a f w fun req =>
  let who := fun e => whoE s c v e f.isIndex
  let n := accBytes w
  let (ls, fail, s1) := probe s who kWrite n n f.isIndex (requests s c m req)
  let (ls, fail) := dataClean s v req ls fail
  let s1 := if unordered then { s1 with freeCtr := s1.freeCtr + ls.length } else s1
  let order := if unordered && overlaps ls then freeOrder s.freeCtr ls else ls
  let s1 := order.foldl (fun s1 l => storeElem s1 (who l.1) w l.1 l.2 (elemOf s v l.1 % 2 ^ w)) s1
  let s1 := plClear s1 (coveredPlaces w ls)
  match fail with
  | some (e, x) => memFail s1 (who e) kWrite e x
  | none => .done s1

/-! ### Segments (R258) -/

/-- Size of a slot. -/
def slotSize (tag : Nat) : Nat := if cw tag = 4 then 32 else 64

/-- The checks of a segment form, and its slots: the block and the request of each. -/
def segForm (s : State) (c : VCtx) (r a m kind : Nat) (k : (Nat → Who) → List (Nat × PLoc) →
    Option (Nat × EFail) → State → VOut) : VOut :=
  sideCheck s true [r] [m] fun _ =>
  let t := tagOf s r
  if isMx t = false ∨ c.indep ≠ none then tagFail s r
  else
    capCheck s c [(r, t)] fun _ =>
    scalarOp s c a fun base =>
    let sz := slotSize t
    if base.toNat % sz ≠ 0 then .fail s cMisaligned base none true
    else
      let who := fun e => whoE s c r e false
      let req (j : Nat) : EReq := ⟨32 * j, locAt false base ((j * sz : Nat) : Int), none⟩
      let js := blocksOf (active s.g c m)
      let qs := match maskBad s c m with
        | none => js.map req
        | some x => (js.filter (fun j => decide (j < x / 32))).map req ++
          [{ req (x / 32) with bad := some (req (x / 32)).loc.addr }]
      let (ls, fail, s1) := probe s who kind sz sz false qs
      k who ls fail s1

/-- The elements and the scale of a slot's value. [log 68 DEDUCED] -/
def slotElem (tag v i : Nat) : Nat := v / 2 ^ (i * cw tag) % 2 ^ cw tag
/-- [log 68 DEDUCED] -/
def slotScale (tag v : Nat) : Nat := v / 2 ^ (32 * cw tag) % 256

def loadSeg (s : State) (c : VCtx) (d a m : Nat) : VOut :=
  rowCheck s d (rowsAs s c d) fun _ =>
  segForm s c d a m kRead fun who ls fail s1 =>
  let t := tagOf s d
  let es := active s.g c m
  let (ws, scs, s1) := ls.foldl (fun (acc : List (Nat × Nat × Bool) × List (Nat × Nat) × State) l =>
    let (v, p, s') := plRead acc.2.2 (who l.1) l.2 (slotSize t)
    let els := (List.range 32).map (fun i =>
      (l.1 + i, if es.contains (l.1 + i) then slotElem t v i else 0, p))
    (acc.1 ++ els, acc.2.1 ++ [(l.1 / 32, slotScale t v)], s')) ([], [], s1)
  let s1 := writeElems s1 c d t ws scs
  match fail with
  | some (e, x) => memFail s1 (who e) kRead e x
  | none => .done s1

/-- A segment store; where segments overlap, either may be the later (R188, R258). [log 68 DEDUCED] -/
def storeSeg (s : State) (c : VCtx) (v a m : Nat) : VOut :=
  segForm s c v a m kWrite fun who ls fail s1 =>
  let t := tagOf s v
  let r := vregOf s.g v
  let es := active s.g c m
  let hit (j : Nat) : Bool := es.any (fun e => decide (e / 32 = j / 32) && elemPoison s v e)
  let bad : Option (Nat × PLoc) := ls.find? (fun l => hit l.1)
  let fail : Option (Nat × EFail) := match bad with
    | some b =>
      let base := getX s a
      let base := if c.inAib then s.g.hSnap.toList.getD (a % 16) 0 else base
      some (b.1, (⟨cPoison, (locAt false base ((b.1 / 32 * slotSize t : Nat) : Int)).addr, none⟩ : EFail))
    | none => fail
  let ls : List (Nat × PLoc) := match bad with
    | some b => ls.filter (fun l => decide (l.1 < b.1))
    | none => ls
  let slot (e : Nat) : Nat :=
    (List.range 32).foldl (fun a i =>
      if es.contains (e + i) then a + r.elem (e + i) % 2 ^ cw t * 2 ^ (i * cw t) else a) (r.scale (e / 32) % 256 * 2 ^ (32 * cw t))
  let order := if overlaps ls then freeOrder s1.freeCtr ls else ls
  let s1 := { s1 with freeCtr := s1.freeCtr + ls.length }
  let s1 := order.foldl (fun s1 l => plWrite s1 (who l.1) l.2 (slotSize t) (slot l.1)) s1
  let s1 := plClear s1 (ls.map (fun l => (l.2, slotSize t)))
  match fail with
  | some (e, x) => memFail s1 (who e) kWrite e x
  | none => .done s1

/-! ### The forms -/

def vldV (d a : Fin 32) (m : Fin 8) (p : Bool) (s : State) (c : VCtx) : VOut := loadForm s c d a m p .unit false false

def vldSV (d a st : Fin 32) (m : Fin 8) (p : Bool) (s : State) (c : VCtx) : VOut :=
  loadForm s c d a m p (.stride st) false false

def vldXV (d a i : Fin 32) (m : Fin 8) (p : Bool) (e : Fin 8) (s : State) (c : VCtx) : VOut :=
  loadForm s c d a m p (.index i e) false false

def vldFfV (d a : Fin 32) (m : Fin 8) (s : State) (c : VCtx) : VOut :=
  loadForm s c d a m false .unit true false

def vldSegV (d a : Fin 32) (m : Fin 8) (s : State) (c : VCtx) : VOut := loadSeg s c d a m

def vldCV (d a : Fin 32) (m : Fin 8) (p : Bool) (s : State) (c : VCtx) : VOut := loadForm s c d a m p .unit false true

def vldCsV (d a st : Fin 32) (m : Fin 8) (p : Bool) (s : State) (c : VCtx) : VOut :=
  loadForm s c d a m p (.stride st) false true

def vldCxV (d a i : Fin 32) (m : Fin 8) (p : Bool) (e : Fin 8) (s : State) (c : VCtx) : VOut :=
  loadForm s c d a m p (.index i e) false true

def vstV (v a : Fin 32) (m : Fin 8) (p : Bool) (s : State) (c : VCtx) : VOut := storeForm s c v a m p .unit false

def vstSV (v a st : Fin 32) (m : Fin 8) (p : Bool) (s : State) (c : VCtx) : VOut :=
  storeForm s c v a m p (.stride st) false

def vstXV (v a i : Fin 32) (m : Fin 8) (p : Bool) (e : Fin 8) (s : State) (c : VCtx) : VOut :=
  storeForm s c v a m p (.index i e) false

def vstUV (v a : Fin 32) (m : Fin 8) (p : Bool) (s : State) (c : VCtx) : VOut := storeForm s c v a m p .unit true

def vstSuV (v a st : Fin 32) (m : Fin 8) (p : Bool) (s : State) (c : VCtx) : VOut :=
  storeForm s c v a m p (.stride st) true

def vstXuV (v a i : Fin 32) (m : Fin 8) (p : Bool) (e : Fin 8) (s : State) (c : VCtx) : VOut :=
  storeForm s c v a m p (.index i e) true

def vstSegV (v a : Fin 32) (m : Fin 8) (s : State) (c : VCtx) : VOut := storeSeg s c v a m

/-! ### On the control thread -/

/-- VLD on the control thread (R255). -/
def execVld (d : Fin 32) (a : Fin 32) (m : Fin 8) (c : Bool) (p : Bool) (s : State) : Res :=
  .next (controlV s (.vld d a m c p) fun s c => vldV d a m p s c)

/-- VLD_S on the control thread (R255). -/
def execVldS (d : Fin 32) (a : Fin 32) (st : Fin 32) (m : Fin 8) (c : Bool) (p : Bool) (s : State) : Res :=
  .next (controlV s (.vldS d a st m c p) fun s c => vldSV d a st m p s c)

/-- VLD_X on the control thread (R255). -/
def execVldX (d : Fin 32) (a : Fin 32) (i : Fin 32) (m : Fin 8) (c : Bool) (p : Bool) (e : Fin 8) (s : State) : Res :=
  .next (controlV s (.vldX d a i m c p e) fun s c => vldXV d a i m p e s c)

/-- VLD_FF on the control thread (R256). -/
def execVldFf (d : Fin 32) (a : Fin 32) (m : Fin 8) (c : Bool) (s : State) : Res :=
  .next (controlV s (.vldFf d a m c) fun s c => vldFfV d a m s c)

/-- VLD_SEG on the control thread (R258). -/
def execVldSeg (d : Fin 32) (a : Fin 32) (m : Fin 8) (c : Bool) (s : State) : Res :=
  .next (controlV s (.vldSeg d a m c) fun s c => vldSegV d a m s c)

/-- VLD_C on the control thread (R257). -/
def execVldC (d : Fin 32) (a : Fin 32) (m : Fin 8) (c : Bool) (p : Bool) (s : State) : Res :=
  .next (controlV s (.vldC d a m c p) fun s c => vldCV d a m p s c)

/-- VLD_CS on the control thread (R257). -/
def execVldCs (d : Fin 32) (a : Fin 32) (st : Fin 32) (m : Fin 8) (c : Bool) (p : Bool) (s : State) : Res :=
  .next (controlV s (.vldCs d a st m c p) fun s c => vldCsV d a st m p s c)

/-- VLD_CX on the control thread (R257). -/
def execVldCx (d : Fin 32) (a : Fin 32) (i : Fin 32) (m : Fin 8) (c : Bool) (p : Bool) (e : Fin 8) (s : State) : Res :=
  .next (controlV s (.vldCx d a i m c p e) fun s c => vldCxV d a i m p e s c)

/-- VST on the control thread (R259). -/
def execVst (v : Fin 32) (a : Fin 32) (m : Fin 8) (c : Bool) (p : Bool) (s : State) : Res :=
  .next (controlV s (.vst v a m c p) fun s c => vstV v a m p s c)

/-- VST_S on the control thread (R259). -/
def execVstS (v : Fin 32) (a : Fin 32) (st : Fin 32) (m : Fin 8) (c : Bool) (p : Bool) (s : State) : Res :=
  .next (controlV s (.vstS v a st m c p) fun s c => vstSV v a st m p s c)

/-- VST_X on the control thread (R259). -/
def execVstX (v : Fin 32) (a : Fin 32) (i : Fin 32) (m : Fin 8) (c : Bool) (p : Bool) (e : Fin 8) (s : State) : Res :=
  .next (controlV s (.vstX v a i m c p e) fun s c => vstXV v a i m p e s c)

/-- VST_U on the control thread (R259). -/
def execVstU (v : Fin 32) (a : Fin 32) (m : Fin 8) (c : Bool) (p : Bool) (s : State) : Res :=
  .next (controlV s (.vstU v a m c p) fun s c => vstUV v a m p s c)

/-- VST_SU on the control thread (R259). -/
def execVstSu (v : Fin 32) (a : Fin 32) (st : Fin 32) (m : Fin 8) (c : Bool) (p : Bool) (s : State) : Res :=
  .next (controlV s (.vstSu v a st m c p) fun s c => vstSuV v a st m p s c)

/-- VST_XU on the control thread (R259). -/
def execVstXu (v : Fin 32) (a : Fin 32) (i : Fin 32) (m : Fin 8) (c : Bool) (p : Bool) (e : Fin 8) (s : State) : Res :=
  .next (controlV s (.vstXu v a i m c p e) fun s c => vstXuV v a i m p e s c)

/-- VST_SEG on the control thread (R258). -/
def execVstSeg (v : Fin 32) (a : Fin 32) (m : Fin 8) (c : Bool) (s : State) : Res :=
  .next (controlV s (.vstSeg v a m c) fun s c => vstSegV v a m s c)

end Sys2Proof.Machine
end

