-- ==== Sys2Proof/Machine/VecAtom.lean ====
section
/-!
DEFINITION. VAMO and VFUT: vector atomics, scatter-adds, vector future waits and fills (R49 to R52, R260, R261,
R271, R272).
-/

namespace Sys2Proof.Machine

/-- Tags of an address register. -/
def addrTag (t : Nat) : Bool := isInt t && cw t == 64

/-- The element of an address register as a request. -/
def addrReq (s : State) (r e : Nat) : EReq := ⟨e, .va (elemOf s r e % 2 ^ 64), if elemPoison s r e then some e else none⟩

/-! ### Atomics (R260) -/

/-- The memory operation of a vector form: min and max follow the tag's signedness. -/
def vamoOp (op : AtomOp) (t : Nat) : AtomOp :=
  if isSigned t then op
  else match op with
    | .min => .minu
    | .max => .maxu
    | o => o

/-- Order 1 or 3 makes the reads acquires, and 2 or 3 the writes releases at the scope (R182). [log 37 DEDUCED] -/
def vamoForm (op : AtomOp) (scope ord : Nat) (s : State) (c : VCtx) (v a m : Nat) : VOut :=
  sideCheck s true [v, a] [m] fun _ =>
  mxIndep s c [v, a] fun _ =>
  let t := tagOf s v
  if addrTag (tagOf s a) = false then tagFail s a
  else if (isInt t && decide (32 ≤ cw t)) = false then tagFail s v
  else
    capCheck s c [(v, t), (a, tagOf s a)] fun _ =>
    rowCheck s v (rowsAs s c v) fun _ =>
    let n := cw t / 8
    let who := fun e => whoE s c v e true
    let (ls, fail, s1) := probe s who kReadWrite n n true (requests s c m (addrReq s a))
    let (ls, fail) := dataClean s v (addrReq s a) ls fail
    let s1 := { s1 with freeCtr := s1.freeCtr + ls.length }
    let order := if overlaps ls then freeOrder s.freeCtr ls else ls
    let (ws, s1) := order.foldl (fun (acc : List (Nat × Nat × Bool) × State) l =>
      match l.2 with
      | .pa pa =>
        let (old, bad, s') := busAtomic acc.2 (who l.1) (vamoOp op t) pa n (elemOf s v l.1 % 2 ^ cw t) 0
        (acc.1 ++ [(l.1, old, bad)], s')
      | .sp _ _ => acc) ([], s1)
    let s1 := writeElems s1 c v t ws []
    let s1 := if ord % 2 = 1 then acquired s1 else s1
    let s1 := if 2 ≤ ord then releaseAt s1 scope else s1
    match fail with
    | some (e, x) => memFail s1 (who e) kReadWrite e x
    | none => .done s1

def vamoSwapV (v : Fin 32) (st : Fin 8) (o : Fin 4) (a : Fin 32) (m : Fin 8) (s : State) (c : VCtx) : VOut :=
  vamoForm .swap st o s c v a m

def vamoAddV (v : Fin 32) (st : Fin 8) (o : Fin 4) (a : Fin 32) (m : Fin 8) (s : State) (c : VCtx) : VOut :=
  vamoForm .add st o s c v a m

def vamoAndV (v : Fin 32) (st : Fin 8) (o : Fin 4) (a : Fin 32) (m : Fin 8) (s : State) (c : VCtx) : VOut :=
  vamoForm .and st o s c v a m

def vamoOrV (v : Fin 32) (st : Fin 8) (o : Fin 4) (a : Fin 32) (m : Fin 8) (s : State) (c : VCtx) : VOut :=
  vamoForm .or st o s c v a m

def vamoXorV (v : Fin 32) (st : Fin 8) (o : Fin 4) (a : Fin 32) (m : Fin 8) (s : State) (c : VCtx) : VOut :=
  vamoForm .xor st o s c v a m

def vamoMinV (v : Fin 32) (st : Fin 8) (o : Fin 4) (a : Fin 32) (m : Fin 8) (s : State) (c : VCtx) : VOut :=
  vamoForm .min st o s c v a m

def vamoMaxV (v : Fin 32) (st : Fin 8) (o : Fin 4) (a : Fin 32) (m : Fin 8) (s : State) (c : VCtx) : VOut :=
  vamoForm .max st o s c v a m

/-! ### Scatter-adds (R49 to R51, R261) -/

/-- The tags that a Mill accepts (R49). -/
def millTag (t : Nat) : Bool := (isInt t && !isIdx t && decide (32 ≤ cw t)) || (decide (9 ≤ t) && decide (t ≤ 0x0C))

/-- An addition by its issuer. -/
def additionOf (w : Who) (pa tag fmode addend : Nat) (poison : Bool) : Addition :=
  ⟨pa, tag, fmode, addend, poison, w.asid, w.launch, w.src⟩

/-- An addition that reaches its Mill: performed at a present line, else chained for it, behind a declaration of the
line that waits; one to a hole is discarded with its record, and one to a register does nothing (R31, R37, R50, R261).
[log 15 DEDUCED] -/
def millArrive (s : State) (w : Who) (a : Addition) : State :=
  match paKind s a.pa with
  | .hole | .noNode => holeRecord s w a.pa true
  | .io => s
  | _ =>
    if s.pm.present (lineOf a.pa) then
      let s := accessLine s true a.pa (cw a.tag / 8)
      { s with pm := s.pm.combine a }
    else { behindHeld s (lineOf a.pa) with chains := s.chains ++ [a] }

/-- [log 29 DEDUCED, 37 DEDUCED] -/
def samoForm (ordered : Bool) (s : State) (c : VCtx) (v a m : Nat) : VOut :=
  sideCheck s true [v, a] [m] fun _ =>
  mxIndep s c [v, a] fun _ =>
  let t := tagOf s v
  if addrTag (tagOf s a) = false then tagFail s a
  else if millTag t = false then tagFail s v
  else
    capCheck s c [(v, t), (a, tagOf s a)] fun _ =>
    let n := cw t / 8
    let who := fun e => whoE s c v e true
    let (ls, fail, s1) := probe s who kReadWrite n n true (requests s c m (addrReq s a))
    let (ls, fail) := dataClean s v (addrReq s a) ls fail
    let s1 := { s1 with freeCtr := s1.freeCtr + ls.length }
    let order := if !ordered && overlaps ls then freeOrder s.freeCtr ls else ls
    let s1 := order.foldl (fun s1 l =>
      match l.2 with
      | .pa pa => millArrive s1 (who l.1) (additionOf (who l.1) pa t c.fmode (elemOf s v l.1 % 2 ^ cw t) false)
      | .sp _ _ => s1) s1
    match fail with
    | some (e, x) => memFail s1 (who e) kReadWrite e x
    | none => .done s1

def samoV (v a : Fin 32) (m : Fin 8) (s : State) (c : VCtx) : VOut := samoForm false s c v a m

/-- [log 29 DEDUCED] -/
def samoOV (v a : Fin 32) (m : Fin 8) (s : State) (c : VCtx) : VOut := samoForm true s c v a m

/-! ### Vector future waits (R271) -/

/-- A check of a future word for the probe pass (R41). -/
def chkFuture (kind : Nat) (s : State) (w : Who) (l : Loc) : Except EFail PLoc × State :=
  match checkFuture s w kind l.addr with
  | (.ok pa, s) => (.ok (.pa pa), s)
  | (.error f, s) => (.error f, s)

/-- A failure kept until the wait ends, and taken from it. -/
def LateFail.of (e : Nat) (f : EFail) : LateFail := ⟨e, f.cause, f.val, f.x.map (fun x => (x.1.lvl, x.1.ent, x.1.ea))⟩
def LateFail.efail (f : LateFail) : EFail := ⟨f.cause, f.val, f.x.map (fun x => (⟨f.cause, x.1, x.2.1, x.2.2⟩, f.val))⟩

/-- Every request of a vector wait has been answered. -/
def fldvAnswered (s : State) (g : Group) : Bool :=
  match g.fldv with
  | some r => r.act.all (fun e => s.futs.any (fun f => f.who == .elem g.gid e && (match f.st with
      | .answered _ _ => true
      | _ => false)))
  | none => false

/-- The current group's vector wait ends: satisfied elements take their values, the others keep their
addresses, the mask tells which they are, and the rest of the requests are cancelled (R271). -/
def fldvEnd (s : State) : State :=
  match s.g.fldv with
  | none => s
  | some r =>
    let gid := s.g.gid
    let got (e : Nat) : Option (Word × Bool) :=
      match (futOf s (.elem gid e)).map FutWait.st with
      | some (.answered v p) => some (v, p)
      | _ => none
    let ws := r.act.filterMap (fun e => (got e).map (fun v => (e, v.1.toNat, v.2)))
    let ms := r.els.map (fun e => (e, r.act.contains e && (got e).isNone, false))
    let s := writeElems s { ctxG s with vl := r.vl } r.d (tagOf s r.d) ws []
    let s := writeMask (if ws = [] then s else acquired s) r.u ms
    { s with
      futs := s.futs.filter (fun f => match f.who with
        | .elem g _ => g != gid
        | _ => true)
      g := { s.g with fldv := if r.fail.isSome then some { r with ended := true } else none, external := false } }

/-- The wait of an independent VP on its own element. -/
def fldvVp (s : State) (c : VCtx) (d u e : Nat) (timed external : Bool) : VOut :=
  let who := Waiter.vp s.g.gid e
  let close (s : State) (got : Option (Word × Bool)) : VOut :=
    let s := futDrop s who
    let s := match got with
      | some (v, p) => writeElems (acquired s) c d (tagOf s d) [(e, v.toNat, p)] []
      | none => s
    .done (writeMask s u [(e, got.isNone, false)])
  let look (s : State) : VOut :=
    match (futOf s who).map FutWait.st with
    | some (.answered v p) => close s (some (v, p))
    | some .expired => close s none
    | _ => .wait s
  match futOf s who with
  | some _ => look s
  | none =>
    let w := whoE s c d e true
    let q := addrReq s d e
    if q.bad.isSome then .fail s cPoison (regVal e) (some e) true
    else
      match checkFuture s w kRead q.loc.addr with
      | (.error f, s) => memFail s w kRead e f
      | (.ok pa, s) => look (futSend s ⟨who, pa, false, external, s.g.asid, .backoff, 64, timed⟩)

/-- A vector future wait; `i` is the word itself, which is kept where the control thread executes it. -/
def fldvForm (i : Instr) (s : State) (c : VCtx) (d t u m : Nat) (external : Bool) : VOut :=
  match s.g.fldv with
  | some r =>
    match r.fail with
    | some f =>
      if r.ended then memFail { s with g := { s.g with fldv := none } } (whoE s c d f.e true) kRead f.e f.efail
      else .wait s
    | none => .wait s
  | none =>
    sideCheck s true [d] [m, u] fun _ =>
    mxIndep s c [d] fun _ =>
    if addrTag (tagOf s d) = false then tagFail s d
    else
      capCheck s c [(d, tagOf s d)] fun _ =>
      rowCheck s d (rowsAs s c d) fun _ =>
      scalarOp s c t fun tmo =>
      let qs := requests s c m (addrReq s d)
      match c.indep with
      | some e => if maskBad s c m = some e then .fail s cPoison (BitVec.ofNat 64 (addrReq s d e).loc.addr) (some e) true
        else if qs = [] then .done s else fldvVp s c d u e (tmo != 0) external
      | none =>
        let who := fun e => whoE s c d e true
        let (ls, fail, s1) := probeWith (chkFuture kRead) s who true qs
        let n := (fail.map (·.1)).getD c.vl
        let s1 := ls.foldl (fun s1 l => match l.2 with
          | .pa pa => futSend s1 ⟨.elem s.g.gid l.1, pa, false, external, s.g.asid, .backoff, 64, tmo != 0⟩
          | .sp _ _ => s1) s1
        let run : FldvRun := ⟨d, u, ls.map (·.1), (candidates c).filter (fun e => decide (e < n)), c.vl, tmo != 0,
          fail.map (fun f => LateFail.of f.1 f.2), false, if c.inAib then none else some (entryHere s.g [i] true)⟩
        let s1 := { s1 with g := { s1.g with fldv := some run, external := external } }
        let s1 := if fldvAnswered s1 s1.g then fldvEnd s1 else s1
        match fail with
        | none => .done s1
        | some (e, x) =>
          if (s1.g.fldv.map FldvRun.ended) = some true then
            memFail { s1 with g := { s1.g with fldv := none } } (who e) kRead e x
          else .wait s1

def fldvV (d t : Fin 32) (u m : Fin 8) (s : State) (c : VCtx) : VOut :=
  fldvForm (.fldv d t u m) s c d t u m false

def fldvXV (d t : Fin 32) (u m : Fin 8) (s : State) (c : VCtx) : VOut :=
  fldvForm (.fldvX d t u m) s c d t u m true

/-- A vector future wait of the control thread is to trap when it ends. -/
def Group.failing (g : Group) : Bool := g.fldv.any (fun r => r.fail.isSome && r.entry.isSome)

/-- A vector future wait of the control thread: while it holds a failure it keeps its place, and otherwise
the queue holds it (R271, R420). -/
def controlFldv (s : State) (i : Instr) (f : State → VCtx → VOut) : State :=
  if s.g.failing then
    match f s (ctxG s) with
    | .fail s' cause val (some e) _ => trap { s' with g := { s'.g with vc := { s'.g.vc with vstart := e } } } cause val
    | _ => waitHere s
  else controlV s i f

/-! ### Vector fills (R272) -/

/-- [log 37 DEDUCED] -/
def vffillV (v a : Fin 32) (m : Fin 8) (s : State) (c : VCtx) : VOut :=
  sideCheck s true [v, a] [m] fun _ =>
  mxIndep s c [v, a] fun _ =>
  if addrTag (tagOf s a) = false then tagFail s a
  else if cw (tagOf s v) ≠ 64 then tagFail s v
  else
    capCheck s c [(v.val, tagOf s v), (a.val, tagOf s a)] fun _ =>
    let who := fun e => whoE s c v e true
    let (ls, fail, s1) := probeWith (chkFuture kWrite) s who true (requests s c m (addrReq s a))
    let (ls, fail) := dataClean s v (addrReq s a) ls fail
    let s1 := { s1 with freeCtr := s1.freeCtr + ls.length }
    let order := if overlaps ls then freeOrder s.freeCtr ls else ls
    let s1 := order.foldl (fun s1 l =>
      match l.2 with
      | .pa pa => busFill s1 (who l.1) pa (BitVec.ofNat 64 (elemOf s v l.1))
      | .sp _ _ => s1) s1
    let s1 := releaseAt s1 4
    match fail with
    | some (e, x) => memFail s1 (who e) kWrite e x
    | none => .done s1

/-! ### On the control thread -/

/-- VAMO_SWAP on the control thread (R260). -/
def execVamoSwap (v : Fin 32) (st : Fin 8) (o : Fin 4) (a : Fin 32) (m : Fin 8) (c : Bool) (s : State) : Res :=
  .next (controlV s (.vamoSwap v st o a m c) fun s c => vamoSwapV v st o a m s c)

/-- VAMO_ADD on the control thread (R260). -/
def execVamoAdd (v : Fin 32) (st : Fin 8) (o : Fin 4) (a : Fin 32) (m : Fin 8) (c : Bool) (s : State) : Res :=
  .next (controlV s (.vamoAdd v st o a m c) fun s c => vamoAddV v st o a m s c)

/-- VAMO_AND on the control thread (R260). -/
def execVamoAnd (v : Fin 32) (st : Fin 8) (o : Fin 4) (a : Fin 32) (m : Fin 8) (c : Bool) (s : State) : Res :=
  .next (controlV s (.vamoAnd v st o a m c) fun s c => vamoAndV v st o a m s c)

/-- VAMO_OR on the control thread (R260). -/
def execVamoOr (v : Fin 32) (st : Fin 8) (o : Fin 4) (a : Fin 32) (m : Fin 8) (c : Bool) (s : State) : Res :=
  .next (controlV s (.vamoOr v st o a m c) fun s c => vamoOrV v st o a m s c)

/-- VAMO_XOR on the control thread (R260). -/
def execVamoXor (v : Fin 32) (st : Fin 8) (o : Fin 4) (a : Fin 32) (m : Fin 8) (c : Bool) (s : State) : Res :=
  .next (controlV s (.vamoXor v st o a m c) fun s c => vamoXorV v st o a m s c)

/-- VAMO_MIN on the control thread (R260). -/
def execVamoMin (v : Fin 32) (st : Fin 8) (o : Fin 4) (a : Fin 32) (m : Fin 8) (c : Bool) (s : State) : Res :=
  .next (controlV s (.vamoMin v st o a m c) fun s c => vamoMinV v st o a m s c)

/-- VAMO_MAX on the control thread (R260). -/
def execVamoMax (v : Fin 32) (st : Fin 8) (o : Fin 4) (a : Fin 32) (m : Fin 8) (c : Bool) (s : State) : Res :=
  .next (controlV s (.vamoMax v st o a m c) fun s c => vamoMaxV v st o a m s c)

/-- SAMO on the control thread (R261). -/
def execSamo (v : Fin 32) (a : Fin 32) (m : Fin 8) (c : Bool) (s : State) : Res :=
  .next (controlV s (.samo v a m c) fun s c => samoV v a m s c)

/-- SAMO_O on the control thread (R261). -/
def execSamoO (v : Fin 32) (a : Fin 32) (m : Fin 8) (c : Bool) (s : State) : Res :=
  .next (controlV s (.samoO v a m c) fun s c => samoOV v a m s c)

/-- VFFILL on the control thread (R272). -/
def execVffill (v : Fin 32) (a : Fin 32) (m : Fin 8) (s : State) : Res :=
  .next (controlV s (.vffill v a m) fun s c => vffillV v a m s c)

/-- FLDV on the control thread (R271). -/
def execFldv (d : Fin 32) (t : Fin 32) (u : Fin 8) (m : Fin 8) (s : State) : Res :=
  .next (controlFldv s (.fldv d t u m) fun s c => fldvV d t u m s c)

/-- FLDV_X on the control thread (R271). -/
def execFldvX (d : Fin 32) (t : Fin 32) (u : Fin 8) (m : Fin 8) (s : State) : Res :=
  .next (controlFldv s (.fldvX d t u m) fun s c => fldvXV d t u m s c)

end Sys2Proof.Machine
end

