-- ==== Sys2Proof/Machine/Carter.lean ====
section
/-!
DEFINITION. The Carter: tile descriptors, the units of a transfer, what each reads and writes, folds, stamps and
rationed destinations, and batches that complete (R95, R97 to R108, R111, R112, R114).
-/

namespace Sys2Proof.Machine

/-! ### Descriptors (R98) -/

def dWord (d : Vector Word 16) (i : Nat) : Nat := (d.toList.getD i 0).toNat

def dKind (d : Vector Word 16) : Nat := bits (dWord d 2) 63 60
def dSrcK (d : Vector Word 16) : Nat := bits (dWord d 2) 59 58
def dDstK (d : Vector Word 16) : Nat := bits (dWord d 2) 57 56
def dFold (d : Vector Word 16) : Nat := bits (dWord d 2) 55 54
def dBounds (d : Vector Word 16) : Bool := bit (dWord d 2) 53
def dShort (d : Vector Word 16) : Bool := bit (dWord d 2) 52
def dRot (d : Vector Word 16) : Nat := bits (dWord d 2) 51 49
def dTag (d : Vector Word 16) : Nat := bits (dWord d 2) 48 44
def dCount (d : Vector Word 16) : Nat := bits (dWord d 2) 43 36
def dNotify (d : Vector Word 16) : Nat := dWord d 3
def dLen (d : Vector Word 16) : Nat := bits (dWord d 4) 39 0

/-- Size of dimension `j`, its origin and its extent. -/
def dT (d : Vector Word 16) (j : Nat) : Nat := bits (dWord d 4) (16 * j + 15) (16 * j)
def dOrg (d : Vector Word 16) (j : Nat) : Int := toS (bits (dWord d (11 + j / 2)) (32 * (j % 2) + 31) (32 * (j % 2))) 32
def dExt (d : Vector Word 16) (j : Nat) : Int := (bits (dWord d (13 + j / 2)) (32 * (j % 2) + 31) (32 * (j % 2)) : Nat)

/-- Signed steps of dimension `j`, 1 to 3. -/
def dSstep (d : Vector Word 16) (j : Nat) : Int := toS (dWord d (4 + j)) 64
def dDstep (d : Vector Word 16) (j : Nat) : Int := toS (dWord d (7 + j)) 64

/-- Element width in bits: six-bit elements are packed at six (R98, R249). -/
def dW (d : Vector Word 16) : Nat := if dKind d = 1 then 8 else vw (dTag d)

/-- Coordinate `i` of dimension `j` is in bounds (R103). -/
def dIn (d : Vector Word 16) (j : Nat) (i : Int) : Bool :=
  !dBounds d || (decide (0 ≤ dOrg d j + i) && decide (dOrg d j + i < dExt d j))

/-! ### Units (R100 to R105) -/

/-- Units of a transfer. -/
def unitCount (x : Xfer) : Nat :=
  match dKind x.desc with
  | 1 => ceilDiv (dLen x.desc) 4096
  | 2 => ((x.rows.map (·.2)).getD []).length
  | _ => dT x.desc 1 * dT x.desc 2 * dT x.desc 3

/-- The row of unit `u` of a gather: its element, row number and poison. [log 57 DEDUCED] -/
def gatherRow (x : Xfer) (u : Nat) : Nat × Int × Bool := ((x.rows.map (·.2)).getD []).getD u (0, 0, false)

/-- A gather row is in bounds in dimension 1 (R102, R103). -/
def rowIn (d : Vector Word 16) (r : Nat × Int × Bool) : Bool :=
  !r.2.2 && (!dBounds d || (decide (0 ≤ r.2.1) && decide (r.2.1 < dExt d 1)))

/-- Coordinates 1 to 3 of unit `u` of a tile. -/
def unitCoord (d : Vector Word 16) (u j : Nat) : Nat :=
  match j with
  | 1 => u % dT d 1
  | 2 => u / dT d 1 % dT d 2
  | _ => u / (dT d 1 * dT d 2)

/-- The row `u` of a tile is in bounds in dimensions 1 to 3. -/
def tileRowIn (d : Vector Word 16) (u : Nat) : Bool :=
  [1, 2, 3].all (fun j => dIn d j (unitCoord d u j))

/-- A vector register stands at an endpoint. -/
def regEnd (d : Vector Word 16) : Bool := dSrcK d == 2 || dDstK d == 2

/-- The elements of a unit: position in the row, element number, and 0 when it is not moved, 1 when it is, 2 when it
is out of bounds and a zero is written. [log 52 DEDUCED] -/
def unitElems (x : Xfer) (u : Nat) : List (Nat × Nat × Nat) :=
  let d := x.desc
  match dKind d with
  | 1 => []
  | 2 =>
    let r := gatherRow x u
    (List.range (dT d 0)).map (fun i => (i, r.1, if rowIn d r && dIn d 0 i then 1 else 2))
  | _ =>
    let rin := tileRowIn d u
    (List.range (dT d 0)).map (fun i =>
      let e := i + dT d 0 * u
      (i, e, if regEnd d && !x.act.contains e then 0 else if rin && dIn d 0 i then 1 else 2))

/-- Byte offset of a unit's row from SRC and from DST. -/
def srcOff (x : Xfer) (u : Nat) : Int :=
  let d := x.desc
  match dKind d with
  | 1 => 4096 * u
  | 2 => (gatherRow x u).2.1 * dSstep d 1
  | _ => ([1, 2, 3].map (fun j => (unitCoord d u j : Int) * dSstep d j)).foldl (· + ·) 0

def dstOff (x : Xfer) (u : Nat) : Int :=
  let d := x.desc
  match dKind d with
  | 1 => 4096 * u
  | 2 => ((gatherRow x u).1 : Int) * dDstep d 1
  | _ => if dFold d ≠ 0 then 0 else ([1, 2, 3].map (fun j => (unitCoord d u j : Int) * dDstep d j)).foldl (· + ·) 0

/-- Runs of neighbouring elements that satisfy `p`: first position and one past the last. -/
def runsOf (p : Nat → Bool) : List (Nat × Nat × Nat) → List (Nat × Nat)
  | [] => []
  | (i, _, st) :: rest =>
    if p st then
      match runsOf p rest with
      | (lo, hi) :: r => if lo = i + 1 then (i, hi) :: r else (i, i + 1) :: (lo, hi) :: r
      | [] => [(i, i + 1)]
    else runsOf p rest

/-- The bytes that hold a run of elements of `w` bits: offset in the row and number. [log 51 DEDUCED] -/
def spanOf (w : Nat) (r : Nat × Nat) : Nat × Nat := (r.1 * w / 8, ceilDiv (r.2 * w) 8 - r.1 * w / 8)

/-- Bytes of the row that a unit reads and writes in memory or a scratchpad. [log 53 DESIGN CHOICE] -/
def srcSpans (x : Xfer) (u : Nat) : List (Nat × Nat) :=
  if dKind x.desc = 1 then [(0, min 4096 (dLen x.desc - 4096 * u))]
  else if dSrcK x.desc = 2 then []
  else (runsOf (· == 1) (unitElems x u)).map (spanOf (dW x.desc))

/-- [log 53 DESIGN CHOICE] -/
def dstSpans (x : Xfer) (u : Nat) : List (Nat × Nat) :=
  let w := dW x.desc
  if dKind x.desc = 1 then [(0, min 4096 (dLen x.desc - 4096 * u))]
  else if dDstK x.desc = 2 then []
  else if dFold x.desc ≠ 0 then ((unitElems x u).filter (fun e => e.2.2 == 1)).map (fun e => (e.1 * (w / 8), w / 8))
  else (runsOf (· != 0) (unitElems x u)).map (spanOf w)

/-- Bytes cut where an address meets a multiple of `al`: offset and number of each piece. [log 53 DESIGN CHOICE] -/
def cutAt (al a : Nat) : Nat → Nat → Nat → List (Nat × Nat)
  | 0, _, _ => []
  | f + 1, i, n =>
    if n = 0 then []
    else
      let k := min n (al - (a + i) % al)
      (i, k) :: cutAt al a f (i + k) (n - k)

/-- A piece of a unit: byte offset in its row, place, number of bytes, and address. -/
structure Piece where
  off  : Nat
  loc  : PLoc
  n    : Nat
  addr : Nat
  deriving DecidableEq, Repr

/-- The pieces of spans of a row at `base` + `off`, checked in ascending order: an access of at most a line of
memory or 64 bytes of a scratchpad each. [log 53 DESIGN CHOICE] -/
def piecesOf (s : State) (w : Who) (kind : Nat) (sp : Bool) (base : Word) (off : Int) :
    List (Nat × Nat) → Except EFail (List Piece) × State
  | [] => (.ok [], s)
  | (o, n) :: rest =>
    let a := (locAt sp base (off + o)).addr
    let al := if sp then 64 else 128
    let cut := cutAt al a (n / al + 2) 0 n
    let (r, s) := cut.foldl (fun (acc : Except EFail (List Piece) × State) c =>
      match acc with
      | (.ok ps, s) =>
        let l := locAt sp base (off + o + c.1)
        match checkLoc s w kind l c.2 1 with
        | (.ok pl, s) => (.ok (ps ++ [⟨o + c.1, pl, c.2, l.addr⟩]), s)
        | (.error f, s) => (.error f, s)
      | e => e) (.ok [], s)
    match r with
    | .error f => (.error f, s)
    | .ok ps =>
      match piecesOf s w kind sp base off rest with
      | (.ok qs, s) => (.ok (ps ++ qs), s)
      | e => e

/-- Addresses that a unit writes, with numbers of bytes. -/
def unitDst (x : Xfer) (u : Nat) : List (Nat × Nat) :=
  (dstSpans x u).map (fun p => ((locAt (dDstK x.desc == 1) (BitVec.ofNat 64 (dWord x.desc 1)) (dstOff x u + p.1)).addr, p.2))

def unitSrc (x : Xfer) (u : Nat) : List (Nat × Nat) :=
  (srcSpans x u).map (fun p => ((locAt (dSrcK x.desc == 1) (BitVec.ofNat 64 (dWord x.desc 0)) (srcOff x u + p.1)).addr, p.2))

/-- A unit writes some byte of the `size` bytes from address `size` × `k`. -/
def unitTouches (x : Xfer) (u size k : Nat) : Bool :=
  (unitDst x u).any (fun p => decide (p.1 < size * k + size) && decide (size * k < p.1 + p.2))

/-- No unit after `u` writes there. [log 55 DEDUCED] -/
def lastTouch (x : Xfer) (u size k : Nat) : Bool :=
  (range (u + 1) (unitCount x)).all (fun v => !unitTouches x v size k)

/-- The transfer writes every byte of the scratchpad block `k` (R95). -/
def blockCovered (x : Xfer) (k : Nat) : Bool :=
  let ds := (List.range (unitCount x)).flatMap (unitDst x)
  (List.range 4096).all (fun i => ds.any (fun p => decide (p.1 ≤ 4096 * k + i) && decide (4096 * k + i < p.1 + p.2)))

/-! ### Moving bytes -/

/-- An access to the bytes of a piece: registers of the I/O die are read and written eight bytes at a time. -/
def pieceRead (s : State) (w : Who) (p : Piece) : Nat × Bool × State :=
  match p.loc with
  | .pa a =>
    if paKind s a = .io then
      (cutAt 8 a (p.n / 8 + 2) 0 p.n).foldl (fun (acc : Nat × Bool × State) c =>
        let (v, b, s) := busRead acc.2.2 w (a + c.1) c.2
        (acc.1 + v * 256 ^ c.1, acc.2.1 || b, s)) (0, false, s)
    else busRead s w a p.n
  | l => plRead s w l p.n

def pieceWrite (s : State) (w : Who) (p : Piece) (v : Nat) : State :=
  match p.loc with
  | .pa a =>
    if paKind s a = .io then
      (cutAt 8 a (p.n / 8 + 2) 0 p.n).foldl (fun s c => busWrite s w (a + c.1) c.2 (v / 256 ^ c.1)) s
    else busWrite s w a p.n v
  | l => plWrite s w l p.n v

/-- The pieces read: the row's bytes as one number, and the poisoned ranges. -/
def readPieces (s : State) (w : Who) (ps : List Piece) : Nat × List (Nat × Nat) × State :=
  ps.foldl (fun (acc : Nat × List (Nat × Nat) × State) p =>
    let (v, b, s) := pieceRead acc.2.2 w p
    (acc.1 + v * 256 ^ p.off, if b then acc.2.1 ++ [(p.off, p.n)] else acc.2.1, s)) (0, [], s)

/-- The transfer's side of an access. -/
def whoX (g : Group) (x : Xfer) : Who :=
  ⟨g.launch, g.pl.core, g.pl.slot, x.asid, x.steward, none, 0, true, false, false, .engine⟩

/-- A source or index register of the transfer has been written since its issue (R106). -/
def srcWritten (s : State) (x : Xfer) : Bool :=
  (dSrcK x.desc == 2 && decide (x.issued < tabGet s.g.vSeq (dWord x.desc 0) 0))
    || (match x.rows with
      | some (r, _) => decide (x.issued < tabGet s.g.vSeq r 0)
      | none => false)

/-- The source register as the transfer finds it: one that was written since the issue gives free values
(R106). -/
def srcElem (s : State) (x : Xfer) (r e : Nat) : Nat × Bool :=
  let w := vw (dTag x.desc)
  if x.issued < tabGet s.g.vSeq r 0 then (Config.freeElem x.seed e % 2 ^ w, false)
  else if dDstK x.desc = 2 ∧ dWord x.desc 1 = r then (x.heldV.elem e % 2 ^ w, elemPoison s r e)
  else (elemOf s r e % 2 ^ w, elemPoison s r e)

/-- The elements of a unit that are moved or zeroed, with value and poison; the zero of an out-of-bounds element is pattern
0 in every format, e8m0 among them, which has no zero. [log 126 DESIGN CHOICE] -/
def unitVals (s : State) (x : Xfer) (u row : Nat) (bad : List (Nat × Nat)) : List (Nat × Nat × Nat × Bool) :=
  let w := dW x.desc
  let free := match x.rows with
    | some (r, _) => decide (x.issued < tabGet s.g.vSeq r 0)
    | none => false
  (unitElems x u).filterMap (fun (i, e, st) =>
    match st with
    | 1 =>
      if dSrcK x.desc = 2 then
        let (v, p) := srcElem s x (dWord x.desc 0) e
        some (i, e, v, p)
      else
        let v := if free then Config.freeElem x.seed (e * 65536 + i) else row / 2 ^ (i * w)
        some (i, e, v % 2 ^ w, bad.any (fun b => decide (b.1 * 8 < i * w + w) && decide (i * w < (b.1 + b.2) * 8)))
    | 2 => some (i, e, 0, dKind x.desc == 2 && (gatherRow x u).2.2)
    | _ => none)

/-- The bits of a piece replaced by those of the elements that it holds; the rest of a packed byte is kept (R175). -/
def mergeBits (w : Nat) (vals : List (Nat × Nat × Nat × Bool)) (p : Piece) (old : Nat) : Nat :=
  vals.foldl (fun acc v =>
    let lo := max (v.1 * w) (8 * p.off)
    let hi := min (v.1 * w + w) (8 * (p.off + p.n))
    if lo < hi then
      let sh := 2 ^ (lo - 8 * p.off)
      let m := 2 ^ (hi - lo)
      acc - acc / sh % m * sh + v.2.2.1 / 2 ^ (lo - v.1 * w) % m * sh
    else acc) old

/-- Every bit of a piece belongs to an element written. -/
def pieceWhole (w : Nat) (vals : List (Nat × Nat × Nat × Bool)) (p : Piece) : Bool :=
  decide (8 * p.n ≤ (vals.map (fun v => min (v.1 * w + w) (8 * (p.off + p.n)) - max (v.1 * w) (8 * p.off))).foldl (· + ·) 0)

/-- The values written to the pieces of a row, their poison with them (R105, R424). -/
def writePieces (s : State) (w : Who) (ew : Nat) (vals : List (Nat × Nat × Nat × Bool)) (ps : List Piece) : State :=
  let s := ps.foldl (fun s p =>
    if pieceWhole ew vals p then pieceWrite s w p (mergeBits ew vals p 0)
    else
      let (old, _, s) := pieceRead s w.exact p
      pieceWrite s w p (mergeBits ew vals p old)) s
  let s := plClear s (ps.map (fun p => (p.loc, p.n)))
  ps.foldl (fun s p =>
    if vals.any (fun v => v.2.2.2 && decide (v.1 * ew < 8 * (p.off + p.n)) && decide (8 * p.off < v.1 * ew + ew)) then
      plPoison s p.loc
    else s) s

/-! ### Stamps and declarations (R95, R107) -/

/-- The block of a piece whose stamp is not ROT although the transfer writes only part of it. -/
def stampFails (s : State) (x : Xfer) (ps : List Piece) : Option Nat :=
  (ps.find? (fun p => match p.loc with
    | .sp core off => tabGet s.sp.stamps (blockKey core off) 0 != dRot x.desc && !blockCovered x (p.addr / 4096)
    | .pa _ => false)).map (fun p => p.addr / 4096 * 4096)

/-- The stamp of a block set; a change of it is a write to every byte of the block (R95, R96, R193). -/
def setStamp (s : State) (core off rot : Nat) : State :=
  let k := blockKey core off
  if tabGet s.sp.stamps k 0 = rot then s
  else
    let c := s.clock + 1
    { s with sp := { s.sp with stamps := tabSet s.sp.stamps k rot 0 }.mark core (off / 4096 * 4096) 4096 c 0, clock := c }

/-- The blocks that the transfer has now written whole take its rotation. [log 55 DEDUCED] -/
def stampBlocks (s : State) (x : Xfer) (u : Nat) (ps : List Piece) : State :=
  ps.foldl (fun s p => match p.loc with
    | .sp core off =>
      if blockCovered x (p.addr / 4096) && lastTouch x u 4096 (p.addr / 4096) then setStamp s core off (dRot x.desc)
      else s
    | .pa _ => s) s

/-- The lines or blocks that unit `u` is the last to write, declared under the transfer's entry. [log 55 DEDUCED] -/
def declareLast (s : State) (x : Xfer) (u : Nat) (ps : List Piece) : State :=
  match x.decl with
  | none => s
  | some (core, idx) =>
    let scope := ((entryOf s core idx).map DeclEntry.scope).getD 0
    let sz (p : Piece) : Nat := match p.loc with
      | .sp _ _ => 4096
      | .pa _ => 128
    let unit (l : PLoc) : PLoc := match l with
      | .pa a => .pa (a / 128 * 128)
      | .sp c o => .sp c (o / 4096 * 4096)
    let ls := ((ps.filter (fun p => lastTouch x u (sz p) (p.addr / sz p))).map (fun p => unit p.loc)).eraseDups
    ls.foldl (fun s l =>
      declarePlace (updEntry s core idx (fun e => { e with lines := e.lines - 1, due := e.due - 1 })) (whoX s.g x) l
        (dCount x.desc) scope core idx) s

/-- Lines or blocks that a transfer writes and declares (R107, R383). -/
def xferUnits (x : Xfer) : Nat :=
  let sz := if dDstK x.desc = 1 then 4096 else 128
  (((List.range (unitCount x)).flatMap (unitDst x)).flatMap (fun p => range (p.1 / sz) ((p.1 + p.2 - 1) / sz + 1))).eraseDups.length

/-! ### Performing a unit (R104, R105) -/

/-- A transfer changed. -/
def updXfer (s : State) (id : Nat) (f : Xfer → Xfer) : State :=
  { s with eng := { s.eng with xfers := updFirst s.eng.xfers (fun x => x.id == id) f } }

/-- The failures that a token holds, in the order in which the Carter took them (R114). -/
def Token.fails (t : Token) : List FailRec := t.fail.toList ++ t.more

/-- One failure more: the first of a batch is held, the others of it stand as records (R114). -/
def Token.failed (t : Token) (r : FailRec) : Token :=
  if t.fails.any (fun q => q.batch == r.batch) then t
  else if t.fail.isNone then { t with fail := some r }
  else { t with more := t.more ++ [r] }

/-- A failure reported (R114). -/
def Token.reported (t : Token) (r : FailRec) : Token :=
  let rest := t.fails.filter (fun q => q != r)
  { t with fail := rest.head?, more := rest.drop 1 }

/-- A transfer fails at its next unit: the first failure of its batch is held, and its record written
(R105, R114). -/
def xferFail (s : State) (x : Xfer) (kind : Nat) (f : EFail) : State :=
  let s := failRecord s (whoX s.g x) kind f
  let s := updToken s x.tok (fun t => t.failed ⟨f.cause, BitVec.ofNat 64 f.val, x.batch⟩)
  updXfer s x.id (fun x => { x with failed := true })

/-- Place of an addition, coded. -/
def codeLoc : PLoc → Nat
  | .pa a => a
  | .sp core off => 2 ^ 60 + spKey core off

def decodeLoc (n : Nat) : PLoc := if n < 2 ^ 60 then .pa n else .sp (n % 2 ^ 60 / 2 ^ 21) (n % 2 ^ 21)

/-- One addition of a fold: a Mill's at memory, the Carter's own at a bank (R104, R105). [log 54 DESIGN CHOICE] -/
def foldAdd (s : State) (w : Who) (tag fmode : Nat) (l : PLoc) (v : Nat) (bad : Bool) : State :=
  match l with
  | .pa a => millArrive s w (additionOf w a tag fmode v bad)
  | .sp core off =>
    let n := cw tag / 8
    let (old, _, s) := spRead s core off n
    let s := spWrite s w.writer core off n (millSum tag fmode old v)
    if bad then spPoison s core off else s

/-- Places that a transfer reads, as far as they can be translated: code of the first byte, and number. -/
def srcPlaces (s : State) (x : Xfer) : List (Nat × Nat) :=
  (List.range (unitCount x)).flatMap (fun v =>
    match (piecesOf s (whoX s.g x) kRead (dSrcK x.desc == 1) (BitVec.ofNat 64 (dWord x.desc 0)) (srcOff x v) (srcSpans x v)).1 with
    | .ok ps => ps.map (fun p => (codeLoc p.loc, p.n))
    | .error _ => [])

/-- The place of byte `i` of a unit's row. -/
def byteAt (ps : List Piece) (i : Nat) : Option Nat :=
  (ps.find? (fun p => decide (p.off ≤ i) && decide (i < p.off + p.n))).map (fun p => codeLoc p.loc + (i - p.off))

/-- A checked unit performed. The bytes of a linear transfer's destination that overlap its source are undefined (R101). -/
def performUnit (s : State) (x : Xfer) (u : Nat) (src dst : List Piece) : State :=
  let d := x.desc
  let w := whoX s.g x
  let froms := if dKind d = 1 then srcPlaces s x else []
  let (row, bad, s) := readPieces s w src
  if dKind d = 1 then
    let vals := (List.range (min 4096 (dLen d - 4096 * u))).map (fun i =>
      let hidden := (byteAt dst i).any (fun a => froms.any (fun r => decide (r.1 ≤ a) && decide (a < r.1 + r.2)))
      (i, i, if hidden then Config.freeElem s.freeCtr i % 256 else row / 256 ^ i % 256,
        bad.any (fun b => decide (b.1 ≤ i) && decide (i < b.1 + b.2))))
    writePieces { s with freeCtr := s.freeCtr + 1 } w 8 vals dst
  else
    let vals := unitVals s x u row bad
    if dFold d ≠ 0 then
      let moved := vals.filterMap (fun v => (dst.find? (fun p => p.off == v.1 * (dW d / 8))).map (fun p => (p.loc, v.2.2)))
      if dFold d = 2 then
        let s := moved.foldl (fun s m => foldAdd s w (dTag d) x.fmode m.1 m.2.1 m.2.2) s
        updXfer s x.id (fun x => { x with
          acc := moved.foldl (fun a m => millSum (dTag d) x.fmode a m.2.1) x.acc
          accPoison := x.accPoison || moved.any (fun m => m.2.2) })
      else updXfer s x.id (fun x => { x with adds := x.adds ++ moved.map (fun m => (codeLoc m.1, m.2.1, m.2.2)) })
    else if dDstK d = 2 then
      updXfer s x.id (fun x => { x with out := tabPutAll x.out (vals.map (fun v => (v.2.1, v.2.2.1, v.2.2.2))) })
    else writePieces s w (dW d) vals dst

/-- The next unit of a transfer of the current group: every page is translated and every stamp checked before any
byte is written (R105). -/
def carterUnit (s : State) (x : Xfer) : State :=
  let d := x.desc
  let u := x.unit
  let w := whoX s.g x
  let kd := if dFold d = 0 then kWrite else kReadWrite
  let free := match x.rows with
    | some (r, _) => decide (x.issued < tabGet s.g.vSeq r 0)
    | none => false
  match (if free then (.ok [], s) else
      piecesOf s w kRead (dSrcK d == 1) (BitVec.ofNat 64 (dWord d 0)) (srcOff x u) (srcSpans x u)) with
  | (.error f, s) => xferFail s x kRead f
  | (.ok src, s) =>
    match piecesOf s w kd (dDstK d == 1) (BitVec.ofNat 64 (dWord d 1)) (dstOff x u) (dstSpans x u) with
    | (.error f, s) => xferFail s x kd f
    | (.ok dst, s) =>
      match stampFails s x dst with
      | some a => xferFail s x kd ⟨cRotation, a, none⟩
      | none =>
        let s := performUnit s x u src dst
        let s := declareLast (stampBlocks s x u dst) x u dst
        updXfer s x.id (fun x => { x with unit := x.unit + 1 })

/-! ### Results (R103, R106, R112) -/

/-- The bounds mask: each bit below VL that has an element, with its in-bounds state; a gather row is in bounds when some
element of it is. [log 52 DEDUCED] -/
def boundsMask (x : Xfer) : List (Nat × Bool) :=
  let d := x.desc
  match dKind d with
  | 1 => []
  | 2 => ((x.rows.map (·.2)).getD []).map (fun r => (r.1, rowIn d r && (List.range (dT d 0)).any (fun i => dIn d 0 i)))
  | _ =>
    (List.range (min x.vl (dT d 0 * unitCount x))).map (fun e =>
      (e, tileRowIn d (e / dT d 0) && dIn d 0 ((e % dT d 0 : Nat) : Int)))

/-- What a transfer has put in memory or a scratchpad made undefined: its source or index register was written before its
batch completed (R106). [log 57 DEDUCED] -/
def freeUnits (s : State) (x : Xfer) : State :=
  let d := x.desc
  if dDstK d = 2 then s
  else
    (List.range x.unit).foldl (fun s u =>
      match piecesOf s (whoX s.g x) kWrite (dDstK d == 1) (BitVec.ofNat 64 (dWord d 1)) (dstOff x u) (dstSpans x u) with
      | (.error _, s) => s
      | (.ok dst, s) =>
        let vals := (unitElems x u).filterMap (fun (i, e, st) =>
          if st = 0 ∨ (st = 2 ∧ dFold d ≠ 0) then none
          else some (i, e, Config.freeElem x.seed (2 ^ 32 + e * 65536 + i) % 2 ^ dW d, false))
        writePieces s (whoX s.g x) (dW d) vals dst) s

/-- Results of a completed transfer of the current group put into its registers; a register written by another
instruction meanwhile is undefined, and so is all that was moved once a source or index register was (R106). A failed one
leaves the mask and return registers as they were (R105). [log 54 DESIGN CHOICE, 57 DEDUCED] -/
def landXfer (s : State) (x : Xfer) : State :=
  let d := x.desc
  let lost := srcWritten s x
  let s := if lost then freeUnits s x else s
  let x := if lost then
      { x with
        out := x.out.map (fun o => (o.1, Config.freeElem x.seed (2 ^ 32 + o.1) % 2 ^ dW d, false))
        acc := Config.freeElem x.seed (2 ^ 40) % 2 ^ dW d, accPoison := false }
    else x
  let s := { s with g := { s.g with
    vPend := if dDstK d = 2 then s.g.vPend.erase (dWord d 1) else s.g.vPend
    mPend := s.g.mPend.erase x.mreg
    xPend := s.g.xPend.erase x.ret } }
  let s :=
    if dDstK d = 2 then
      let r := dWord d 1
      let v := vregOf s.g r
      if x.issued < tabGet s.g.vSeq r 0 then setV { s with freeCtr := s.freeCtr + 1 } r (v.undef s.freeCtr)
      else
        let s := setV s r { v with seed := x.heldV.seed, elems := x.heldV.elems, scales := x.heldV.scales }
        writeElems s { ctxG s with vl := x.vl } r v.tag (x.out.map (fun o => (o.1, o.2.1, o.2.2))) []
    else s
  let s :=
    if x.mreg = 0 then s
    else if s.g.mHit.contains x.mreg then
      { s with
        g := { s.g with
          m := s.g.m.setIfInBounds x.mreg ⟨s.freeCtr, []⟩
          mHit := if s.g.mPend.contains x.mreg then s.g.mHit else setDel s.g.mHit x.mreg }
        freeCtr := s.freeCtr + 1 }
    else
      let s := { s with g := { s.g with m := s.g.m.setIfInBounds x.mreg x.heldM } }
      if x.failed then s
      else writeMask s x.mreg ((boundsMask x).map (fun b => (b.1, maskBit s.g x.mreg b.1 && b.2, maskPoison s x.mreg b.1)))
  if x.ret = 0 then s
  else if s.g.xHit.contains x.ret then
    undefX { s with g := { s.g with xHit := if s.g.xPend.contains x.ret then s.g.xHit else setDel s.g.xHit x.ret } } x.ret
  else
    let old := x.failed
    let w := cw (dTag d)
    let v := if old then x.heldX.1 else if isSigned (dTag d) then sext64 x.acc w else zext64 x.acc w
    let bad := if old then x.heldX.2 else x.accPoison
    let s := setX s x.ret v
    if bad then { s with g := { s.g with xPoison := setAdd s.g.xPoison x.ret } } else s

/-- An operation of the group that joined a batch has not completed. -/
def batchBusy (s : State) (k n : Nat) : Bool :=
  s.eng.xfers.any (fun x => x.gid == s.g.gid && x.tok == k && x.batch == n && x.phase != .done)
    || s.eng.mats.any (fun o => o.gid == s.g.gid && o.tok == k && o.batch == n)

/-- Batches of token `k` that can complete do, in ascending order (R112, R114). -/
def settle (s : State) (k : Nat) : Nat → State
  | 0 => s
  | f + 1 =>
    let t := s.g.tok.toList.getD k Token.reset
    let n := (t.done + 1) % 65536
    if n = t.opn % 65536 || batchBusy s k n || t.fails.any (fun r => r.batch == n) then s
    else
      let mine (x : Xfer) : Bool := x.gid == s.g.gid && x.tok == k && x.batch == n && x.phase == .done
      let s1 := (s.eng.xfers.filter mine).foldl landXfer s
      let s2 := { s1 with eng := { s1.eng with xfers := s1.eng.xfers.filter (fun x => !mine x) } }
      settle (updToken s2 k (fun t => { t with done := n })) k f

/-- Batches closed and not complete of a token. [log 57 DEDUCED] -/
def settleTok (s : State) (k : Nat) : State :=
  let t := s.g.tok.toList.getD k Token.reset
  settle s k ((t.opn + 65536 - t.done % 65536) % 65536)

end Sys2Proof.Machine
end

