-- ==== Sys2Proof/Machine/Sysreg.lean ====
section
/-!
DEFINITION. System registers: their values, their writes and the waits of R244; the steps that perform a
deferred write; and vcfg, vgrant and mshape (R241 to R247).
-/

namespace Sys2Proof.Machine

/-- Register of a group's batch state (R110). -/
def tokenWord (t : Token) : Word :=
  BitVec.ofNat 64 ((if t.fail.isSome then 2 ^ 32 else 0) + t.done % 2 ^ 16 * 2 ^ 16 + t.opn % 2 ^ 16)

/-- LANEPART of a core (R134). -/
def lanepartWord (k : Core) : Nat :=
  (List.range 8).foldl (fun a i => a + ((k.lanepart.toList.getD i none).getD 15) * 16 ^ i) 0

/-- LRMAP register `k` of a core (R135). -/
def lrmapWord (c : Core) (k : Nat) : Nat :=
  (List.range 8).foldl (fun a i =>
    let l := 8 * k + i
    a + ((if l < c.lanemod then 128 else 0) + c.lrmap.toList.getD l 0 % 128) * 256 ^ i) 0

/-- GRPID (R243). -/
def grpidWord (p : Place) : Nat :=
  p.core * 2 ^ 16 + (if p.det then 2 ^ 12 else 0) + p.gix * 2 ^ 8 + (if p.det then 0 else p.team) * 2 ^ 4 + p.slot

/-- SPPART and CLPOS (R89, R90). -/
def sppartWord (p : Place) : Nat := p.spSize * 2 ^ 16 + p.spBase
def clposWord (p : Place) : Nat := p.origin * 2 ^ 16 + p.rows % 16 * 2 ^ 12 + p.cols % 16 * 2 ^ 8 + p.teamix

/-- ROLE with the bits of sections not owned read as 0 (R138). -/
def secroleWord (s : State) : Nat :=
  (ownedSections s s.g).foldl (fun a i => a + (if bit s.g.vc.secrole i then 2 ^ i else 0)) 0

/-- The launch of the current group. -/
def myLaunch (s : State) : Option Launch := findLaunch s s.g.launch

/-- The value of a system register (R242, R243). [log 118 DESIGN CHOICE] -/
def sysRead (s : State) (n : Nat) : Word :=
  let g := s.g
  let k := coreOf s g.pl.core
  let v := g.vc
  let N := fun (x : Nat) => BitVec.ofNat 64 x
  match n with
  | 0x000 => N v.vl
  | 0x001 => N v.vlmax
  | 0x002 => N v.vstart
  | 0x003 => N v.grantgen
  | 0x010 => N (lanepartWord k)
  | 0x011 => N k.lanemod
  | 0x012 => N (secroleWord s)
  | 0x013 => N (sppartWord g.pl)
  | 0x014 => N (clposWord g.pl)
  | 0x015 => N (grpidWord g.pl)
  | 0x020 => N v.tilem
  | 0x021 => N v.tilen
  | 0x022 => N v.tilek
  | 0x030 => N v.fmode
  | 0x031 => N v.fflags
  | 0x032 => N v.seed
  | 0x040 => N g.splimit
  | 0x041 => N g.spcount
  | 0x050 => g.tr.tvec
  | 0x051 => N g.tr.tcause
  | 0x052 => g.tr.tval
  | 0x053 => g.tr.tepc
  | 0x054 => N (b2n g.tr.plev * 2 + b2n g.tr.lev)
  | 0x070 => N g.asid
  | 0x071 => s.cycle
  | 0x072 => g.retired
  | 0x073 => g.nackcnt
  | 0x078 => g.codeBase
  | 0x079 => N g.codeLen
  | 0x080 => N (((myLaunch s).map Launch.wdlimit).getD 0)
  | 0x081 => ((myLaunch s).map Launch.errq).getD 0
  | n =>
    if 0x018 ≤ n ∧ n ≤ 0x01F then N (lrmapWord k (n - 0x018))
    else if 0x058 ≤ n ∧ n ≤ 0x05B then g.tr.tsave.toList.getD (n - 0x058) 0
    else if 0x060 ≤ n ∧ n ≤ 0x067 then tokenWord (g.tok.toList.getD (n - 0x060) Token.reset)
    else 0

/-- The register may be read at the current level (R242). [log 118 DESIGN CHOICE] -/
def sysReadable (g : Group) (n : Nat) : Bool :=
  sysregListed n && (g.steward || !((decide (0x018 ≤ n) && decide (n ≤ 0x01F)) || (decide (0x050 ≤ n) && decide (n ≤ 0x05B))))

/-- The register may be written at the current level (R242). [log 118 DESIGN CHOICE] -/
def sysWritable (g : Group) (n : Nat) : Bool :=
  sysregListed n &&
    (n == 0x002 || n == 0x012 || (decide (0x030 ≤ n) && decide (n ≤ 0x032))
      || (g.steward && !(decide (0x010 ≤ n) && decide (n ≤ 0x01F)) && n != 0x071))

/-! ### Waits (R244) -/

/-- A VP of the group is independent. -/
def vpIndependent (g : Group) : Bool :=
  g.vps.any (fun v => match v.st with
    | .indep _ _ _ _ | .away _ _ => true
    | _ => false)

/-- An operation of token `k` is in progress. -/
def tokenBusy (s : State) (k : Nat) : Bool :=
  s.eng.mats.any (fun o => o.gid == s.g.gid && o.tok == k) || s.eng.xfers.any (fun o => o.gid == s.g.gid && o.tok == k && o.phase != .done)

/-- A gsr of the register waits. -/
def readWaits (s : State) (n : Nat) : Bool :=
  (n == 0 || n == 2 || n == 0x031 || (decide (0x020 ≤ n) && decide (n ≤ 0x022))) && queueHeld s

/-- An ssr of the register waits. -/
def writeWaits (s : State) (n : Nat) : Bool :=
  if n = 0 ∨ n = 1 ∨ n = 2 ∨ n = 0x031 ∨ (0x020 ≤ n ∧ n ≤ 0x022) ∨ n = 0x012 then queueHeld s
  else if n = 0x032 ∨ n = 0x070 then queueHeld s || vpIndependent s.g
  else if 0x060 ≤ n ∧ n ≤ 0x067 then queueHeld s || tokenBusy s (n - 0x060)
  else false

/-! ### Writes -/

def setVc (s : State) (f : VecRegs → VecRegs) : State := { s with g := { s.g with vc := f s.g.vc } }
def setTr (s : State) (f : TrapRegs → TrapRegs) : State := { s with g := { s.g with tr := f s.g.tr } }

/-- SEED written: every share lane reseeded, in a split group each side's by their numbers in the side (R139, R162).
[log 19 DEDUCED] -/
def seedSet (s : State) (v : Nat) : State :=
  let seed := v % 2 ^ 32
  let lanes := (sideKeys s true).zipIdx ++ (sideKeys s false).zipIdx
  setVc s (fun c => { c with seed := seed, lfsr := tabPutAll [] (lanes.map (fun l => (l.1, lfsrSeed seed l.2))) })

/-- Every vector and mask register undefined, each with a seed of its own (R2, R138).
[log 20 DESIGN CHOICE, 41 DESIGN CHOICE] -/
def undefAll (s : State) : State :=
  let n := s.freeCtr
  { s with
    g := { s.g with
      v := s.g.v.mapFinIdx (fun i v _ => v.undef (n + i))
      m := s.g.m.mapFinIdx (fun i _ _ => ⟨n + 32 + i, []⟩) }
    freeCtr := n + 40 }

/-- SECROLE written (R138): a change of an owned section's role leaves every vector and mask register
undefined, and every binding, which then is kept or lost. [log 41 DESIGN CHOICE] -/
def secroleSet (s : State) (v : Nat) : State :=
  let own := ownedSections s s.g
  let new := own.foldl (fun a i => a + (if bit v i then 2 ^ i else 0)) 0
  let changed := new != secroleWord s
  let s := setVc s (fun c => { c with secrole := new })
  if changed then
    let s := undefAll s
    let keep := Config.choice s.freeCtr % 2 == 0
    { s with g := { s.g with binds := if keep then s.g.binds else [] }, freeCtr := s.freeCtr + 1 }
  else s

/-- ASID written (R63, R244). -/
def asidSet (s : State) (v : Nat) : State := { s with g := { s.g with asid := v % 2 ^ 16 } }

/-- BSEQk written (R110): FAIL as 0 discards the failures held, FAIL as 1 keeps them; batches that nothing holds back
then complete (R112). -/
def bseqSet (s : State) (k v : Nat) : State :=
  settleTok (updToken s k (fun t =>
    { fail := if bit v 32 then t.fail else none, done := bits v 31 16, opn := bits v 15 0
      more := if bit v 32 then t.more else [] })) k

/-- VL, VLMAX, VSTART, FFLAGS or a tile register written (R128, R156, R243). A VL above 262,144, for which R128 states no
outcome, is stored as its 19 bits are written. [log 125 DESIGN CHOICE] -/
def deferredSet (s : State) (n v : Nat) : State :=
  match n with
  | 0x000 => setVc s (fun c => { c with vl := v % 2 ^ 19 })
  | 0x001 => setVc s (fun c => { c with vlmax := v % 2 ^ 19 })
  | 0x002 => setVc s (fun c => { c with vstart := v % 2 ^ 19 })
  | 0x020 => setVc s (fun c => { c with tilem := v % 2 ^ 10 })
  | 0x021 => setVc s (fun c => { c with tilen := v % 2 ^ 9 })
  | 0x022 => setVc s (fun c => { c with tilek := v % 2 ^ 13 })
  | 0x031 => setVc s (fun c => { c with fflags := v % 2 ^ 5 })
  | _ => s

/-- FMODE as a write stores it (R155). -/
def fmodeOf (v : Nat) : Nat := bits v 11 7 * 2 ^ 7 + (if 6 ≤ v % 8 then 0 else v % 8)

/-- ERRQBASE as a write stores it (R437). -/
def errqOf (v : Nat) : Word := BitVec.ofNat 64 (bits v 51 12 * 4096 + bits v 7 4 * 16 + v % 2)

/-- A system register written, its waits past (R242, R243). [log 45 DEDUCED] -/
def sysWrite (s : State) (n : Nat) (w : Word) : State :=
  let v := w.toNat
  let al := w &&& ~~~3#64
  match n with
  | 0x003 => setVc s (fun c => { c with grantgen := v % 2 ^ 32 })
  | 0x012 => secroleSet s v
  | 0x030 => setVc s (fun c => { c with fmode := fmodeOf v })
  | 0x032 => seedSet s v
  | 0x040 => { s with g := { s.g with splimit := max 64 (v % 2 ^ 16) } }
  | 0x041 => { s with g := { s.g with spcount := v % 2 ^ 17 } }
  | 0x050 => setTr s (fun t => { t with tvec := al })
  | 0x051 => setTr s (fun t => { t with tcause := v % 2 ^ 8 })
  | 0x052 => setTr s (fun t => { t with tval := w })
  | 0x053 => setTr s (fun t => { t with tepc := al })
  | 0x054 => setTr s (fun t => { t with plev := bit v 1 })
  | 0x070 => asidSet s v
  | 0x072 => { s with g := { s.g with retired := w } }
  | 0x073 => { s with g := { s.g with nackcnt := w } }
  | 0x078 => { s with g := { s.g with codeBase := al } }
  | 0x079 => { s with g := { s.g with codeLen := v % 2 ^ 40 } }
  | 0x080 => updLaunch s s.g.launch (fun l => { l with wdlimit := v % 2 ^ 48 })
  | 0x081 => updLaunch s s.g.launch (fun l => { l with errq := errqOf v })
  | n =>
    if 0x058 ≤ n ∧ n ≤ 0x05B then setTr s (fun t => { t with tsave := t.tsave.setIfInBounds (n - 0x058) w })
    else if 0x060 ≤ n ∧ n ≤ 0x067 then bseqSet s (n - 0x060) v
    else deferredSet s n v

/-- gsr (R241, R244). -/
def execGsr (d : Fin 32) (n : Fin 4096) (s : State) : Res :=
  .next (if sysReadable s.g n = false then trapIllegal s
    else if readWaits s n then waitHere s
    else retire (setX s d (sysRead s n)))

/-- A ROLE under which the group would be split; a portable image refuses it (R139, R480). -/
def roleSplits (s : State) (v : Nat) : Bool :=
  let own := ownedSections s s.g
  own.any (fun i => bit v i) && own.any (fun i => !bit v i)

/-- ssr (R241, R244). [log 45 DEDUCED] -/
def execSsr (a : Fin 32) (n : Fin 4096) (s : State) : Res :=
  .next (if sysWritable s.g n = false then trapIllegal s
    else readingX s [a] fun s =>
      let w := getX s a
      if n.val = 0x012 ∧ s.g.portable ∧ roleSplits s w.toNat then trap s cIllegal w
      else if writeWaits s n then waitHere s
      else retire (sysWrite s n w))

/-! ### The steps that perform a write that waited -/

/-- A step on the group that the message names, when it holds a slot. -/
def onMsgGroup (s : State) (f : State → State) : Res :=
  match findGroup s s.msg.gid with
  | none => .fault .noSuchUnit
  | some _ => .next (onGroup s s.msg.gid f)

/-- SEED written once the queue is empty and no VP is independent (R162). -/
def execSeedWrite (s : State) : Res :=
  onMsgGroup s fun s => if queueHeld s || vpIndependent s.g then s else seedSet s s.msg.val

/-- SECROLE written once the queue is empty (R138); a portable image's `ssr` never asks for a write that would split the
group (R480). -/
def execSecroleWrite (s : State) : Res :=
  onMsgGroup s fun s => if queueHeld s || (s.g.portable && roleSplits s s.msg.val) then s else secroleSet s s.msg.val

/-- ASID written once the queue is empty and no VP is independent (R63, R244). -/
def execAsidWrite (s : State) : Res :=
  onMsgGroup s fun s => if queueHeld s || vpIndependent s.g then s else asidSet s s.msg.val

/-- BSEQk written once the queue is empty and no operation of the token is in progress (R110, R244). -/
def execBseqWrite (s : State) : Res :=
  onMsgGroup s fun s =>
    if queueHeld s || tokenBusy s (s.msg.tok % 8) then s else bseqSet s (s.msg.tok % 8) s.msg.val

/-- VL, VLMAX, VSTART, FFLAGS or a tile register written once the queue is empty (R244). -/
def execSysregDeferredWrite (s : State) : Res :=
  onMsgGroup s fun s => if queueHeld s then s else deferredSet s s.msg.num s.msg.val

/-! ### CFG (R245 to R247) -/

/-- A configuration word of R118. -/
def cfgWord (v : VReg) : Nat := b2n v.pin * 2 ^ 11 + b2n v.td * 2 ^ 10 + v.gf % 4 * 2 ^ 8 + v.tag

/-- vcfg in queue order (R245). -/
def vcfgV (d cw : Nat) (s : State) : VOut :=
  let v := vregOf s.g d
  if (boundTo s.g d).isSome ∧ cw % 2 ^ 11 ≠ cfgWord v % 2 ^ 11 then .fail s cStream (regVal d) none false
  else
    let tag := cw % 32
    let gf := bits cw 9 8
    let td := bit cw 10
    let need := rowsNeed tag gf td (sideLanes s s.g (vSide d)) s.g.vc.vl
    rowCheck s d need fun _ =>
    let s := { s with g := { s.g with rowMap := setRows s.g.rowMap d need } }
    let same := cw % 2 ^ 11 = cfgWord v % 2 ^ 11
    let v' := if same then v else v.undef s.freeCtr
    let s := { s with freeCtr := s.freeCtr + 1 }
    .done (setV s d { v' with tag := tag, gf := gf, td := td, pin := bit cw 11 })

/-- A form of the queue that is no vector instruction: it waits for its place, and VSTART stays. -/
def controlQ (s : State) (f : State → VOut) : State :=
  if queueHeld s then waitHere s
  else
    match f s with
    | .done s' => retire s'
    | .fail s' cause val _ _ => trap s' cause val
    | .wait s' => waitHere s'

/-- vcfg (R245). -/
def execVcfg (d a : Fin 32) (s : State) : Res :=
  .next (readingX s [a] fun s =>
    let cw := (getX s a).toNat % 2 ^ 16
    if bits cw 15 12 ≠ 0 ∨ bits cw 7 5 ≠ 0 ∨ 0x1D ≤ cw % 32 then trap s cIllegal (BitVec.ofNat 64 cw)
    else controlQ s (vcfgV d cw))

/-- Bits of a width code of vgrant (R205). -/
def widthOf (w : Nat) : Nat :=
  match w with
  | 0 => 1
  | 1 => 4
  | 2 => 8
  | 3 => 16
  | 4 => 32
  | _ => 64

/-- VLMAX under a share (R126). -/
def vlmaxOf (lanes g w : Nat) : Nat := lanes * gfRows g * 512 / widthOf w

/-- vgrant (R246). [log 12 DEDUCED] -/
def execVgrant (d a : Fin 32) (g : Fin 4) (w : Fin 8) (s : State) : Res :=
  .next (readingX s [a] fun s =>
    let vmax := vlmaxOf (lanesV s s.g) g w
    let n := min (getX s a).toNat vmax
    retire (setX (setVc s (fun c => { c with vlmax := vmax, vl := n, vstart := 0, vgw := w, vgg := g })) d
      (BitVec.ofNat 64 n)))

/-- mshape (R247). [log 12 DEDUCED] -/
def execMshape (d a : Fin 32) (s : State) : Res :=
  .next (readingX s [a] fun s =>
    let r := (getX s a).toNat
    let m := min (bits r 15 0) 512
    let n := min (bits r 31 16) 256
    let k := min (bits r 47 32) 4096
    retire (setX (setVc s (fun c => { c with tilem := m, tilen := n, tilek := k })) d
      (BitVec.ofNat 64 (m + n * 2 ^ 16 + k * 2 ^ 32))))

end Sys2Proof.Machine
end

