-- ==== Sys2Proof/Machine/Copy.lean ====
section
/-!
DEFINITION. COPY: the issue of a copy, and the steps of the Carter (R97 to R107, R273, R274).
-/

namespace Sys2Proof.Machine

/-! ### Issue (R99, R274) -/

/-- The row numbers that a gather accepts (R102). -/
def rowTag (t : Nat) : Bool := isInt t && decide (32 ≤ cw t)

/-- Bits of the descriptor that make it illegal (R99, R101, R102, R104, R273, R274); ROT = 7, which R98 reserves and R99
does not list, is among them whatever the destination. [log 50 DEDUCED, 127 DESIGN CHOICE] -/
def descIllegal (d : Vector Word 16) (gather : Bool) (ret : Nat) : Bool :=
  let regBad (k i : Nat) : Bool := k == 2 && decide (32 ≤ dWord d i)
  let dimBad := [0, 1, 2, 3].any (fun j => dT d j == 0)
  bits (dWord d 2) 35 0 != 0 || decide (3 ≤ dKind d) || dSrcK d == 3 || dDstK d == 3 || dFold d == 3
    || dRot d == 7 || tagReserved (dTag d) || gather != (dKind d == 2)
    || regBad (dSrcK d) 0 || regBad (dDstK d) 1
    || (dWord d 15 != 0 && dFold d != 2) || (ret != 0 && dFold d != 2)
    || (dNotify d != 0 && dCount d == 0) || (dCount d != 0 && dDstK d == 2)
    || (dShort d && (dKind d != 0 || dDstK d != 2))
    || (if dKind d = 1 then
          dTag d != 0 || dFold d != 0 || dBounds d || regEnd d || bits (dWord d 4) 63 40 != 0
        else
          dTag d == 0 || dimBad
            || (dKind d == 2 && (dT d 1 != 1 || dT d 2 != 1 || dT d 3 != 1 || regEnd d || dFold d != 0))
            || (dFold d != 0 && (dDstK d == 2 || dCount d != 0 || !millTag (dTag d)
                || dWord d 8 != 0 || dWord d 9 != 0 || dWord d 10 != 0)))

/-- The base or step that is not a multiple of the element size, or the packed size or origin that is not a
multiple of 32 (R99); the value of a misaligned o0 is its own, sign-extended. [log 50 DEDUCED, 127 DESIGN CHOICE] -/
def descMisaligned (d : Vector Word 16) : Option Nat :=
  if dKind d = 1 then none
  else if 8 ≤ dW d then
    let n := dW d / 8
    ((if dSrcK d = 2 then [] else [0, 5, 6, 7]) ++ (if dDstK d = 2 then [] else [1, 8, 9, 10])).map (dWord d)
      |>.find? (fun x => x % n != 0)
  else if dT d 0 % 32 ≠ 0 then some (dT d 0)
  else if dOrg d 0 % 32 ≠ 0 then some (wrapN (dOrg d 0) 64)
  else none

/-- A vector-register endpoint whose tag is not TAG or is an MX tag, or whose capacity VL exceeds; for a gather the
register of row numbers likewise (R99, R102, R127). -/
def regMismatch (s : State) (d : Vector Word 16) (rows : Option Nat) : Option Nat :=
  let bad (r : Nat) (ok : Bool) : Bool := !ok || decide (capacity s r (vregOf s.g r).tag (vregOf s.g r).gf < s.g.vc.vl)
  let ends := (if dSrcK d = 2 then [dWord d 0] else []) ++ (if dDstK d = 2 then [dWord d 1] else [])
  match ends.find? (fun r => bad r ((vregOf s.g r).tag == dTag d && !isMx (dTag d))) with
  | some r => some r
  | none => rows.bind (fun r => if bad r (rowTag (vregOf s.g r).tag) then some r else none)

/-- The scratchpad endpoint of which some byte that the transfer moves lies outside its partition (R91, R99).
[log 51 DEDUCED] -/
def spEndFails (s : State) (x : Xfer) : Option Nat :=
  let d := x.desc
  let bad (k i : Nat) (off : Nat → Int) (spans : Nat → List (Nat × Nat)) : Bool :=
    k == 1 && (List.range (unitCount x)).any (fun u => (spans u).any (fun p =>
      match locAt true (BitVec.ofNat 64 (dWord d i)) (off u + p.1), locAt true (BitVec.ofNat 64 (dWord d i)) (off u + p.1 + (p.2 - 1 : Nat)) with
      | .sp a ok, .sp _ ok' => !ok || !ok' || (spLocate s s.g a p.2).isNone
      | _, _ => true))
  if bad (dSrcK d) 0 (srcOff x) (srcSpans x) then some (dWord d 0)
  else if bad (dDstK d) 1 (dstOff x) (dstSpans x) then some (dWord d 1)
  else none

/-- VL as VLSHORT leaves it (R103). [log 52 DEDUCED] -/
def shortVl (d : Vector Word 16) (vl : Nat) : Nat :=
  if dShort d && dBounds d then
    let e := (max 0 (dExt d 0 - dOrg d 0)).toNat
    if e < dT d 0 then min vl e else vl
  else vl

/-- Bytes that a transfer moves, counted at the destination, or at the source for a fold (R97). [log 52 DEDUCED] -/
def movedBytes (x : Xfer) : Nat :=
  let d := x.desc
  if dKind d = 1 then dLen d
  else
    (List.range (unitCount x)).foldl (fun a u =>
      let n := ((unitElems x u).filter (fun e => e.2.2 == 1 || (e.2.2 == 2 && dFold d == 0))).length
      a + ceilDiv (n * dW d) 8) 0

/-- The core whose declaration table takes a transfer's entry: that of a scratchpad destination, else the
issuer's (R47, R109). -/
def declCore (s : State) (g : Group) (d : Vector Word 16) : Nat :=
  if dDstK d = 1 then ((partitionOf s g (dWord d 1)).map (·.1)).getD g.pl.core else g.pl.core

/-- The scope of a transfer's declaration (R107, R109). -/
def declScope (g : Group) (d : Vector Word 16) : Nat :=
  if dDstK d = 1 && bit (dWord d 1) 21 then clusterScope g.pl.origin else teamScope g.pl.core g.pl.team

/-- Transfers that hold a place at a core's Carter (R97). -/
def placesUsed (s : State) (core : Nat) : Nat :=
  (s.eng.xfers.filter (fun x => x.gid / 16 == core && (x.phase == .queued || x.phase == .running))).length

/-- The oldest copy of a core that waits to be handed over moves on: its table entry, then its leave, then its
place (R274); none where each waits. -/
def carterStep (s : State) (core : Nat) : Option State :=
  let mine := s.eng.xfers.filter (fun x => x.gid / 16 == core)
  let entry : Option State :=
    (mine.find? (fun x => x.phase == .entry)).bind (fun x =>
      match findGroup s x.gid with
      | none => none
      | some g =>
        if dCount x.desc = 0 then some (updXfer s x.id (fun x => { x with phase := .leave }))
        else
          let c := declCore s g x.desc
          (freeEntry s c).map (fun i =>
            let npa := if dNotify x.desc = 0 then none
              else match translate s (whoX g x) kWrite (dNotify x.desc) with
                | (.ok pa, _) => some pa
                | (.error _, _) => none
            let e : DeclEntry := ⟨c, i, declScope g x.desc, npa, xferUnits x, xferUnits x, 0, false, x.gid, x.asid⟩
            updXfer { s with ra := { s.ra with entries := s.ra.entries ++ [e] } } x.id
              (fun x => { x with decl := some (c, i), phase := .leave })))
  let leave : Option State :=
    (mine.find? (fun x => x.phase == .leave &&
        !(s.eng.leaves.any (fun l => l.xfer == some x.id && !l.granted)))).map (fun x =>
      if movedBytes x ≤ 65536 ∨ s.eng.leaves.any (fun l => l.xfer == some x.id) then
        updXfer s x.id (fun x => { x with phase := .place })
      else askLeave s ⟨dieOf core, x.gid, some x.id, none, none, 2, false⟩)
  let place : Option State :=
    (mine.find? (fun x => x.phase == .place)).bind (fun x =>
      if placesUsed s core < 64 then some (updXfer s x.id (fun x => { x with phase := .queued })) else none)
  place <|> leave <|> entry

/-- A core's waiting copies moved on as far as they can be. -/
def carterAdvance (s : State) (core : Nat) : Nat → State
  | 0 => s
  | f + 1 =>
    match carterStep s core with
    | some s => carterAdvance s core f
    | none => s

/-- The destination registers undefined until the batch completes (R106); the transfer with what they held.
[log 57 DEDUCED] -/
def holdDest (s : State) (x : Xfer) : State × Xfer :=
  let g := s.g
  let d := x.desc
  let dv := dWord d 1
  let x := { x with
    heldV := if dDstK d = 2 then vregOf g dv else VReg.reset
    heldM := mregOf g x.mreg
    heldX := (getX s x.ret, g.xPoison.contains x.ret) }
  let s := if dDstK d = 2 then setV { s with freeCtr := s.freeCtr + 1 } dv ((vregOf g dv).undef s.freeCtr) else s
  let s := if x.mreg = 0 then s
    else { s with
      g := { s.g with
        m := s.g.m.setIfInBounds x.mreg ⟨s.freeCtr, []⟩
        mHit := if s.g.mPend.contains x.mreg then setAdd s.g.mHit x.mreg else s.g.mHit }
      freeCtr := s.freeCtr + 1 }
  let s := if x.ret = 0 then s else undefX s x.ret
  ({ s with
      g := { s.g with
        vPend := if dDstK d = 2 then s.g.vPend ++ [dv] else s.g.vPend
        mPend := if x.mreg = 0 then s.g.mPend else s.g.mPend ++ [x.mreg]
        xPend := if x.ret = 0 then s.g.xPend else s.g.xPend ++ [x.ret] }
      freeCtr := s.freeCtr + 1 }, { x with issued := s.clock, seed := s.freeCtr })

/-- A copy at the head of the vector queue: its descriptor at `da`, its token, mask register, gather register and
return register (R99, R274). In a split group, a copy that names no vector register may name a mask register of either
side. [log 50 DEDUCED, 56 DEDUCED, 128 DESIGN CHOICE] -/
def copyIssue (s : State) (da : Word) (tok mreg ret : Nat) (rows : Option Nat) (masked : Bool) : VOut :=
  let s := setVc s (fun v => { v with vstart := 0 })
  let fail (s : State) (c : Nat) (v : Nat) : VOut := .fail s c (BitVec.ofNat 64 v) none false
  match checkLoc s (whoV s) kRead (.va da.toNat) 128 128 with
  | (.error f, s) => fail (failRecord s (whoV s) kRead f) f.cause f.val
  | (.ok (.sp _ _), s) => fail s cPermission da.toNat
  | (.ok (.pa pa), s) =>
    let (v, bad, s) := busRead s (whoV s) pa 128
    if bad then fail s cPoison da.toNat
    else
      let d : Vector Word 16 := Vector.ofFn (fun i => BitVec.ofNat 64 (v / 2 ^ (64 * i.val)))
      if descIllegal d rows.isSome ret then fail s cIllegal da.toNat
      else
        let (nres, s) := if dNotify d = 0 then (.ok 0, s) else checkFuture s (whoG s) kWrite (dNotify d)
        match nres with
        | .error f => fail (failRecord s (whoG s) kWrite f) f.cause f.val
        | .ok _ =>
          if dCount d ≠ 0 ∧ s.g.pl.det then fail s cBarrier 0
          else
            match descMisaligned d with
            | some v => fail s cMisaligned v
            | none =>
              let regs := (if dSrcK d = 2 then [dWord d 0] else []) ++ (if dDstK d = 2 then [dWord d 1] else []) ++ rows.toList
              let body (_ : Unit) : VOut :=
                match regMismatch s d rows with
                | some r => fail s cTag r
                | none =>
                  maskClean s (ctxG s) (if masked then mreg else 0) fun _ =>
                  let vl := shortVl d s.g.vc.vl
                  let act := active s.g { ctxG s with vl := vl } (if masked then mreg else 0)
                  let rv := rows.map (fun r => (r, act.map (fun e => (e, elemInt s r e, elemPoison s r e))))
                  let x : Xfer := {
                    id := s.eng.nextId, gid := s.g.gid, tok := tok
                    batch := (s.g.tok.toList.getD tok Token.reset).opn
                    asid := s.g.asid, steward := s.g.steward, phase := .entry, desc := d, rows := rv
                    mreg := mreg, ret := ret, act := act, vl := vl, fmode := s.g.vc.fmode, issued := 0, unit := 0
                    acc := bits (dWord d 15) (dW d - 1) 0, accPoison := false, out := [], adds := [], seed := 0
                    heldV := VReg.reset, heldM := MReg.reset, heldX := (0, false), decl := none, failed := false }
                  match spEndFails s x with
                  | some a => fail s cPermission a
                  | none =>
                    let go (_ : Unit) : VOut :=
                      let s := setVc s (fun v => { v with vl := vl })
                      let (s, x) := holdDest s x
                      let s := { s with eng := { s.eng with xfers := s.eng.xfers ++ [x], nextId := s.eng.nextId + 1 } }
                      .done (carterAdvance s s.g.pl.core 4)
                    if dDstK d = 2 then
                      let v := vregOf s.g (dWord d 1)
                      rowCheck s (dWord d 1) (rowsNeed v.tag v.gf v.td (sideLanes s s.g (vSide (dWord d 1))) vl) go
                    else go ()
              if regs = [] then body () else sideCheck s true regs [mreg] body

/-- cpy (R273, R274). [log 56 DEDUCED] -/
def execCpy (a : Fin 32) (m : Fin 8) (c : Fin 32) (t : Fin 8) (f : Bool) (s : State) : Res :=
  .next (readingX s [a] fun s => controlQ s (fun s => copyIssue s (getX s a) t m c none f))

/-- cpy.g (R273, R274). [log 56 DEDUCED] -/
def execCpyG (a v : Fin 32) (m t : Fin 8) (f : Bool) (s : State) : Res :=
  .next (readingX s [a] fun s => controlQ s (fun s => copyIssue s (getX s a) t m 0 (some v.val) f))

/-! ### Steps of the Carter -/

/-- CARTER_ACCEPT (R97): a copy of the message's core that waits moves on. -/
def execCarterAccept (s : State) : Res :=
  if Config.cores ≤ s.msg.core then .fault .noSuchUnit
  else .next ((carterStep s s.msg.core).getD s)

/-- A token of a group holds a failure that has not been reported: no operation of it begins (R114). -/
def tokenHeld (s : State) (gid k : Nat) : Bool :=
  ((findGroup s gid).map (fun g => (g.tok.toList.getD k Token.reset).fail.isSome)).getD false

/-- The first queued transfer of each slot that may begin, in round-robin order (R97): its token holds no failure
(R114), and no ordered fold of its group is in progress before an ordered fold (R104). -/
def beginOrder (s : State) (core : Nat) : List Xfer :=
  let last := tabGet s.eng.lastServed (256 + core) 15
  ((List.range 16).map (fun i => (last + 1 + i) % 16)).filterMap (fun slot =>
    (s.eng.xfers.find? (fun x => x.gid == core * 16 + slot && x.phase == .queued)).bind (fun x =>
      let held := tokenHeld s x.gid x.tok
      let ordered := dFold x.desc == 2 && s.eng.xfers.any (fun y => y.gid == x.gid && y.phase == .running && dFold y.desc == 2)
      if held || ordered then none else some x))

/-- The transfer that the core's Carter begins next: at most eight are in progress (R97). -/
def beginNext (s : State) (core : Nat) : Option Xfer :=
  if (s.eng.xfers.filter (fun x => x.gid / 16 == core && x.phase == .running)).length < 8 then (beginOrder s core).head?
  else none

/-- CARTER_TRANSFER_BEGIN (R97): the next transfer of the message's core begins. -/
def execCarterTransferBegin (s : State) : Res :=
  if Config.cores ≤ s.msg.core then .fault .noSuchUnit
  else
    .next (match beginNext s s.msg.core with
      | some x =>
        let s := updXfer s x.id (fun x => { x with phase := .running })
        { s with eng := { s.eng with lastServed := tabPut s.eng.lastServed (256 + s.msg.core) (x.gid % 16) } }
      | none => s)

/-- The running transfer of the message. -/
def msgXfer (s : State) : Option Xfer := s.eng.xfers.find? (fun x => x.id == s.msg.id && x.phase == .running)

/-- The transfer has units left. -/
def unitsLeft (x : Xfer) : Bool := !x.failed && decide (x.unit < unitCount x)

/-- CARTER_UNIT (R105): the message's transfer performs its next unit. -/
def execCarterUnit (s : State) : Res :=
  match msgXfer s with
  | none => .fault .noSuchUnit
  | some x => .next (if unitsLeft x then onGroup s x.gid (fun s => carterUnit s x) else s)

/-- Declarations of a transfer that are held at their slices (R45). -/
def declHeld (s : State) (d : Option (Nat × Nat)) : Bool :=
  match d with
  | some (core, idx) => s.ra.held.any (fun h => h.core == core && h.decl == idx)
  | none => false

/-- A declaration made whole: its entry ends when nothing was newly made live, or all of it is Spent already
(R47, R276). [log 58 DEDUCED] -/
def sealEntry (s : State) (core idx : Nat) : State :=
  let s := updEntry s core idx (fun e => { e with sealed := true, lines := e.lines - e.due, due := 0 })
  match entryOf s core idx with
  | some e => if e.made = 0 then endEntry s core idx 0 else if e.lines = 0 then endEntry s core idx 1 else s
  | none => s

/-- A running transfer can complete: no unit is left and none of its declarations waits. -/
def xferReady (s : State) (x : Xfer) : Bool := x.phase == .running && !unitsLeft x && !declHeld s x.decl

/-- CARTER_COMPLETE (R112): the message's transfer completes; an unordered fold's additions are in some order.
[log 58 DEDUCED] -/
def execCarterComplete (s : State) : Res :=
  match msgXfer s with
  | none => .fault .noSuchUnit
  | some x =>
    .next (if xferReady s x then
      onGroup s x.gid fun s =>
        let order := freeOrder s.freeCtr x.adds
        let s := { s with freeCtr := s.freeCtr + x.adds.length }
        let s := order.foldl (fun s a => foldAdd s (whoX s.g x) (dTag x.desc) x.fmode (decodeLoc a.1) a.2.1 a.2.2) s
        let s := match x.decl with
          | some (c, i) => sealEntry s c i
          | none => s
        let s := dropLeaves s (fun l => l.xfer == some x.id)
        settleTok (updXfer s x.id (fun x => { x with phase := .done, adds := [] })) x.tok
    else s)

end Sys2Proof.Machine
end

