-- ==== Sys2Proof/Machine/Window.lean ====
section
/-!
DEFINITION. Accumulator regions, and the operand windows of matrix operations (R133, R192, R193, R332).
-/

namespace Sys2Proof.Machine

/-! ### Regions -/

/-- Key of accumulator element (i, j). -/
def accKey (i j : Nat) : Nat := i * 1024 + j

/-- The pattern of an element. -/
def AccElem.pat (k : Nat) : AccElem → Nat
  | .val p => p
  | .free seed => Config.freeElem seed k % 2 ^ 32

/-- Pattern of element (i, j) of a region. -/
def Region.elem (r : Region) (i j : Nat) : Nat := (tabGet r.elems (accKey i j) r.rest).pat (accKey i j)

/-- Elements written, each with its poison. -/
def Region.put (r : Region) (ws : List (Nat × AccElem × Bool)) : Region :=
  { r with
    elems := tabPutAll r.elems (ws.map (fun w => (w.1, w.2.1)))
    poison := ws.foldl (fun p w => if w.2.2 then setAdd p w.1 else setDel p w.1) r.poison }

/-- The region of a group's handle. -/
def regionOf (s : State) (gid z : Nat) : Option Region := s.eng.regions.find? (fun r => r.gid == gid && r.z == z)

/-- A region changed. -/
def updRegion (s : State) (gid z : Nat) (f : Region → Region) : State :=
  { s with eng := { s.eng with regions := updFirst s.eng.regions (fun r => r.gid == gid && r.z == z) f } }

/-- Every element of a tile undefined. -/
def undefTile (s : State) (gid z : Nat) : State :=
  { (updRegion s gid z (fun r => { r with rest := .free s.freeCtr, elems := [] })) with freeCtr := s.freeCtr + 1 }

/-- The keys of the first `m` rows and `n` columns. -/
def tileKeys (m n : Nat) : List Nat := (List.range m).flatMap (fun i => (List.range n).map (accKey i))

/-- The elements that an operation writes undefined. -/
def undefElems (s : State) (gid z m n : Nat) : State :=
  { (updRegion s gid z (fun r => { r with elems := tabPutAll r.elems ((tileKeys m n).map (fun k => (k, .free s.freeCtr))) }))
    with freeCtr := s.freeCtr + 1 }

/-! ### Windows (R193, R332) -/

/-- An operand of the window's operation has been written since the issue. [log 23 DESIGN CHOICE, 73 DEDUCED] -/
def windowHit (s : State) (g : Group) (w : Window) : Bool :=
  w.vregs.any (fun r => decide (w.issued < tabGet g.vSeq r 0))
    || s.sp.seqs.any (fun kv => decide (w.issued < kv.2.1)
      && w.bytes.any (fun r => decide (r.1 ≤ kv.1) && decide (kv.1 < r.1 + r.2)))

/-- Windows of one operation: its own, or those of the joint operation that it belongs to. -/
def sameOp (v w : Window) : Bool := v.id == w.id || (v.joint.isSome && v.joint == w.joint)

/-- Every window of the device whose operand has been written takes its consequence: every element of its operation,
in every position of a joint one, is undefined. -/
def refreshWindows (s : State) : State :=
  let gs := (allGroups s).filter (fun g => g.windows != [])
  let hits := gs.flatMap (fun g => g.windows.filter (fun w => !w.written && !w.closed && windowHit s g w))
  if hits = [] then s
  else
    let hit (w : Window) : Bool := !w.written && hits.any (sameOp w)
    let s' := gs.foldl (fun s g => (g.windows.filter hit).foldl (fun s w => undefElems s g.gid w.z w.m w.n) s) s
    updGroups s' (fun g => g.windows != []) (fun g =>
      { g with windows := g.windows.map (fun w => if hit w then { w with written := true } else w) })

/-- Windows of the current group that satisfy `p` end; one of a joint operation is remembered while a partner's is
open. -/
def closeWindows (s : State) (p : Window → Bool) : State :=
  let s := { s with g := { s.g with windows := s.g.windows.map (fun w => if p w then { w with closed := true } else w) } }
  let all := (allGroups s).flatMap Group.windows
  let gone (w : Window) : Bool := w.closed && all.all (fun v => v.closed || !sameOp v w)
  updGroups s (fun g => g.windows != []) (fun g => { g with windows := g.windows.filter (fun w => !gone w) })

/-- A window on the tile of handle `z` of the current group is open. -/
def inWindow (s : State) (z : Nat) : Bool := s.g.windows.any (fun w => w.z == z && !w.closed)

/-- The tile of handle `z` is written by the current group: within a window every element of it is undefined. -/
def tileWritten (s : State) (z : Nat) : State :=
  if inWindow s z then
    let s := undefTile s s.g.gid z
    { s with g := { s.g with windows := s.g.windows.map (fun w => if w.z == z && !w.closed then { w with spoiled := true } else w) } }
  else s

end Sys2Proof.Machine
end

