-- ==== Sys2Proof/Machine/Batch.lean ====
section
/-!
DEFINITION. BATCH: closing a batch and waiting for one (R110 to R114, R275).
-/

namespace Sys2Proof.Machine

/-- Token `k` of the current group. -/
def tokOf (s : State) (k : Nat) : Token := s.g.tok.toList.getD k Token.reset

/-- `a` − `b` modulo 2^16. -/
def diff16 (a b : Nat) : Nat := (a % 65536 + 65536 - b % 65536) % 65536

/-- The open batch of a token closed: its number and the state after, or none while too many are incomplete
(R111). -/
def closeBatch (s : State) (k : Nat) : Option (Nat × State) :=
  let t := tokOf s k
  let opn := (t.opn + 1) % 65536
  if 32768 ≤ diff16 opn t.done then none
  else some (t.opn % 65536, settleTok (updToken s k (fun t => { t with opn := opn })) k)

/-- bclose (R111, R275). -/
def execBclose (a : Fin 32) (t : Fin 8) (s : State) : Res :=
  .next (match closeBatch s t with
    | none => waitHere s
    | some (n, s) => retire (setX s a (BitVec.ofNat 64 n)))

/-- Batch `n` of a token has completed (R113). -/
def batchDone (s : State) (k n : Nat) : Bool := decide (diff16 (tokOf s k).done n < 32768)

/-- The failure that a wait for batch `n` reports: the first that the Carter took in that batch or an earlier one
(R114). -/
def reports (s : State) (k n : Nat) : Option FailRec :=
  (tokOf s k).fails.find? (fun r => decide (diff16 n r.batch < 32768))

/-- A held failure reported: the trap clears FAIL, unless another batch of the token has failed too, and the failed batch
completes when it can (R114). -/
def reportFail (s : State) (k : Nat) (r : FailRec) : State :=
  settleTok (trap (updToken s k (fun t => t.reported r)) r.cause r.val) k

/-- Operand windows that end when a wait returns for batch `n` of a token (R193). -/
def endWindows (s : State) (k n : Nat) : State :=
  if s.g.windows = [] then s
  else closeWindows (refreshWindows s) (fun w => w.tok == k && decide (diff16 n w.batch < 32768))

/-- The batch that a bwait waits for, its token's open batch closed for it when it is not yet closed; none while
that closing stalls (R113). -/
def waitTarget (s : State) (k n : Nat) : Option (Nat × State) :=
  let d := diff16 (tokOf s k).opn n
  if d = 0 ∨ 32768 ≤ d then closeBatch s k else some (n % 65536, s)

/-- bwait (R113, R275). -/
def execBwait (a : Fin 32) (t : Fin 8) (s : State) : Res :=
  .next (readingX s [a] fun s =>
    match (match s.g.waits.bwait with
      | some n => some (n, s)
      | none => waitTarget s t ((getX s a).toNat % 65536)) with
    | none => waitHere s
    | some (n, s) =>
      if batchDone s t n then retire (ordersOthers (endWindows s t n))
      else
        match reports s t n with
        | some r => reportFail s t r
        | none => waitHere { s with g := { s.g with waits := { s.g.waits with bwait := some n } } })

/-- bwaitm (R113, R275): the lowest named token with a failure to report traps. -/
def execBwaitm (a : Fin 32) (s : State) : Res :=
  .next (readingX s [a] fun s =>
    let ts := match s.g.waits.bwaitm with
      | some l => l
      | none => (List.range 8).map (fun k => ((tokOf s k).opn + 65535) % 65536)
    let named := (List.range 8).filter (fun k => bit (getX s a).toNat k)
    let tgt (k : Nat) : Nat := ts.getD k 0
    let waiting := named.filter (fun k => !batchDone s k (tgt k))
    if waiting = [] then retire (ordersOthers (named.foldl (fun s k => endWindows s k (tgt k)) s))
    else
      match waiting.findSome? (fun k => (reports s k (tgt k)).map (fun r => (k, r))) with
      | some (k, r) => reportFail s k r
      | none => waitHere { s with g := { s.g with waits := { s.g.waits with bwaitm := some ts } } })

end Sys2Proof.Machine
end

