-- ==== Sys2Proof/Machine/Fut.lean ====
section
/-!
DEFINITION. FUT: scalar future loads and fills; and the steps of the Pound and the deferral buffers
(R53 to R58, R267 to R272).
-/

namespace Sys2Proof.Machine

/-- The group's external mark, which the Watchman reads (R269, R412). -/
def setExternal (s : State) (b : Bool) : State := { s with g := { s.g with external := b } }

/-- A scalar future load: sent once, then waited for (R267); its return is an acquire (R194). -/
def scalarFuture (s : State) (d a : Nat) (emptying external : Bool) : Res :=
  .next (readingX s [a] fun s =>
    let ea := getX s a
    let me := Waiter.group s.g.gid
    let look (s : State) : State :=
      match (futOf s me).map FutWait.st with
      | some (.answered v bad) =>
        let s := setExternal (futDrop s me) false
        if bad then trap s cPoison ea else retire (setX (acquired s) d v)
      | _ => waitHere (setExternal s external)
    match futOf s me with
    | some _ => look s
    | none =>
      let kind := if emptying then kReadWrite else kRead
      match checkFuture s (whoG s) kind ea.toNat with
      | (.error f, s) => trap (failRecord s (whoG s) kind f) f.cause (BitVec.ofNat 64 f.val)
      | (.ok pa, s) => look (futSend s ⟨me, pa, emptying, external, s.g.asid, .backoff, 64, false⟩))

/-- fld (R267). -/
def execFld (d a : Fin 32) (s : State) : Res := scalarFuture s d a false false

/-- fld.e (R267). -/
def execFldE (d a : Fin 32) (s : State) : Res := scalarFuture s d a true false

/-- fldx (R267). -/
def execFldx (d a : Fin 32) (s : State) : Res := scalarFuture s d a false true

/-- fldx.e (R267). -/
def execFldxE (d a : Fin 32) (s : State) : Res := scalarFuture s d a true true

/-- ffill (R267): a release (R194). -/
def execFfill (a b : Fin 32) (s : State) : Res :=
  .next (readingX s [a, b] fun s =>
    match checkFuture s (whoG s) kWrite (getX s a).toNat with
    | (.error f, s) => trap (failRecord s (whoG s) kWrite f) f.cause (BitVec.ofNat 64 f.val)
    | (.ok pa, s) => released s (some 4) fun s => retire (busFill s (whoG s) pa (getX s b)))

/-! ### Steps of the Pound and the deferral buffers -/

/-- Who makes the request that a unit step names: the group of the message, or nobody's launch. -/
def whoMsg (s : State) : Who :=
  match findGroup s s.msg.gid with
  | some g => ⟨g.launch, g.pl.core, g.pl.slot, g.asid, g.steward, none, 0, false, false, false, .exact⟩
  | none => ⟨s.nextLaunch, s.msg.gid / 16 % 256, s.msg.gid % 16, s.msg.asid, false, none, 0, false, false, false, .exact⟩

/-- An answer has reached a waiter: a vector wait with every answer ends (R271), and another node's leaves the
device. -/
def answerReached (s : State) (w : Waiter) : State :=
  match w with
  | .elem gid _ => onGroup s gid fun s => if fldvAnswered s s.g then fldvEnd s else s
  | .peer _ _ =>
    match (futOf s w).map FutWait.st with
    | some (.answered v bad) => { futDrop s w with answer := some ⟨v.toNat, 8, bad⟩ }
    | _ => s
  | _ => s

/-- FUTURE_LOAD_ARRIVAL (R54 to R57): the request of the message's waiter reaches its home slice. -/
def execFutureLoadArrival (s : State) : Res :=
  let m := s.msg
  let f : FutWait := ⟨m.who, m.pa / 8 * 8, m.emptying, m.external, m.asid, .backoff, 64, false⟩
  .next (if futureOk f.pa then futSend s f
    else { (holeRecord s (whoMsg s) f.pa false) with
      futs := s.futs.filter (fun g => g.who != m.who) ++ [{ f with st := .answered 0 true }] })

/-- FUTURE_FILL_ARRIVAL (R54). -/
def execFutureFillArrival (s : State) : Res :=
  .next (busFill s (whoMsg s) (s.msg.pa / 8 * 8) (BitVec.ofNat 64 s.msg.val))

/-- POUND_WAKEUP (R54, R268): the waiter has its value, or performs its emptying load again. -/
def execPoundWakeup (s : State) : Res :=
  .next (match futOf s s.msg.who with
    | some f =>
      match f.st with
      | .waking v bad =>
        let s := dropSent s (.fut f.who)
        if f.emptying then answerReached (futSend s f) f.who
        else answerReached (updFut s f.who (fun f => { f with st := .answered v bad })) f.who
      | _ => s
    | none => s)

/-- DEFERRED_ANSWER (R56). -/
def execDeferredAnswer (s : State) : Res :=
  .next (match futOf s s.msg.who with
    | some f =>
      match f.st with
      | .answering v bad => answerReached (updFut (dropSent s (.fut f.who)) f.who (fun f => { f with st := .answered v bad })) f.who
      | _ => s
    | none => s)

/-- FUTURE_NACK (R57): the refusal reaches the waiter, whose backoff begins. -/
def execFutureNack (s : State) : Res :=
  .next (match (futOf s s.msg.who).map FutWait.st with
    | some .nacked => updFut s s.msg.who (fun f => { f with st := .backoff })
    | _ => s)

/-- The waiter is not a group that is saved. -/
def resident (s : State) (w : Waiter) : Bool :=
  match waiterGid w with
  | some g => (findGroup s g).isSome
  | none => true

/-- NACK_REPLAY (R57). -/
def execNackReplay (s : State) : Res :=
  .next (match futOf s s.msg.who with
    | some f => if f.st = .backoff ∧ resident s f.who then answerReached (futReplay s f) f.who else s
    | none => s)

/-- FLDV_TIMEOUT (R271): the remaining requests of a timed vector wait, or of a VP's own, are cancelled. -/
def execFldvTimeout (s : State) : Res :=
  match s.msg.who with
  | .vp g v =>
    .next (match futOf s (.vp g v) with
      | some f => if f.timed then updFut s f.who (fun f => { f with st := .expired }) else s
      | none => s)
  | _ =>
    match findGroup s s.msg.gid with
    | none => .fault .noSuchUnit
    | some g =>
      .next (if (g.fldv.map FldvRun.timed) = some true then onGroup s s.msg.gid fldvEnd else s)

end Sys2Proof.Machine
end

