-- ==== Sys2Proof/Machine/MemUnit.lean ====
section
/-!
DEFINITION. Steps of the memory side: requests at their home slices, fills, Mill additions, MEMCFG, requests from
other nodes, walk reads, invalidation commands and remote scratchpad accesses
(R29 to R61, R71 to R80, R91, R94, R489).
-/

namespace Sys2Proof.Machine

/-- A 52-bit physical address. -/
def pa52 (a : Nat) : Nat := a % 2 ^ 52

/-- The bytes of a request that lie in the line of its first byte; a request never crosses a line.
[log 85 DESIGN CHOICE] -/
def inLine (pa n : Nat) : Nat := min n (128 - pa % 128)

/-- What a unit answers to the requester of the message. -/
def reply (s : State) (v n : Nat) (bad : Bool) : State := { s with answer := some ⟨v, n, bad⟩ }

/-! ### Requests at their home slices (R37, R38, R176) -/

/-- L2_READ (R37, R38). -/
def execL2Read (s : State) : Res :=
  let pa := pa52 s.msg.pa
  let n := inLine pa s.msg.n
  let (v, bad, s) := busRead s (whoMsg s) pa n
  .next (reply s v n bad)

/-- L2_WRITE (R37, R38). -/
def execL2Write (s : State) : Res :=
  let pa := pa52 s.msg.pa
  .next (busWrite s (whoMsg s) pa (inLine pa s.msg.n) s.msg.val)

/-- L2_ATOMIC (R37, R176): 8 bytes, or 4 when the message says so. -/
def execL2Atomic (s : State) : Res :=
  let n := if s.msg.n = 4 then 4 else 8
  let pa := pa52 s.msg.pa / n * n
  let (v, bad, s) := busAtomic s (whoMsg s) s.msg.op pa n (s.msg.a % 256 ^ n) (s.msg.b % 256 ^ n)
  .next (reply s v n bad)

/-- The lines that the Mills have requested; of the host window at most 256, by two requests each (R50, R61, R482). -/
def millLines (s : State) : List Nat :=
  let lines := ((atMills s (fitMill [] 0)).map (fun a => lineOf a.pa)).eraseDups
  let host (l : Nat) : Bool := paKind s (l * 128) == .host
  lines.filter (fun l => !host l) ++ (lines.filter host).take 256

/-- HBM_FILL_RETURN (R38, R50): a line of HBM4 is present, and the additions that waited for it are combined. -/
def execHbmFillReturn (s : State) : Res :=
  let pa := pa52 (s.msg.line * 128)
  .next (if paKind s pa = .hbm then touchLine s (lineOf pa) else s)

/-- MILL_ADDITION (R49 to R52): one addition reaches its home slice; a tag that the Mills do not take names no
addition. -/
def execMillAddition (s : State) : Res :=
  let m := s.msg
  if millTag m.tag then
    let n := cw m.tag / 8
    .next (millArrive s (whoMsg s) (additionOf (whoMsg s) (pa52 m.pa / n * n) m.tag m.fmode (m.val % 256 ^ n) !m.ok))
  else .fault .noSuchUnit

/-! ### MEMCFG (R32, R58) -/

/-- A table by physical address, in units of `unit` bytes, with the entries of node `old` moved to node `new`.
[log 69 DEDUCED] -/
def renodeTable {α : Type} (t : Table α) (unit old new : Nat) : Table α :=
  let k := 2 ^ 43 / unit
  tabPutAll (tabDrop t (fun a => a / k == old || a / k == new))
    ((t.filter (fun kv => kv.1 / k == old)).map (fun kv => (new * k + kv.1 % k, kv.2)))

/-- An address of node `old` as node `new` has it. [log 69 DEDUCED] -/
def renodePa (pa unit old new : Nat) : Nat :=
  let k := 2 ^ 43 / unit
  if pa / k = old then new * k + pa % k else pa

/-- The device's own node id becomes `new`: what its storage holds stays where it is. [log 69 DEDUCED] -/
def renode (s : State) (new : Nat) : State :=
  let old := s.io.nodeid
  if old = new then s
  else
    let m := s.pm
    let set (l : List Nat) (unit : Nat) : List Nat := l.foldl (fun a x => setAdd a (renodePa x unit old new)) []
    let slice (h : Nat) : Nat := if h / 256 = old then new * 256 + h % 256 else h
    { s with
      io := { s.io with nodeid := new }
      pm := { m with
        cells := renodeTable m.cells 1 old new
        dirty := renodeTable m.dirty 1 old new
        full := set m.full 8
        feDirty := renodeTable m.feDirty 8 old new
        poisoned := set m.poisoned 128
        stale := []
        watch := []
        codeOld := []
        lines := (m.lines.filter (fun x => x.addr / 2 ^ 36 != new)).map
          (fun x => { x with addr := renodePa x.addr 128 old new }) }
      ra := { s.ra with
        entries := s.ra.entries.map (fun e => { e with notify := e.notify.map (fun a => renodePa a 1 old new) })
        held := s.ra.held.map (fun h => { h with line := renodePa h.line 128 old new }) }
      chains := s.chains.map (fun a => { a with pa := renodePa a.pa 1 old new })
      futs := s.futs.map (fun f => { f with
        pa := renodePa f.pa 1 old new
        st := match f.st with
          | .parked h i => .parked (slice h) i
          | .deferred h => .deferred (slice h)
          | x => x }) }

/-- MEMCFG_WRITE (R32, R58): NODEID once, and POUNDEN. [log 69 DEDUCED] -/
def execMemcfgWrite (s : State) : Res :=
  let v := s.msg.val
  let s := if s.io.nodeidSet then s else renode { s with io := { s.io with nodeidSet := true } } (bits v 40 32)
  .next (redefer s (fun s => { s with io := { s.io with pounden := bits v 7 0 } }))

/-! ### Requests of other nodes (R52, R59, R489) -/

/-- The sequence numbers taken from a node, the newest first (R489). [log 135 DESIGN CHOICE] -/
def seqsOf (s : State) (src : Nat) : List Nat := tabGet s.io.peerSeq src []

/-- The request with sequence number `seq` of a node has been taken before (R489). [log 135 DESIGN CHOICE] -/
def isDuplicate (s : State) (src seq : Nat) : Bool := (seqsOf s src).contains (seq % 2 ^ 32)

/-- One sequence number lies before another in the 2^31 that end with it (R489). [log 135 DESIGN CHOICE] -/
def seqBehind (newest seq : Nat) : Bool := decide ((newest + 2 ^ 32 - seq) % 2 ^ 32 < 2 ^ 31)

/-- The numbers taken, with one more: the newest first, and those beyond the last 2^31 forgotten, so that a number can be
used again (R489). [log 135 DESIGN CHOICE] -/
def seqTaken (l : List Nat) (seq : Nat) : List Nat :=
  match l with
  | [] => [seq]
  | newest :: _ =>
    if seqBehind newest seq then newest :: seq :: l.drop 1 else seq :: l.filter (seqBehind seq)

/-- How this node shows an address to another node: the host window is a hole (R30). -/
def peerKind (s : State) (pa : Nat) : PaKind :=
  if nodeOf pa ≠ s.io.nodeid then .noNode
  else match paKind s pa with
    | .host => .hole
    | k => k

/-- Who a peer's request is made for: steward level has been checked at its source. [log 86 DEDUCED] -/
def whoPeer (s : State) : Who := { whoMsg s with steward := true }

/-- A request of a peer performed at its home (R59). [log 85 DESIGN CHOICE, 86 DEDUCED] -/
def peerRequest (s : State) (r : PeerReq) : State :=
  let hole (pa : Nat) (wr : Bool) : State := recordDev s 0x02 [pa, b2n wr]
  match r with
  | .read pa n =>
    match peerKind s pa with
    | .hbm | .io => let (v, bad, s) := busRead s (whoPeer s) pa (inLine pa n); reply s v (inLine pa n) bad
    | _ => reply (hole pa false) 0 n true
  | .write pa n v =>
    match peerKind s pa with
    | .hbm | .io => busWrite s (whoPeer s) pa (inLine pa n) v
    | _ => hole pa true
  | .atomic op pa n a b =>
    match peerKind s pa with
    | .hbm | .io => let (v, bad, s) := busAtomic s (whoPeer s) op pa (inLine pa n) a b; reply s v n bad
    | _ => reply (hole pa false) 0 n true
  | .mill pa tag fmode a =>
    match peerKind s pa with
    | .hbm => if millTag tag then millArrive s (whoPeer s) (additionOf (whoPeer s) pa tag fmode a false) else s
    | _ => hole pa true
  | .load pa emptying =>
    match peerKind s pa with
    | .hbm =>
      let w := Waiter.peer s.msg.src s.msg.seq
      answerReached (futSend s ⟨w, pa / 8 * 8, emptying, s.msg.external, s.msg.asid, .backoff, 64, false⟩) w
    | _ => reply (hole pa false) 0 8 true
  | .fill pa v =>
    match peerKind s pa with
    | .hbm => futFill s (pa / 8 * 8) (BitVec.ofNat 64 v)
    | _ => hole pa true

/-- A message leaves the buffer of its lane (R488). -/
def unbuffer (s : State) (port lane : Nat) : State :=
  let p := portOf s port
  let n := p.buffered.toList.getD lane 0 - 1
  setPort s port { p with buffered := p.buffered.setIfInBounds lane n, held := p.held.setIfInBounds lane (decide (64 ≤ n)) }

/-- KROVINO_REQUEST_ARRIVAL (R59, R489): a request of another node, once. -/
def execKrovinoRequestArrival (s : State) : Res :=
  let m := s.msg
  .next (if !(portOf s m.port).up then s
    else if isDuplicate s m.src m.seq then unbuffer s m.port (m.num % 8)
    else
      let s := unbuffer s m.port (m.num % 8)
      peerRequest { s with io := { s.io with peerSeq := tabPut s.io.peerSeq m.src (seqTaken (seqsOf s m.src) (m.seq % 2 ^ 32)) } } m.req)

/-! ### Walks (R71 to R77) -/

/-- PAGE_WALK_READ (R71, R75 to R77): one read of the walk for the message's page, which the miss of its core joins, or
begins when a walker is free; with none free the miss waits in its core's queue. [log 122 DESIGN CHOICE] -/
def execPageWalkRead (s : State) : Res :=
  let m := s.msg
  let core := m.core % 256
  let asid := m.asid % 65536
  let va := m.va % 2 ^ 64
  let who : Who := { whoMsg s with core := core, asid := asid }
  if canonical va = false then .next (xfaultRecord s who kRead va ⟨cNotPresent, 6, 0, 0⟩)
  else
    let die := dieOf core
    let mine := s.xl.walks.find? (fun w => isWalk w die asid va)
    match (match mine with
      | some w => some w
      | none => if walkersFull s core then none else some (wcDeepest s.xl core asid va)) with
    | none =>
      let q := (core, asid, va)
      .next (if s.xl.queue.contains q then s else { s with xl := { s.xl with queue := s.xl.queue ++ [q] } })
    | some w =>
      let s := if mine.isSome then s else { s with xl := wcUse s.xl core asid va }
      let w := { w with joined := setAdd w.joined core }
      let (r, s) := walkRead s who w
      .next (match r with
        | .more w' =>
          { s with xl := { s.xl with walks := s.xl.walks.filter (fun w => !isWalk w die asid va) ++ [w'] } }
        | .leaf t _ _ _ => endWalk { s with xl := fillCore (fillDie s.xl die va t) core va t } die asid va
        | .fail f => endWalk (failJoined s who va f w.joined) die asid va)

/-! ### Invalidation (R78, R79) -/

/-- The walks in progress: die, ASID and page. -/
def walksNow (s : State) : List (Nat × Nat × Nat) := s.xl.walks.map (fun w => (dieOf w.core, w.asid, bits w.va 56 12))

/-- A command accepted: counted, and behind those before it. -/
def xinvAccept (s : State) (op asid vpn : Nat) : State :=
  { s with io := { s.io with
    xinvacc := (s.io.xinvacc + 1) % 2 ^ 32, xinv := s.io.xinv ++ [⟨op, asid, vpn, walksNow s⟩] } }

/-- XINV_PAGE (R79). -/
def execXinvPage (s : State) : Res := .next (xinvAccept s 0 (s.msg.asid % 65536) (s.msg.vpn % 2 ^ 45))

/-- XINV_ASID (R79). -/
def execXinvAsid (s : State) : Res := .next (xinvAccept s 1 (s.msg.asid % 65536) 0)

/-- XINV_ALL (R79). -/
def execXinvAll (s : State) : Res := .next (xinvAccept s 2 0 0)

/-- XINV_IGNORED (R79): OP 3 is counted nowhere. -/
def execXinvIgnored (s : State) : Res := .next s

/-- A walk that was in progress at the acceptance, or is of a covered page; or an access of the space that used a
translation and has not been performed: a refused future load, a declaration held at its slice, a Mill addition or an
addend of a fold that waits (R79). -/
def accessPending (s : State) (c : InvCmd) : Bool :=
  let covers (asid : Nat) : Bool := c.op == 2 || asid == c.asid
  s.futs.any (fun f => covers f.asid && resident s f.who && (match f.st with
    | .nacked | .backoff => true
    | _ => false))
  || s.ra.held.any (fun h => ((entryOf s h.core h.decl).map (fun e => covers e.asid)).getD false)
  || s.chains.any (fun a => covers a.asid)
  || s.eng.xfers.any (fun x => covers x.asid && decide (x.adds ≠ []))
  || s.xl.walks.any (fun w => coversWalk c w || c.before.contains (dieOf w.core, w.asid, bits w.va 56 12))

/-- XINV_COMPLETE (R79): the oldest command completes once every access that used a covered translation has been
performed. -/
def execXinvComplete (s : State) : Res :=
  .next (match s.io.xinv with
    | [] => s
    | c :: rest =>
      if accessPending s c then s
      else
        { s with
          xl := invalidate s.xl c
          io := { s.io with xinv := rest, xinvdone := (s.io.xinvdone + 1) % 2 ^ 32 } })

/-! ### Scratchpads (R91, R94) -/

/-- SCRATCHPAD_REMOTE_ACCESS (R91, R94): an access of the message's group by scratchpad address at its bank; one
that R91 refuses is not performed. -/
def execScratchpadRemoteAccess (s : State) : Res :=
  let m := s.msg
  let n := max 1 (min m.n 64)
  match findGroup s m.gid with
  | none => .fault .noSuchUnit
  | some g =>
    .next (if m.va % n ≠ 0 then s
      else
        match spLocate s g m.va n with
        | none => s
        | some (core, off) =>
          if m.wr then spWrite s (m.gid + 1) core off n m.val
          else
            let (v, bad, s) := spRead s core off n
            reply s v n bad)

end Sys2Proof.Machine
end

