-- ==== Sys2Proof/Machine/Convoy.lean ====
section
/-!
DEFINITION. Convoys: the conflicts that the sequencer looks for before it issues one (R137, R209, R210, R297 to
R300).
-/

namespace Sys2Proof.Machine

/-- What the members before have done: registers and masks written, x registers written, vector registers read
from rows, tags as they stand, pipes used, the element-wise members' container, registers written by
cross-element members, and whether a member that can shorten VL stands before. -/
structure ConvoyAcc where
  vw     : List Nat := []
  mw     : List Nat := []
  xw     : List Nat := []
  rows   : List Nat := []
  tags   : Table Nat := []
  pipes  : List Pipe := []
  shape  : Option (Nat × Bool) := none
  crossV : List Nat := []
  crossM : List Nat := []
  short  : Bool := false
  deriving DecidableEq, Repr

/-- The tag that a member's results take, from its sources' tags (R167, R287, R288, R295). -/
def memberTag (i : Instr) (own : Nat) (srcs : List Nat) : Nat :=
  match i with
  | .vcvt _ t _ _ _ | .vcvtSat _ t _ _ _ | .vretag _ t _ _ _ => t
  | .vidx _ _ _ _ _ | .vpid _ _ => own
  | .vmv _ _ _ _ k => if k then own else srcs.headD own
  | _ =>
    match srcs with
    | [] => own
    | t :: rest => rest.foldl (fun a b => (pairTag a b).getD a) t

/-- The member can shorten VL (R300 rule 8). -/
def shortens (g : Group) (i : Instr) (r : Regs) : Bool :=
  (match i with
    | .vldFf _ _ _ _ => true
    | _ => false) || r.src.any (fun x => (boundTo g x).isSome)

/-- One more member: the accumulated facts with it, or none when the members now break a rule. -/
def convoyStep (g : Group) (a : ConvoyAcc) (i : Instr) : Option ConvoyAcc :=
  let r := regsOf i
  let tagNow (x : Nat) : Nat := tabGet a.tags x (vregOf g x).tag
  let srcTags := r.src.map tagNow
  let newTags := r.dst.map (fun d =>
    (d, if (vregOf g d).pin || !r.elem then tagNow d else memberTag i (tagNow d) srcTags))
  let tags := tabPutAll a.tags newTags
  let rows := (a.rows ++ r.src.filter (fun x => !a.vw.contains x)).eraseDups
  let pipes := a.pipes ++ [r.pipe]
  let shapes := if r.elem then (srcTags ++ newTags.map (·.2)).map (fun t => (cw t, isMx t)) else []
  let shape := a.shape <|> shapes.head?
  let ok := !a.short
    && decide ((pipes.filter (· == r.pipe)).length ≤ r.pipe.count)
    && decide (rows.length ≤ 3)
    && shapes.all (fun x => some x == shape)
    && !(r.cross && (r.src.any a.vw.contains || r.msrc.any a.mw.contains))
    && !((r.src ++ r.dst).any a.crossV.contains || (r.msrc ++ r.mdst).any a.crossM.contains)
    && !((r.index.map a.vw.contains).getD false)
    && !(r.xsrc.any (fun x => x != 0 && a.xw.contains x))
  if ok then
    some {
      vw := a.vw ++ r.dst
      mw := a.mw ++ r.mdst
      xw := a.xw ++ r.xdst
      rows := rows
      tags := tags
      pipes := pipes
      shape := shape
      crossV := if r.cross then a.crossV ++ r.dst else a.crossV
      crossM := if r.cross then a.crossM ++ r.mdst else a.crossM
      short := shortens g i r }
  else none

/-- The position of the first conflicting member, counted from `n` (R300); a ninth member conflicts.
[log 28 DEDUCED] -/
def convoyScan (g : Group) (a : ConvoyAcc) (n : Nat) : List Instr → Option Nat
  | [] => none
  | i :: rest =>
    if 8 ≤ n then some n
    else
      match convoyStep g a i with
      | none => some n
      | some a' => convoyScan g a' (n + 1) rest

/-- The first conflicting member of a convoy; a convoy of one has none. [log 28 DEDUCED] -/
def convoyConflict (g : Group) (members : List Instr) : Option Nat :=
  if members.length ≤ 1 then none else convoyScan g {} 0 members

end Sys2Proof.Machine
end

