-- ==== Sys2Proof/Machine/Fetch.lean ====
section
/-!
DEFINITION. Fetching words: the extent, translation, the sections of a code object and their CRC, and the next
instruction of a group with the checks that stand before it (R209 to R218, R233, R300, R359, R421, R472, R477,
R478).
-/

namespace Sys2Proof.Machine

/-! ### Sections (R472, R477, R478) -/

/-- One byte of CRC-32C, reflected. -/
def crcByte (crc b : Nat) : Nat :=
  (List.range 8).foldl (fun c _ => if c % 2 = 1 then c / 2 ^^^ 0x82F63B78 else c / 2) (crc ^^^ b)

/-- CRC-32C of bytes (R472). [log 25 DESIGN CHOICE] -/
def crc32c (bs : List Nat) : Nat := bs.foldl crcByte 0xFFFFFFFF ^^^ 0xFFFFFFFF

/-- A section's fields (R472). -/
structure Section where
  idx    : Nat
  start  : Bool
  kind   : Nat
  off    : Nat
  len    : Nat
  arrive : Nat
  crc    : Nat
  deriving DecidableEq, Repr

/-- The sections of a launch's image. -/
def sectionsOfImage (l : Launch) : List Section :=
  l.image.sections.zipIdx.map (fun x =>
    ⟨x.2, x.1.1, x.1.2.1, x.1.2.2.1, x.1.2.2.2.1, x.1.2.2.2.2.1, x.1.2.2.2.2.2⟩)

/-- CODEOBJ of a launch (R398). -/
def Launch.codeObj (l : Launch) : Nat := (l.words.toList.getD 1 0).toNat

/-- The section of a kind that holds a virtual address. -/
def sectionAt (l : Launch) (kind va : Nat) : Option Section :=
  (sectionsOfImage l).find? (fun x =>
    x.kind == kind && decide (l.codeObj + x.off ≤ va) && decide (va < l.codeObj + x.off + x.len))

/-- A section's arrival future is full; its address is translated as a read of the launch's address space.
[log 46 DEDUCED] -/
def sectionArrived (s : State) (w : Who) (l : Launch) (x : Section) : Bool :=
  match translate s w kRead (l.codeObj + x.arrive) with
  | (.ok pa, _) => paKind s pa == .hbm && s.pm.isFull (pa / 8)
  | (.error _, _) => false

/-- Bytes read through translation; none where a page fails or a byte is poisoned (R477, R478). [log 46 DEDUCED] -/
def sectionBytes (s : State) (w : Who) (kind va : Nat) : Nat → Option (List Nat) × State
  | 0 => (some [], s)
  | n + 1 =>
    match translate s w kind va with
    | (.error _, s) => (none, s)
    | (.ok pa, s) =>
      let (b, bad, s) := busRead s w pa 1
      if bad then (none, s)
      else
        match sectionBytes s w kind (va + 1) n with
        | (some bs, s) => (some (b :: bs), s)
        | (none, s) => (none, s)

/-- The pages of a launch's section of code watched from now on (R216). -/
def watchPages (s : State) (w : Who) (id va len : Nat) : State :=
  let vas := (List.range (len / 4096 + 2)).map (fun i => max va ((va / 4096 + i) * 4096))
  let pages := vas.filterMap (fun a => match translate s w kFetch a with
    | (.ok pa, _) => if a < va + len then some (pa / 4096, id) else none
    | (.error _, _) => none)
  { s with pm := { s.pm with watch := (s.pm.watch ++ pages).eraseDups } }

/-- An arrived section read and its CRC compared (R477, R478). [log 46 DEDUCED] -/
def checkSection (s : State) (w : Who) (l : Launch) (x : Section) : State :=
  let s := if x.kind = 0 then watchPages s w l.id (l.codeObj + x.off) x.len else s
  let (bs, s) := sectionBytes s w (if x.kind = 0 then kFetch else kRead) (l.codeObj + x.off) x.len
  let good := (bs.map crc32c) == some x.crc
  updLaunch s l.id (fun l => { l with secs := tabPut l.secs x.idx (if good then .good else .bad) })

/-- Whether a word of a launch may be read from its section: it may, it must wait for the section, or the
section is bad. -/
inductive Gate where
  | go | wait | bad
  deriving DecidableEq, Repr

def sectionGate (s : State) (launch kind va : Nat) : Gate :=
  match (findLaunch s launch).bind (fun l => (sectionAt l kind va).map (fun x => tabGet l.secs x.idx .waiting)) with
  | some .good => .go
  | some .waiting => .wait
  | some .bad => .bad
  | none => .go

/-! ### Words -/

/-- What the fetch of a word gives. -/
inductive Fetched where
  | word (w : Nat) (s : State)
  | fail (s : State) (cause : Nat) (val : Word)
  | wait (s : State)
  deriving DecidableEq, Repr

/-- One instruction word at a virtual address (R70, R83, R218, R233): its section is there before it is fetched (R478),
and a write of it during the launch may be missed (R216). -/
def fetchWord (s : State) (w : Who) (va : Nat) : Fetched :=
  let val := BitVec.ofNat 64 va
  if inExtent s.g va = false then .fail s cFetchBounds val
  else
    match sectionGate s s.g.launch 0 va with
    | .wait => .wait s
    | .bad => .fail s cFetchBounds val
    | .go =>
      match translate s w kFetch va with
      | (.error f, s) => .fail (xfaultRecord s w kFetch va f) f.cause val
      | (.ok pa, s) =>
        let (v, bad, s) := busRead s w.exact pa 4
        if bad then .fail s cPoison val
        else
          let (v, s) := codeBack s s.g.launch pa v
          .word v s

/-- The words at rising addresses, all read; the first that fails decides. -/
def fetchWords (s : State) (w : Who) (va : Nat) : Nat → Except Fetched (List Nat) × State
  | 0 => (.ok [], s)
  | n + 1 =>
    match fetchWord s w va with
    | .word v s =>
      match fetchWords s w (va + 4) n with
      | (.ok vs, s) => (.ok (v :: vs), s)
      | r => r
    | f => (.error f, s)

/-- The members that follow a convoy's head: the words that join it. None where one lies in a section that has not
arrived: the sequencer issues no convoy before its last member has entered the queue (R297, R478). -/
def convoyTail (s : State) (va : Nat) : Nat → Option (List Instr)
  | 0 => some []
  | n + 1 =>
    match fetchWord s (whoG s) va with
    | .word v s =>
      match decodeControl v with
      | some i => if joins i then (convoyTail s (va + 4) n).map (fun l => i :: l) else some []
      | none => some []
    | .fail _ _ _ => some []
    | .wait _ => none

/-! ### The next instruction of the current group -/

/-- What the current group does next. -/
inductive Next where
  | run (i : Instr) (s : State)
  | stop (s : State)
  deriving DecidableEq, Repr

/-- The instruction adds 1 to SPCOUNT when it retires at task level (R359): `trap` is not counted, spt sets 0,
and vfetch makes its own test. -/
def counts (i : Instr) : Bool :=
  match i with
  | .trap _ | .spt _ | .vfetch _ _ | .illegalInstruction => false
  | _ => true

/-- The word is a member of the convoy in progress. -/
def isMember (g : Group) (i : Instr) : Bool := joins i && g.flow == .seq true

/-- Words that the control thread may not execute (R215, R304). -/
def bodyOnly (i : Instr) : Bool :=
  match i with
  | .tfetch _ _ _ | .xqsend _ _ | .xqrecv _ _ => true
  | _ => false

/-- The instruction raises ILLEGAL_INSTR at the level at which it stands, which comes before its other causes (R218):
`tret` at task level (R364), and an access of R241, R242 or R480 to a register that is not open to it. -/
def illegalHere (s : State) (i : Instr) : Bool :=
  match i with
  | .tret => !s.g.tr.lev
  | .gsr _ n => !sysReadable s.g n
  | .ssr a n => !sysWritable s.g n
    || (n.val == 0x012 && s.g.portable && (poisonedX s [a]).isNone && roleSplits s (getX s a).toNat)
  | _ => false

/-- The convoy that the word at the current group's pc heads, once all its words can be fetched. -/
def convoyHere (s : State) (i : Instr) : Option (List Instr) :=
  (convoyTail s (s.g.pc.toNat + 4) 8).map (fun l => i :: l)

/-- The group waits for a word of a section that has not arrived (R478). -/
def waitSection (s : State) : State := waitHere { s with g := { s.g with external := true } }

/-- The checks that stand before an instruction: C (R209), SP_DISTANCE (R359), and for the head of a convoy that the
sequencer examines at once its conflicts (R300) and its leave (R409). -/
def admitInstr (s : State) (i : Instr) : Next :=
  if bodyOnly i || (joins i && s.g.flow == .seq false) then .run .illegalInstruction s
  else if counts i && !illegalHere s i && !s.g.tr.lev && decide (s.g.splimit < s.g.spcount + 1) then
    .stop (trap s cSpDistance (BitVec.ofNat 64 s.g.spcount))
  else if isMember s.g i then .run i s
  else
    let s := if 0 < s.g.convoyLen then dropConvoyLeave { s with g := { s.g with convoyLen := 0 } } s.g.gid else s
    if convoyable i && !queueHeld s then
      match convoyHere s i with
      | none => .stop (waitSection s)
      | some members =>
        match convoyConflict s.g members with
        | some k => .stop (trap s cConvoy (BitVec.ofNat 64 k))
        | none =>
          match convoyLeave s members with
          | some s => .stop (waitHere s)
          | none => .run i { s with seqServed := tabPut s.seqServed s.g.pl.core s.g.pl.slot }
    else .run i s

/-- The next instruction fetched (R218), or the state after a trap or a wait. -/
def fetchNext (s : State) : Next :=
  match fetchWord s (whoG s) s.g.pc.toNat with
  | .fail s cause val => .stop (trap s cause val)
  | .wait s => .stop (waitSection s)
  | .word v s =>
    let s := { s with g := { s.g with external := false } }
    match decodeControl v with
    | none => .run .illegalInstruction s
    | some i => admitInstr s i

end Sys2Proof.Machine
end

