-- ==== Sys2Proof/Machine/Strm.lean ====
section
/-!
DEFINITION. VSTRM: stream bindings, and the steps of strip queues and read streams (R140 to R143, R262 to
R266).
-/

namespace Sys2Proof.Machine

/-- A register bound: its stream-end flag is clear and its elements are undefined (R262). -/
def bind (s : State) (r : Nat) (t : Target) : State :=
  let s := undefBound s r
  { s with g := { s.g with binds := s.g.binds ++ [⟨r, t⟩], streamEnd := setDel s.g.streamEnd r } }

/-- The words of a stream descriptor read as R262 lays them out; none where a reserved field is set or CHUNK
is 0. -/
def streamDescOf (v : Nat) : Option StreamDesc :=
  let w (i : Nat) : Nat := v / 2 ^ (64 * i) % 2 ^ 64
  if bits (w 2) 61 40 ≠ 0 ∨ bits (w 3) 63 19 ≠ 0 ∨ w 3 = 0 then none
  else some ⟨BitVec.ofNat 64 (w 0), BitVec.ofNat 64 (w 1), bit (w 2) 63, bit (w 2) 62, bits (w 2) 39 0, w 3⟩

/-- sbind.m in queue order (R262). -/
def sbindMV (d : Fin 32) (x : Word) (s : State) : VOut :=
  match checkLoc s (whoV s) kRead (.va x.toNat) 32 32 with
  | (.error f, s) => .fail (failRecord s (whoV s) kRead f) f.cause (BitVec.ofNat 64 f.val) none false
  | (.ok l, s) =>
    let (v, bad, s) := plRead s (whoV s) l 32
    if bad then .fail s cPoison x none false
    else
      match streamDescOf v with
      | none => .fail s cIllegal x none false
      | some desc =>
        let t := tagOf s d
        if t = 0 ∨ isMx t ∨ cw t < 8 then tagFail s d
        else if desc.base.toNat % (cw t / 8) ≠ 0 then .fail s cMisaligned desc.base none false
        else if (boundTo s.g d).isSome ∨ (isSplit s s.g ∧ vSide d = false) then .fail s cStream (regVal d) none false
        else .done (bind s d (.stream desc 0 []))

/-- sbind.q in queue order (R264). -/
def sbindQV (d q : Nat) (wr : Bool) (s : State) : VOut :=
  let core := s.g.pl.core
  let me := s.g.gid
  if (boundTo s.g d).isSome ∨ (vregOf s.g d).gf % 4 ≠ 0 then .fail s cStream (regVal d) none false
  else
    let x := (stripOf s core q).getD ⟨core, q, me, none, none, []⟩
    if x.owner ≠ me ∨ (if wr then x.wr else x.rd).isSome then .fail s cStream (regVal q) none false
    else
      let x := if wr then { x with wr := some d } else { x with rd := some d }
      let s := { s with eng := { s.eng with
        strips := s.eng.strips.filter (fun y => !(y.core == core && y.q == q)) ++ [x] } }
      .done (bind s d (if wr then .queueWrite q else .queueRead q))

/-- A form of VSTRM leaves the queue: VSTART becomes 0 when it completes (R128). -/
def controlS (s : State) (f : State → VOut) : State :=
  controlQ s fun s =>
    match f s with
    | .done s' => .done (setVc s' (fun c => { c with vstart := 0 }))
    | o => o

/-- sbind.m (R262). -/
def execSbindM (d a : Fin 32) (s : State) : Res :=
  .next (readingX s [a] fun s => controlS s (sbindMV d (getX s a)))

/-- sbind.q.r (R264). -/
def execSbindQR (d : Fin 32) (q : Fin 8) (s : State) : Res := .next (controlS s (sbindQV d q false))

/-- sbind.q.w (R264). -/
def execSbindQW (d : Fin 32) (q : Fin 8) (s : State) : Res := .next (controlS s (sbindQV d q true))

/-- sunbind (R265). -/
def execSunbind (d : Fin 32) (s : State) : Res :=
  .next (controlS s fun s =>
    if (boundTo s.g d).isNone then .fail s cStream (regVal d) none false else .done (unbind s d))

/-- An earlier vector instruction that reads or binds the register has not completed (R266). -/
def pendingUse (s : State) (r : Nat) : Bool :=
  let words (l : List Instr) : Bool := l.any (fun i => (regsOf i).src.contains r)
  let me := s.g.gid
  (match s.g.aib with
    | some a => words (a.body.drop a.pos)
    | none => false)
  || s.g.vps.any (fun v => v.target.isSome || (match v.st with
      | .indep _ _ body pos => words (body.drop pos)
      | .away _ _ => true
      | _ => false))
  || s.g.vq.any (fun e => words e.words)
  || (s.g.fldv.map FldvRun.d) == some r
  || s.g.appends.any (fun a => a.2.2)
  || s.eng.mats.any (fun o => o.gid == me && (o.a == .vreg r || o.b == .vreg r))
  || s.eng.xfers.any (fun x => x.gid == me && x.phase != .done && ((x.rows.map (·.1)) == some r
    || (bits (x.desc.toList.getD 2 0).toNat 59 58 == 2 && (x.desc.toList.getD 0 0).toNat == r)))

/-- bse (R266). -/
def execBse (d : Fin 32) (o : Fin 8192) (s : State) : Res :=
  .next (if pendingUse s d then waitHere s
    else if s.g.streamEnd.contains d then transfer s (s.g.pc + sext64 o 13 * 4) id
    else retire s)

/-! ### Steps of the queues and streams -/

/-- STRIP_QUEUE_APPEND (R141): the group's oldest waiting entry, once there is room. -/
def execStripQueueAppend (s : State) : Res :=
  onMsgGroup s fun s =>
    match s.g.appends with
    | [] => s
    | (q, e, last) :: rest =>
      match stripAppend s s.g.pl.core q e with
      | none => s
      | some s =>
        let s := if last then freeWrite s s.g.pl.core q else s
        { s with g := { s.g with appends := rest } }

/-- STRIP_QUEUE_CONSUME (R141): the oldest entry is taken for the group's instruction that waits for it. -/
def execStripQueueConsume (s : State) : Res :=
  onMsgGroup s fun s =>
    match s.g.waits.starved with
    | none => s
    | some r =>
      match boundTo s.g r with
      | some (.queueRead q) =>
        match stripConsume s s.g.pl.core q with
        | some (e, s) =>
          { s with g := { s.g with fed := s.g.fed ++ [(r, e)], waits := { s.g.waits with starved := none } } }
        | none => s
      | _ => s

/-- STREAM_READ_AHEAD (R263): the next element of a read stream read before its use; a failure is left to the
instruction that consumes the element. [log 44 DESIGN CHOICE] -/
def execStreamReadAhead (s : State) : Res :=
  onMsgGroup s fun s =>
    let r := s.msg.reg
    match boundTo s.g r with
    | some (.stream d pos ahead) =>
      let tag := tagOf s r
      let n := cw tag / 8
      if d.write || decide (d.count ≤ pos + ahead.length) then s
      else
        match checkLoc s (whoV s) kRead (d.loc tag (pos + ahead.length)) n n with
        | (.error _, _) => s
        | (.ok l, s) =>
          let (v, bad, s) := plRead s (whoV s) l n
          setBinding s r (.stream d pos (ahead ++ [(v, bad)]))
    | _ => s

end Sys2Proof.Machine
end

