-- ==== Sys2Proof/Machine/Lanes.lean ====
section
/-!
DEFINITION. Lanes that leave service and the lane map, and what waits for a core or a die to be empty
(R18, R135, R136, R444).
-/

namespace Sys2Proof.Machine

/-! ### Requests (R402, R426) -/

/-- The earlier of two deadlines. -/
def sooner (a b : Option Nat) : Option Nat :=
  match a, b with
  | some x, some y => some (min x y)
  | some x, none => some x
  | none, b => b

/-- A request with a save of the given deadline among what it asks. -/
def Request.save (r : Option Request) (deadline : Option Nat) : Request :=
  match r with
  | some r => { r with saves := true, deadline := sooner r.deadline deadline }
  | none => ⟨[], true, false, deadline⟩

/-- A request with a launch's reservation among those that it is for. -/
def Request.yield (r : Option Request) (launch : Nat) : Request :=
  match r with
  | some r => { r with yields := setAdd r.yields launch }
  | none => ⟨[launch], false, false, none⟩

/-- A request while it asks for anything. -/
def Request.left (r : Request) : Option Request := if r.yields = [] && !r.saves && !r.held then none else some r

/-! ### Lanes -/

/-- The live logical lane that a physical lane serves. -/
def servedLane (k : Core) (phys : Nat) : Option Nat :=
  (List.range k.lanemod).find? (fun l => k.lrmap.toList.getD l 0 == phys)

/-- The lowest physical lane that is in service and serves no logical lane. [log 89 DEDUCED] -/
def spareLane (k : Core) : Option Nat :=
  (List.range 68).find? (fun p => !k.retired.contains p && (servedLane k p).isNone)

/-- A physical lane out of service: a spare takes its entry, or LANEMOD falls by a section and the first lane of
that section takes it (R18, R136). [log 89 DEDUCED] -/
def retireLane (k : Core) (phys : Nat) : Core :=
  let k := { k with retired := setAdd k.retired phys }
  match servedLane k phys with
  | none => k
  | some l =>
    match spareLane k with
    | some p => { k with lrmap := k.lrmap.setIfInBounds l p }
    | none =>
      let m := k.lanemod - 8
      { k with lanemod := m, lrmap := k.lrmap.setIfInBounds l (k.lrmap.toList.getD m 0) }

/-- Sections whose lanes the retirement of a physical lane changes. [log 89 DEDUCED] -/
def affectedSections (k : Core) (phys : Nat) : List Nat :=
  match servedLane k phys with
  | none => []
  | some l => if (spareLane { k with retired := setAdd k.retired phys }).isSome then [l / 8] else [l / 8, k.lanemod / 8 - 1]

/-- Slots that own one of them. -/
def affectedSlots (k : Core) (phys : Nat) : List Nat :=
  (affectedSections k phys).filterMap (fun i => k.lanepart.toList.getD i none)

/-- The poison of a core's rows and masks after a physical lane has left service: it is the storage's (R424), so that of
the logical lane `l` goes with the lane that left, and where the first lane of a lost section takes its place, that
lane's poison comes with it. -/
def movePoison (gs : List Nat) (core l : Nat) (from_ : Option Nat) : List Nat :=
  let laneOf (k : Nat) : Nat := if k % 2 = 0 then k / 2 / 9 / 64 / 1024 else k / 2 / 1024 / 8
  let moved (k : Nat) : Nat :=
    if k % 2 = 0 then k + (core * 64 + l) * (1024 * 64 * 9 * 2) - laneOf k * (1024 * 64 * 9 * 2)
    else k + (core * 64 + l) * (8 * 1024 * 2) - laneOf k * (8 * 1024 * 2)
  gs.foldl (fun a k =>
    if laneOf k = core * 64 + l then a
    else if some (laneOf k) = from_.map (core * 64 + ·) then setAdd a (moved k)
    else setAdd a k) []

/-- The lane that takes the place of a retired one's logical lane, and the poison that goes with it (R18, R136, R424). -/
def retirePoison (s : State) (core phys : Nat) : State :=
  let k := coreOf s core
  if s.granules = [] then s
  else
    match servedLane k phys with
    | none => s
    | some l =>
      let spare := (spareLane { k with retired := setAdd k.retired phys }).isSome
      { s with granules := movePoison s.granules core l (if spare then none else some (k.lanemod - 8)) }

/-- The retirements of a core's lanes that wait, performed where no group owns an affected section (R136). -/
def settleLanes (s : State) (core : Nat) : State :=
  s.io.repairs.foldl (fun s u =>
    match u with
    | .lane c p =>
      if c = core ∧ affectedSlots (coreOf s c) p = [] then
        setCore (retirePoison { s with io := { s.io with repairs := s.io.repairs.erase u } } c p) c
          (retireLane (coreOf s c) p)
      else s
    | _ => s) s

/-- No group occupies a core of the die. -/
def dieEmpty (s : State) (die : Nat) : Bool := !(allGroups s).any (fun g => dieOf g.pl.core == die)

/-- The die of an open maintenance window begins its self-test once it is empty (R444). -/
def beginTest (s : State) : State :=
  match s.io.maintOpen with
  | none => s
  | some d =>
    if dieEmpty s d && !s.io.testing.contains d then
      redefer s (fun s => { s with io := { s.io with testing := setAdd s.io.testing d } })
    else s

/-- The current group is no more one that a context command waits for (R428), nor one that is passed over (R407). -/
def noteLeft (s : State) : State :=
  { s with
    io := { s.io with ctx := s.io.ctx.map (fun c => { c with left := c.left.filter (· != s.g.gid) }) }
    passed := s.passed.filter (fun p => p.1 != s.g.gid) }

/-- The current group has left its slot: what waited for that is performed. -/
def slotFreed (s : State) : State := beginTest (settleLanes (noteLeft (dropStale s s.g.gid)) s.g.pl.core)

end Sys2Proof.Machine
end

