-- ==== Sys2Proof/Machine/Rdecl.lean ====
section
/-!
DEFINITION. RATION: rdecl, rclose and rchk, and the steps of rationed lines and of scope closes
(R43 to R48, R108, R109, R276 to R278).
-/

namespace Sys2Proof.Machine

/-- A value in the running group's answer. -/
def answerWith (s : State) (v n : Nat) (bad : Bool) : State := { s with answer := some ⟨v, n, bad⟩ }

/-! ### rdecl (R276) -/

/-- The pages of a range checked for a declaration, in ascending order: the physical address of each, or the
first failure. -/
def declPages (s : State) : List Nat → Except EFail (List (Nat × Nat)) × State
  | [] => (.ok [], s)
  | va :: rest =>
    match checkLoc s (whoG s) kDeclare (.va va) 1 1 with
    | (.ok (.pa pa), s) =>
      match declPages s rest with
      | (.ok l, s) => (.ok ((va, pa) :: l), s)
      | e => e
    | (.ok (.sp _ _), s) => (.ok [], s)
    | (.error f, s) => (.error f, s)

/-- The places of the lines or blocks of a ration record, checked, or the first failure. -/
def declUnits (s : State) (sp : Bool) (base len : Nat) : Except EFail (List PLoc) × State :=
  if sp then
    let as := (List.range (len / 4096)).map (fun i => locAt true (BitVec.ofNat 64 base) ((4096 * i : Nat) : Int))
    let place (l : Loc) : Option PLoc := match l with
      | .sp a ok => if ok then (spLocate s s.g a 4096).map (fun p => .sp p.1 p.2) else none
      | .va _ => none
    match as.find? (fun l => (place l).isNone) with
    | some l => (.error ⟨cPermission, l.addr, none⟩, s)
    | none => (.ok (as.filterMap place), s)
  else
    let first := base / 4096
    let n := (base + len - 1) / 4096 + 1 - first
    match declPages s ((List.range n).map (fun i => max base ((first + i) * 4096))) with
    | (.error f, s) => (.error f, s)
    | (.ok ps, s) =>
      (.ok (ps.flatMap (fun p =>
        let stop := min (base + len) ((p.1 / 4096 + 1) * 4096)
        (List.range ((stop - p.1) / 128)).map (fun i => .pa (p.2 + 128 * i)))), s)

/-- The entry of a declaration that is made whole: the number newly made live, and the entry's end when there is
none or all of it is Spent. -/
def rdeclEnd (s : State) (c core idx : Nat) : State :=
  let made := ((entryOf s core idx).map DeclEntry.made).getD 0
  retire (setX (sealEntry s core idx) c (BitVec.ofNat 64 made))

/-- A waiting or a new rdecl (R276). -/
def rdecl (s : State) (a c : Nat) : State :=
  match s.g.waits.rdecl with
  | some (core, idx) => if declHeld s (some (core, idx)) then waitHere s else rdeclEnd s c core idx
  | none =>
    let ea := (getX s a).toNat
    let trapV (s : State) (cause v : Nat) : State := trap s cause (BitVec.ofNat 64 v)
    let trapF (s : State) (kind : Nat) (f : EFail) : State := trapV (failRecord s (whoG s) kind f) f.cause f.val
    if s.g.pl.det then trapV s cBarrier 0
    else
      match checkLoc s (whoG s) kRead (.va ea) 32 32 with
      | (.error f, s) => trapF s kRead f
      | (.ok (.sp _ _), s) => trapV s cPermission ea
      | (.ok (.pa pa), s) =>
        let (r, bad, s) := busRead s (whoG s) pa 32
        let base := r % 2 ^ 64
        let w1 := r / 2 ^ 64 % 2 ^ 64
        let w2 := r / 2 ^ 128 % 2 ^ 64
        let notify := r / 2 ^ 192
        let sp := bit w1 63
        let len := w1 % 2 ^ 40
        let k := w2 % 256
        let u := if sp then 4096 else 128
        if bad then trapV s cPoison ea
        else if bits w1 62 40 ≠ 0 ∨ w2 / 256 ≠ 0 ∨ k = 0 ∨ len = 0 then trapV s cIllegal ea
        else if base % u ≠ 0 ∨ len % u ≠ 0 then trapV s cMisaligned base
        else
          match declUnits s sp base len with
          | (.error f, s) => trapF s kDeclare f
          | (.ok ls, s) =>
            let (nres, s) : Except EFail (Option Nat) × State := if notify = 0 then (.ok none, s) else
              match checkFuture s (whoG s) kWrite notify with
              | (.ok pa, s) => (.ok (some pa), s)
              | (.error f, s) => (.error f, s)
            match nres with
            | .error f => trapF s kWrite f
            | .ok npa =>
              let core := match ls with
                | .sp c _ :: _ => c
                | _ => s.g.pl.core
              match freeEntry s core with
              | none => waitHere s
              | some idx =>
                let scope := if sp && bit base 21 then clusterScope s.g.pl.origin else teamScope s.g.pl.core s.g.pl.team
                let e : DeclEntry := ⟨core, idx, scope, npa, 0, 0, 0, false, s.g.gid, s.g.asid⟩
                let s := { s with ra := { s.ra with entries := s.ra.entries ++ [e] } }
                let s := ls.foldl (fun s l => declarePlace s (whoG s) l k scope core idx) s
                if declHeld s (some (core, idx)) then
                  waitHere { s with g := { s.g with waits := { s.g.waits with rdecl := some (core, idx) } } }
                else rdeclEnd s c core idx

/-- rdecl (R276). [log 64 DEDUCED] -/
def execRdecl (a c : Fin 32) (s : State) : Res := .next (readingX s [a] fun s => rdecl s a c)

/-! ### rclose (R277) -/

/-- The cores of the group's cluster (R90). -/
def clusterCores (p : Place) : List Nat :=
  (List.range (p.rows * p.cols)).map (fun j => p.origin + j / p.cols * 8 + j % p.cols)

/-- A close of a scope by the group, until it completes. -/
def rclose (s : State) (scope : Nat) (cores : List Nat) : State :=
  if s.g.pl.det then trap s cBarrier 0
  else if s.g.waits.rclose then
    if s.ra.closes.any (fun c => c.gid == some s.g.gid) then waitHere s else retire s
  else if queueHeld s then waitHere s
  else
    let s := beginClose s scope s.g.launch s.g.asid (some s.g.gid) cores
    waitHere { s with g := { s.g with waits := { s.g.waits with rclose := true } } }

/-- rclose.team (R48, R109, R277). [log 64 DEDUCED] -/
def execRcloseTeam (s : State) : Res := .next (rclose s (teamScope s.g.pl.core s.g.pl.team) [s.g.pl.core])

/-- rclose.clu (R109, R277). [log 64 DEDUCED] -/
def execRcloseClu (s : State) : Res := .next (rclose s (clusterScope s.g.pl.origin) (clusterCores s.g.pl))

/-! ### rchk (R278) -/

/-- The word that rchk returns. [log 59 DEDUCED] -/
def rchkWord (r : RationRec) : Nat :=
  match r.st with
  | .none => 0
  | .spent => 2 * 2 ^ 8
  | .live => r.scope * 2 ^ 16 + r.decl % 64 * 2 ^ 10 + 2 ^ 8 + r.count

/-- rchk (R278). [log 59 DEDUCED] -/
def execRchk (a : Fin 32) (p : Bool) (c : Fin 32) (s : State) : Res :=
  .next (readingX s [a] fun s =>
    let ea := getX s a
    match checkLoc s (whoG s) kRead (if p then .sp ea.toNat true else .va ea.toNat) 1 1 with
    | (.error f, s) => trap (failRecord s (whoG s) kRead f) f.cause ea
    | (.ok l, s) =>
      match unitOf s l with
      | some u => if heldBack s u then waitHere s else retire (setX s c (BitVec.ofNat 64 (rchkWord (rationOf s u))))
      | none =>
        match l with
        | .pa pa =>
          let (_, bad, s) := busRead s (whoG s) pa 1
          if bad then trap s cPoison ea else retire (setX s c 0)
        | .sp _ _ => retire (setX s c 0))

/-! ### Steps of the slices and cores -/

/-- The line or block that the message names. -/
def msgUnit (s : State) : RUnit := if s.msg.block then .block s.msg.unit else .line s.msg.unit

/-- CONSUMING_READ_RESERVE (R43): one count reserved; the answer says whether there was one. -/
def execConsumingReadReserve (s : State) : Res :=
  .next (match reserveUnit s (msgUnit s) with
    | some s => answerWith s 1 1 false
    | none => answerWith s 0 1 false)

/-- CONSUMING_READ_COMMIT (R44): one reserved count committed. -/
def execConsumingReadCommit (s : State) : Res :=
  .next (if 0 < (rationOf s (msgUnit s)).reserved then commitUnit s (msgUnit s) else s)

/-- RATION_DECLARATION (R44, R45): a declaration reaches the home slice of the message's line. -/
def execRationDeclaration (s : State) : Res :=
  let m := s.msg
  let core := m.scope / 16 % 256
  let e := entryOf s core m.decl
  let (l, asid) := scopeLaunch s m.scope
  let w : Who := ⟨l.getD s.nextLaunch, core, (e.map (fun e => e.gid % 16)).getD 0, asid, false, none, 0, false, false, false, .exact⟩
  .next (if m.count = 0 ∨ 256 ≤ m.count then s
    else declarePlace s w (.pa (m.line * 128)) m.count m.scope core m.decl)

/-- LINE_SPENT_EVENT (R47): an event in flight reaches its core. -/
def execLineSpentEvent (s : State) : Res :=
  match takeNth s.ra.events s.msg.idx with
  | none => .fault .noSuchUnit
  | some ((core, idx), rest) =>
    .next (spentEvent (dropSent { s with ra := { s.ra with events := rest } } (.spent core idx)) core idx)

/-- A close changed. -/
def updClose (s : State) (c : Close) (f : Close → Close) : State :=
  { s with ra := { s.ra with closes := updFirst s.ra.closes (· == c) f } }

/-- SCOPE_CLOSE_SCAN (R48, R109): the slice of the message, or the core 256 below its number, scans for the oldest
close that waits for it. -/
def execScopeCloseScan (s : State) : Res :=
  let u := s.msg.unit
  if 512 ≤ u then .fault .noSuchUnit
  else
    .next (match s.ra.closes.find? (fun c => if u < 256 then c.slices.contains u else c.cores.contains (u - 256)) with
      | none => s
      | some c =>
        let s := updClose s c (fun c =>
          if u < 256 then { c with slices := setDel c.slices u } else { c with cores := setDel c.cores (u - 256) })
        if u < 256 then scanSlice s u c else scanCore s (u - 256) c)

/-- SCOPE_CLOSE_ACK (R48): the oldest close whose scans are all acknowledged completes. -/
def execScopeCloseAck (s : State) : Res :=
  .next (match s.ra.closes.find? (fun c => c.slices = [] && c.cores = []) with
    | some c => endClose s c
    | none => s)

end Sys2Proof.Machine
end

