-- ==== Sys2Proof/Machine/VecArith.lean ====
section
/-!
DEFINITION. VARITH: element-wise arithmetic (R283, R284).
-/

namespace Sys2Proof.Machine

/-! ### Operations on values of the operation's tag -/

/-- Integers by `fi`, floats by `ff`. -/
def onVals (fi : Int → Int → Int) (ff : Ex → Ex → Ex × Nat) (x y : Val) : Val × Nat :=
  match x, y with
  | .int a, .int b => (.int (fi a b), 0)
  | a, b => let (r, fl) := ff a.ex b.ex; (.flt r, fl)

/-- The mode is RDN, which signs an exact zero sum (R158). -/
def rdn (fmode : Nat) : Bool := rmOf fmode == 2

/-- a + b. -/
def addVals (fmode : Nat) (x y : Val) : Val × Nat := onVals (· + ·) (exAdd (rdn fmode)) x y

/-- a − b. -/
def subVals (fmode : Nat) (x y : Val) : Val × Nat :=
  onVals (· - ·) (fun a b => exAdd (rdn fmode) a b.flip) x y

/-- a × b + d with the product's sign and the addend's sign as given (R283). -/
def fusedVals (fmode : Nat) (negP negD : Bool) (x y d : Val) : Val × Nat :=
  match x, y, d with
  | .int a, .int b, .int z => (.int ((if negP then -(a * b) else a * b) + (if negD then -z else z)), 0)
  | a, b, z =>
    let (p, f1) := exMul a.ex b.ex
    let (r, f2) := exAdd (rdn fmode) (if negP then p.flip else p) (if negD then z.ex.flip else z.ex)
    (.flt r, f1 ||| f2)

/-- Integer quotient and remainder of R149, on integers of tag `t`. -/
def divInt (t : Nat) (a b : Int) : Int :=
  if b = 0 then (if isSigned t then -1 else intMax t) else Int.tdiv a b
def remInt (a b : Int) : Int := if b = 0 then a else Int.tmod a b

/-- Clamped to the range of a tag (R148). -/
def clampTo (t : Nat) (z : Int) : Int := if z < intMin t then intMin t else if intMax t < z then intMax t else z

/-- The lesser or greater (R283). -/
def pickVals (lesser : Bool) (x y : Val) : Val × Nat :=
  match x, y with
  | .int a, .int b => (.int (if decide (a ≤ b) = lesser then a else b), 0)
  | a, b => let (r, fl) := exMinMax lesser a.ex b.ex; (.flt r, fl)

/-- A NaN that a sign operation reads becomes the canonical NaN, with NV when it signals (R152, R283). -/
def signVals (f : Ex → Ex) (x : Ex) : Val × Nat :=
  if x.isNan then (.flt (.nan false), nvIf x.isSig) else (.flt (f x), 0)

/-! ### The forms -/

def vaddV (d a b : Fin 32) (m : Fin 8) (k : Bool) (s : State) (c : VCtx) : VOut :=
  binary s c d a b m k false false numTag fun _ x y _ => addVals c.fmode x y

def vsubV (d a b : Fin 32) (m : Fin 8) (k : Bool) (s : State) (c : VCtx) : VOut :=
  binary s c d a b m k false false numTag fun _ x y _ => subVals c.fmode x y

def vrsubV (d a b : Fin 32) (m : Fin 8) (k : Bool) (s : State) (c : VCtx) : VOut :=
  binary s c d a b m k false false numTag fun _ x y _ => subVals c.fmode y x

def vmulV (d a b : Fin 32) (m : Fin 8) (k : Bool) (s : State) (c : VCtx) : VOut :=
  binary s c d a b m k false false numTag fun _ x y _ => onVals (· * ·) exMul x y

def vmulhV (d a b : Fin 32) (m : Fin 8) (k : Bool) (s : State) (c : VCtx) : VOut :=
  binary s c d a b m k false false intTag fun t x y _ => (.int (x.toInt * y.toInt / (2 ^ cw t : Nat)), 0)

def vdivV (d a b : Fin 32) (m : Fin 8) (k : Bool) (s : State) (c : VCtx) : VOut :=
  binary s c d a b m k false false numTag fun t x y _ => onVals (divInt t) exDiv x y

def vremV (d a b : Fin 32) (m : Fin 8) (k : Bool) (s : State) (c : VCtx) : VOut :=
  binary s c d a b m k false false intTag fun _ x y _ => (.int (remInt x.toInt y.toInt), 0)

def vminV (d a b : Fin 32) (m : Fin 8) (k : Bool) (s : State) (c : VCtx) : VOut :=
  binary s c d a b m k false true numTag fun _ x y _ => pickVals true x y

def vmaxV (d a b : Fin 32) (m : Fin 8) (k : Bool) (s : State) (c : VCtx) : VOut :=
  binary s c d a b m k false true numTag fun _ x y _ => pickVals false x y

def vfmaV (d a b : Fin 32) (m : Fin 8) (k : Bool) (s : State) (c : VCtx) : VOut :=
  binary s c d a b m k true false numTag fun _ x y z => fusedVals c.fmode false false x y z

def vfmsV (d a b : Fin 32) (m : Fin 8) (k : Bool) (s : State) (c : VCtx) : VOut :=
  binary s c d a b m k true false numTag fun _ x y z => fusedVals c.fmode false true x y z

def vfnmaV (d a b : Fin 32) (m : Fin 8) (k : Bool) (s : State) (c : VCtx) : VOut :=
  binary s c d a b m k true false numTag fun _ x y z => fusedVals c.fmode true false x y z

def vsaddV (d a b : Fin 32) (m : Fin 8) (k : Bool) (s : State) (c : VCtx) : VOut :=
  binary s c d a b m k false false intTag fun t x y _ => (.int (clampTo t (x.toInt + y.toInt)), 0)

def vssubV (d a b : Fin 32) (m : Fin 8) (k : Bool) (s : State) (c : VCtx) : VOut :=
  binary s c d a b m k false false intTag fun t x y _ => (.int (clampTo t (x.toInt - y.toInt)), 0)

def vabsV (d b : Fin 32) (m : Fin 8) (s : State) (c : VCtx) : VOut :=
  unary s c d b m true numTag fun _ y =>
    match y with
    | .int z => (.int z.natAbs, 0)
    | .flt x => signVals (fun v => v.withNeg false) x

/-- [log 14 DEDUCED] -/
def vnegV (d b : Fin 32) (m : Fin 8) (s : State) (c : VCtx) : VOut :=
  unary s c d b m true numTag fun _ y =>
    match y with
    | .int z => (.int (-z), 0)
    | .flt x => signVals Ex.flip x

def vabsdV (d a b : Fin 32) (m : Fin 8) (k : Bool) (s : State) (c : VCtx) : VOut :=
  binary s c d a b m k false false numTag fun _ x y _ =>
    match subVals c.fmode x y with
    | (.int z, fl) => (.int z.natAbs, fl)
    | (.flt v, fl) => (.flt (v.withNeg false), fl)

/-! ### On the control thread -/

/-- VADD on the control thread (R283). -/
def execVadd (d : Fin 32) (a : Fin 32) (b : Fin 32) (m : Fin 8) (c : Bool) (k : Bool) (s : State) : Res :=
  .next (controlV s (.vadd d a b m c k) fun s c => vaddV d a b m k s c)

/-- VSUB on the control thread (R283). -/
def execVsub (d : Fin 32) (a : Fin 32) (b : Fin 32) (m : Fin 8) (c : Bool) (k : Bool) (s : State) : Res :=
  .next (controlV s (.vsub d a b m c k) fun s c => vsubV d a b m k s c)

/-- VRSUB on the control thread (R283). -/
def execVrsub (d : Fin 32) (a : Fin 32) (b : Fin 32) (m : Fin 8) (c : Bool) (k : Bool) (s : State) : Res :=
  .next (controlV s (.vrsub d a b m c k) fun s c => vrsubV d a b m k s c)

/-- VMUL on the control thread (R283). -/
def execVmul (d : Fin 32) (a : Fin 32) (b : Fin 32) (m : Fin 8) (c : Bool) (k : Bool) (s : State) : Res :=
  .next (controlV s (.vmul d a b m c k) fun s c => vmulV d a b m k s c)

/-- VMULH on the control thread (R283). -/
def execVmulh (d : Fin 32) (a : Fin 32) (b : Fin 32) (m : Fin 8) (c : Bool) (k : Bool) (s : State) : Res :=
  .next (controlV s (.vmulh d a b m c k) fun s c => vmulhV d a b m k s c)

/-- VDIV on the control thread (R283). -/
def execVdiv (d : Fin 32) (a : Fin 32) (b : Fin 32) (m : Fin 8) (c : Bool) (k : Bool) (s : State) : Res :=
  .next (controlV s (.vdiv d a b m c k) fun s c => vdivV d a b m k s c)

/-- VREM on the control thread (R283). -/
def execVrem (d : Fin 32) (a : Fin 32) (b : Fin 32) (m : Fin 8) (c : Bool) (k : Bool) (s : State) : Res :=
  .next (controlV s (.vrem d a b m c k) fun s c => vremV d a b m k s c)

/-- VMIN on the control thread (R283). -/
def execVmin (d : Fin 32) (a : Fin 32) (b : Fin 32) (m : Fin 8) (c : Bool) (k : Bool) (s : State) : Res :=
  .next (controlV s (.vmin d a b m c k) fun s c => vminV d a b m k s c)

/-- VMAX on the control thread (R283). -/
def execVmax (d : Fin 32) (a : Fin 32) (b : Fin 32) (m : Fin 8) (c : Bool) (k : Bool) (s : State) : Res :=
  .next (controlV s (.vmax d a b m c k) fun s c => vmaxV d a b m k s c)

/-- VFMA on the control thread (R283). -/
def execVfma (d : Fin 32) (a : Fin 32) (b : Fin 32) (m : Fin 8) (c : Bool) (k : Bool) (s : State) : Res :=
  .next (controlV s (.vfma d a b m c k) fun s c => vfmaV d a b m k s c)

/-- VFMS on the control thread (R283). -/
def execVfms (d : Fin 32) (a : Fin 32) (b : Fin 32) (m : Fin 8) (c : Bool) (k : Bool) (s : State) : Res :=
  .next (controlV s (.vfms d a b m c k) fun s c => vfmsV d a b m k s c)

/-- VFNMA on the control thread (R283). -/
def execVfnma (d : Fin 32) (a : Fin 32) (b : Fin 32) (m : Fin 8) (c : Bool) (k : Bool) (s : State) : Res :=
  .next (controlV s (.vfnma d a b m c k) fun s c => vfnmaV d a b m k s c)

/-- VSADD on the control thread (R283). -/
def execVsadd (d : Fin 32) (a : Fin 32) (b : Fin 32) (m : Fin 8) (c : Bool) (k : Bool) (s : State) : Res :=
  .next (controlV s (.vsadd d a b m c k) fun s c => vsaddV d a b m k s c)

/-- VSSUB on the control thread (R283). -/
def execVssub (d : Fin 32) (a : Fin 32) (b : Fin 32) (m : Fin 8) (c : Bool) (k : Bool) (s : State) : Res :=
  .next (controlV s (.vssub d a b m c k) fun s c => vssubV d a b m k s c)

/-- VABS on the control thread (R283). -/
def execVabs (d : Fin 32) (b : Fin 32) (m : Fin 8) (c : Bool) (s : State) : Res :=
  .next (controlV s (.vabs d b m c) fun s c => vabsV d b m s c)

/-- VNEG on the control thread (R283). -/
def execVneg (d : Fin 32) (b : Fin 32) (m : Fin 8) (c : Bool) (s : State) : Res :=
  .next (controlV s (.vneg d b m c) fun s c => vnegV d b m s c)

/-- VABSD on the control thread (R283). -/
def execVabsd (d : Fin 32) (a : Fin 32) (b : Fin 32) (m : Fin 8) (c : Bool) (k : Bool) (s : State) : Res :=
  .next (controlV s (.vabsd d a b m c k) fun s c => vabsdV d a b m k s c)


end Sys2Proof.Machine
end

