-- ==== Sys2Proof/Machine/VecLogic.lean ====
section
/-!
DEFINITION. VLOGIC and VCMP: element-wise logic, shifts and comparisons (R285, R286).
-/

namespace Sys2Proof.Machine

/-- The w-bit pattern of an integer of tag `t`. -/
def patOf (t : Nat) (v : Val) : Nat := wrapN v.toInt (cw t)

/-- An operation on patterns of the operation's tag. -/
def onPats (f : Nat → Nat → Nat) (t : Nat) (x y : Val) : Val × Nat :=
  (.int (intVal t (f (patOf t x) (patOf t y))), 0)

/-- All ones of a tag's width. -/
def ones (t : Nat) : Nat := 2 ^ cw t - 1

/-- Shift amounts use the low log2(w) bits (R285). -/
def shiftBy (t y : Nat) : Nat := y % cw t

/-- Right shift with the pattern's top bit copied in. -/
def sarPat (w p k : Nat) : Nat := wrapN (toS p w / (2 ^ k : Nat)) w

/-- Zero bits above the highest 1 of a w-bit pattern. -/
def clzPat (w p : Nat) : Nat := if p = 0 then w else w - 1 - Nat.log2 p

/-- 1 bits of a w-bit pattern. -/
def popPat (w p : Nat) : Nat := ((List.range w).filter (fun i => bit p i)).length

def vandV (d a b : Fin 32) (m : Fin 8) (k : Bool) (s : State) (c : VCtx) : VOut :=
  binary s c d a b m k false false intOrBit fun t x y _ => onPats (· &&& ·) t x y

def vorV (d a b : Fin 32) (m : Fin 8) (k : Bool) (s : State) (c : VCtx) : VOut :=
  binary s c d a b m k false false intOrBit fun t x y _ => onPats (· ||| ·) t x y

def vxorV (d a b : Fin 32) (m : Fin 8) (k : Bool) (s : State) (c : VCtx) : VOut :=
  binary s c d a b m k false false intOrBit fun t x y _ => onPats (· ^^^ ·) t x y

def vandnV (d a b : Fin 32) (m : Fin 8) (k : Bool) (s : State) (c : VCtx) : VOut :=
  binary s c d a b m k false false intOrBit fun t x y _ => onPats (fun p q => p &&& (ones t - q)) t x y

def vnotV (d b : Fin 32) (m : Fin 8) (s : State) (c : VCtx) : VOut :=
  unary s c d b m false intOrBit fun t y => onPats (fun p _ => ones t - p) t y y

def vsllV (d a b : Fin 32) (m : Fin 8) (k : Bool) (s : State) (c : VCtx) : VOut :=
  binary s c d a b m k false false intTag fun t x y _ => onPats (fun p q => p * 2 ^ shiftBy t q) t x y

def vsrlV (d a b : Fin 32) (m : Fin 8) (k : Bool) (s : State) (c : VCtx) : VOut :=
  binary s c d a b m k false false intTag fun t x y _ => onPats (fun p q => p / 2 ^ shiftBy t q) t x y

def vsraV (d a b : Fin 32) (m : Fin 8) (k : Bool) (s : State) (c : VCtx) : VOut :=
  binary s c d a b m k false false intTag fun t x y _ => onPats (fun p q => sarPat (cw t) p (shiftBy t q)) t x y

def vclzV (d b : Fin 32) (m : Fin 8) (s : State) (c : VCtx) : VOut :=
  unary s c d b m false intTag fun t y => onPats (fun p _ => clzPat (cw t) p) t y y

def vpopcV (d b : Fin 32) (m : Fin 8) (s : State) (c : VCtx) : VOut :=
  unary s c d b m false intTag fun t y => onPats (fun p _ => popPat (cw t) p) t y y

/-! ### Comparisons (R286) -/

/-- A comparison's condition and flags: `nan` is the answer for a NaN operand, `loud` says that any NaN
sets NV. -/
def condVals (p : Ordering → Bool) (nan loud : Bool) (x y : Val) : Bool × Nat :=
  let a := x.ex
  let b := y.ex
  if a.isNan || b.isNan then (nan, nvIf (loud || a.isSig || b.isSig)) else (p (Ex.cmp a b), 0)

def vceqV (d : Fin 8) (a b : Fin 32) (m : Fin 8) (k : Bool) (s : State) (c : VCtx) : VOut :=
  compareForm s c d a b m k (condVals (· == .eq) false false)

def vcneV (d : Fin 8) (a b : Fin 32) (m : Fin 8) (k : Bool) (s : State) (c : VCtx) : VOut :=
  compareForm s c d a b m k (condVals (· != .eq) true false)

def vcltV (d : Fin 8) (a b : Fin 32) (m : Fin 8) (k : Bool) (s : State) (c : VCtx) : VOut :=
  compareForm s c d a b m k (condVals (· == .lt) false true)

def vcleV (d : Fin 8) (a b : Fin 32) (m : Fin 8) (k : Bool) (s : State) (c : VCtx) : VOut :=
  compareForm s c d a b m k (condVals (· != .gt) false true)

def vcgtV (d : Fin 8) (a b : Fin 32) (m : Fin 8) (k : Bool) (s : State) (c : VCtx) : VOut :=
  compareForm s c d a b m k (condVals (· == .gt) false true)

def vcgeV (d : Fin 8) (a b : Fin 32) (m : Fin 8) (k : Bool) (s : State) (c : VCtx) : VOut :=
  compareForm s c d a b m k (condVals (· != .lt) false true)

def vcunV (d : Fin 8) (a b : Fin 32) (m : Fin 8) (k : Bool) (s : State) (c : VCtx) : VOut :=
  compareForm s c d a b m k (condVals (fun _ => false) true false)

/-! ### On the control thread -/

/-- VAND on the control thread (R285). -/
def execVand (d : Fin 32) (a : Fin 32) (b : Fin 32) (m : Fin 8) (c : Bool) (k : Bool) (s : State) : Res :=
  .next (controlV s (.vand d a b m c k) fun s c => vandV d a b m k s c)

/-- VOR on the control thread (R285). -/
def execVor (d : Fin 32) (a : Fin 32) (b : Fin 32) (m : Fin 8) (c : Bool) (k : Bool) (s : State) : Res :=
  .next (controlV s (.vor d a b m c k) fun s c => vorV d a b m k s c)

/-- VXOR on the control thread (R285). -/
def execVxor (d : Fin 32) (a : Fin 32) (b : Fin 32) (m : Fin 8) (c : Bool) (k : Bool) (s : State) : Res :=
  .next (controlV s (.vxor d a b m c k) fun s c => vxorV d a b m k s c)

/-- VANDN on the control thread (R285). -/
def execVandn (d : Fin 32) (a : Fin 32) (b : Fin 32) (m : Fin 8) (c : Bool) (k : Bool) (s : State) : Res :=
  .next (controlV s (.vandn d a b m c k) fun s c => vandnV d a b m k s c)

/-- VNOT on the control thread (R285). -/
def execVnot (d : Fin 32) (b : Fin 32) (m : Fin 8) (c : Bool) (s : State) : Res :=
  .next (controlV s (.vnot d b m c) fun s c => vnotV d b m s c)

/-- VSLL on the control thread (R285). -/
def execVsll (d : Fin 32) (a : Fin 32) (b : Fin 32) (m : Fin 8) (c : Bool) (k : Bool) (s : State) : Res :=
  .next (controlV s (.vsll d a b m c k) fun s c => vsllV d a b m k s c)

/-- VSRL on the control thread (R285). -/
def execVsrl (d : Fin 32) (a : Fin 32) (b : Fin 32) (m : Fin 8) (c : Bool) (k : Bool) (s : State) : Res :=
  .next (controlV s (.vsrl d a b m c k) fun s c => vsrlV d a b m k s c)

/-- VSRA on the control thread (R285). -/
def execVsra (d : Fin 32) (a : Fin 32) (b : Fin 32) (m : Fin 8) (c : Bool) (k : Bool) (s : State) : Res :=
  .next (controlV s (.vsra d a b m c k) fun s c => vsraV d a b m k s c)

/-- VCLZ on the control thread (R285). -/
def execVclz (d : Fin 32) (b : Fin 32) (m : Fin 8) (c : Bool) (s : State) : Res :=
  .next (controlV s (.vclz d b m c) fun s c => vclzV d b m s c)

/-- VPOPC on the control thread (R285). -/
def execVpopc (d : Fin 32) (b : Fin 32) (m : Fin 8) (c : Bool) (s : State) : Res :=
  .next (controlV s (.vpopc d b m c) fun s c => vpopcV d b m s c)

/-- VCEQ on the control thread (R286). -/
def execVceq (d : Fin 8) (a : Fin 32) (b : Fin 32) (m : Fin 8) (c : Bool) (k : Bool) (s : State) : Res :=
  .next (controlV s (.vceq d a b m c k) fun s c => vceqV d a b m k s c)

/-- VCNE on the control thread (R286). -/
def execVcne (d : Fin 8) (a : Fin 32) (b : Fin 32) (m : Fin 8) (c : Bool) (k : Bool) (s : State) : Res :=
  .next (controlV s (.vcne d a b m c k) fun s c => vcneV d a b m k s c)

/-- VCLT on the control thread (R286). -/
def execVclt (d : Fin 8) (a : Fin 32) (b : Fin 32) (m : Fin 8) (c : Bool) (k : Bool) (s : State) : Res :=
  .next (controlV s (.vclt d a b m c k) fun s c => vcltV d a b m k s c)

/-- VCLE on the control thread (R286). -/
def execVcle (d : Fin 8) (a : Fin 32) (b : Fin 32) (m : Fin 8) (c : Bool) (k : Bool) (s : State) : Res :=
  .next (controlV s (.vcle d a b m c k) fun s c => vcleV d a b m k s c)

/-- VCGT on the control thread (R286). -/
def execVcgt (d : Fin 8) (a : Fin 32) (b : Fin 32) (m : Fin 8) (c : Bool) (k : Bool) (s : State) : Res :=
  .next (controlV s (.vcgt d a b m c k) fun s c => vcgtV d a b m k s c)

/-- VCGE on the control thread (R286). -/
def execVcge (d : Fin 8) (a : Fin 32) (b : Fin 32) (m : Fin 8) (c : Bool) (k : Bool) (s : State) : Res :=
  .next (controlV s (.vcge d a b m c k) fun s c => vcgeV d a b m k s c)

/-- VCUN on the control thread (R286). -/
def execVcun (d : Fin 8) (a : Fin 32) (b : Fin 32) (m : Fin 8) (c : Bool) (k : Bool) (s : State) : Res :=
  .next (controlV s (.vcun d a b m c k) fun s c => vcunV d a b m k s c)


end Sys2Proof.Machine
end

