-- ==== Sys2Proof/Machine/VecPerm.lean ====
section
/-!
DEFINITION. VCVT, VPERM, VIDX and VMASK: conversions, moves, slides, gathers, index generation and mask
forms (R287, R288, R291, R294 to R297).
-/

namespace Sys2Proof.Machine

/-! ### Conversions (R287) -/

/-- The pairs that vcvt converts (R287). -/
def cvtOk (a b : Nat) : Bool :=
  a != 0 && b != 0 && a != tagBit && b != tagBit && !(isMx a && isMx b) && !(isMx a && isInt b)
    && !(isInt a && isMx b) && !(isInt a && b == tagE8m0) && !(a == tagE8m0 && isInt b)

/-- Elements converted from vs2 and written in the target tag. `moves` says that a poisoned source is not
consumed: what it gives is poisoned, the whole block for an MX target (R425). -/
def convertTo (s : State) (c : VCtx) (d b t : Nat) (es : List Nat) (satF satI moves : Bool) : State :=
  let vals := es.map (fun e => (e, elemVal s c.fmode b e))
  let bad := if moves then es.filter (fun e => elemPoison s b e) else []
  let (els, scs, rnd) := convAll (rndOf s c (vSide d)) t none satF satI vals
  let hit (e : Nat) : Bool := if isMx t then bad.any (fun x => x / 32 == e / 32) else bad.contains e
  putRnd (writeElems s c d t (els.map (fun p => (p.1, p.2, hit p.1))) scs) c rnd

/-- vcvt and vcvt.sat. -/
def convert (s : State) (c : VCtx) (d t b m : Nat) (sat : Bool) : VOut :=
  sideCheck s false [b, d] [m] fun _ =>
  mxIndep s c [b, d] fun _ =>
  let tb := tagOf s b
  let v := vregOf s.g d
  if cvtOk tb t = false ∨ (c.indep ≠ none ∧ isMx t) then tagFail s b
  else if v.pin ∧ v.tag ≠ t then tagFail s d
  else
    destK s c d t [b] fun _ =>
    let es := active s.g c m
    opsClean s c m [([b], es)] fun _ =>
    .done (convertTo s c d b t es (sat || satOf c.fmode) sat false)

def vcvtV (d t b : Fin 32) (m : Fin 8) (s : State) (c : VCtx) : VOut := convert s c d t b m false

def vcvtSatV (d t b : Fin 32) (m : Fin 8) (s : State) (c : VCtx) : VOut := convert s c d t b m true

/-- [log 34 DEDUCED] -/
def vretagV (d t b : Fin 32) (m : Fin 8) (s : State) (c : VCtx) : VOut :=
  sideCheck s false [b, d] [m] fun _ =>
  mxIndep s c [b, d] fun _ =>
  let tb := tagOf s b
  let v := vregOf s.g d
  if cvtOk tb t = false ∨ isMx tb ∨ isMx t ∨ cw tb ≠ cw t then tagFail s b
  else if v.pin ∧ v.tag ≠ t then tagFail s d
  else
    destK s c d t [b] fun _ =>
    maskClean s c m fun _ =>
    .done (copyPats s c d t ((active s.g c m).map (fun e => (e, elemOf s b e, elemPoison s b e))))

/-! ### Moves (R295) -/

/-- Blocks of an MX register copied whole with their scales (R125). [log 32 DEDUCED] -/
def copyBlocks (s : State) (c : VCtx) (d b : Nat) (es : List Nat) : State :=
  let v := vregOf s.g b
  let js := blocksOf es
  let ws := js.flatMap (fun j => (List.range 32).map (fun i =>
    let e := 32 * j + i
    if es.contains e then (e, v.elem e, elemPoison s b e) else (e, 0, false)))
  writeElems s c d v.tag ws (js.map (fun j => (j, v.scale j)))

def vmvV (d b : Fin 32) (m : Fin 8) (k : Bool) (s : State) (c : VCtx) : VOut :=
  if k then
    let t := tagOf s d
    sideCheck s true [d] [m] fun _ =>
    mxIndep s c [d] fun _ =>
    if t = 0 ∨ isMx t then tagFail s d
    else
      destK s c d t [] fun _ =>
      maskClean s c m fun _ =>
      scalarOp s c b fun w =>
      .done (copyPats s c d t ((active s.g c m).map (fun e => (e, w.toNat, false))))
  else
    let tb := tagOf s b
    let v := vregOf s.g d
    sideCheck s true [b, d] [m] fun _ =>
    mxIndep s c [b, d] fun _ =>
    if tb = 0 then tagFail s b
    else if v.pin ∧ v.tag ≠ tb then
      if cvtOk tb v.tag = false then tagFail s d
      else
        destK s c d tb [b] fun dt =>
        maskClean s c m fun _ =>
        .done (convertTo s c d b dt (active s.g c m) (satOf c.fmode) false true)
    else
      destK s c d tb [b] fun _ =>
      maskClean s c m fun _ =>
      let es := active s.g c m
      if isMx tb then .done (copyBlocks s c d b es)
      else .done (copyPats s c d tb (es.map (fun e => (e, elemOf s b e, elemPoison s b e))))

/-- An element as an x register receives it: extended with its sign for i and idx tags, with zeros
otherwise. -/
def elemWord (tag pat : Nat) : Word :=
  if isSigned tag then BitVec.ofInt 64 (intVal tag pat) else BitVec.ofNat 64 (pat % 2 ^ cw tag)

/-- vmv.x; in a body its destination is an h register, which no VP may write (R117). -/
def vmvXV (d b : Fin 32) (s : State) (c : VCtx) : VOut :=
  if c.inAib then
    match active s.g c 0 with
    | e :: _ => .fail s cShared (regVal (d % 16)) (some e) false
    | [] => .done s
  else
    sideCheck s true [b] [] fun _ =>
    let t := tagOf s b
    if t = 0 ∨ isMx t ∨ sideLanes s s.g (vSide b) = 0 then tagFail s b
    else capCheck s c [(b, t)] fun _ =>
      elemsClean s [b] [0] fun _ => .done (setX s d (elemWord t (elemOf s b 0)))

/-! ### Slides, gathers and packing (R291, R294) -/

/-- A form that moves elements of a data source: `idx` is the index register, if any, of which
`first` says that element 0 alone is read, and `f` gives each written element of vd the source element it takes, or none for the encoding of zero.
[log 33 DEDUCED] -/
def moveForm (s : State) (c0 : VCtx) (d ds m : Nat) (idx : Option Nat) (first : Bool)
    (f : List Nat → List (Nat × Option Nat)) : VOut :=
  let c := c0.fromZero
  let srcs := ds :: idx.toList
  sideCheck s true (srcs ++ [d]) [m] fun _ =>
  let t := tagOf s ds
  if t = 0 ∨ isMx t then tagFail s ds
  else
    match idx.filter (fun r => !isInt (tagOf s r)) with
    | some r => tagFail s r
    | none =>
      destK s c d t srcs fun dt =>
      maskClean s c m fun _ =>
      let ws := f (active s.g c m)
      let bad (e : Nat) (o : Option Nat) : Bool :=
        (o.map (fun i => elemPoison s ds i)).getD false || idx.any (fun r => elemPoison s r (if first then 0 else e))
      if dt = t then
        .done (copyPats s c d t (ws.map (fun w =>
          (w.1, (w.2.map (fun i => elemOf s ds i)).getD 0, bad w.1 w.2))))
      else
        let vals := ws.map (fun w => (w.1, match w.2 with
          | some i => elemVal s c.fmode ds i
          | none => valOf c.fmode t 0))
        let (els, scs, rnd) := convAll (rndOf s c (vSide d)) dt none (satOf c.fmode) false vals
        let ps := ws.filter (fun w => bad w.1 w.2)
        let hit (e : Nat) : Bool := ps.any (fun w => if isMx dt then w.1 / 32 == e / 32 else w.1 == e)
        .done (putRnd (writeElems s c d dt (els.map (fun p => (p.1, p.2, hit p.1))) scs) c rnd)

/-- A shift count: x[vs2], or element 0 of vs2 read as unsigned. [log 33 DEDUCED] -/
def slideCount (s : State) (c : VCtx) (b : Nat) (k : Bool) (go : Option Nat → Nat → VOut) : VOut :=
  if k then scalarOp s c b fun w => go none w.toNat
  else go (some b) (elemOf s b 0 % 2 ^ cw (tagOf s b))

def vslupV (d a b : Fin 32) (m : Fin 8) (k : Bool) (s : State) (c : VCtx) : VOut :=
  slideCount s c b k fun r n => moveForm s c d a m r true fun es =>
    (es.filter (fun e => decide (n ≤ e))).map (fun e => (e, some (e - n)))

def vsldnV (d a b : Fin 32) (m : Fin 8) (k : Bool) (s : State) (c : VCtx) : VOut :=
  slideCount s c b k fun r n => moveForm s c d a m r true fun es =>
    es.map (fun e => (e, if e + n < c.vl then some (e + n) else none))

/-- [log 33 DEDUCED] -/
def vgathV (d a b : Fin 32) (m : Fin 8) (s : State) (c : VCtx) : VOut :=
  moveForm s c d a m (some b) false fun es =>
    es.map (fun e =>
      let i := elemInt s b e
      (e, if 0 ≤ i ∧ i < c.vl then some i.toNat else none))

def vcomprV (d b : Fin 32) (m : Fin 8) (s : State) (c : VCtx) : VOut :=
  moveForm s c d b m none false fun es => es.zipIdx.map (fun p => (p.2, some p.1))

def vexpdV (d b : Fin 32) (m : Fin 8) (s : State) (c : VCtx) : VOut :=
  moveForm s c d b m none false fun es => es.zipIdx.map (fun p => (p.1, some p.2))

def vrevV (d b : Fin 32) (m : Fin 8) (s : State) (c : VCtx) : VOut :=
  moveForm s c d b m none false fun es => es.map (fun e => (e, some (c.vl - 1 - e)))

/-! ### Index generation (R288) and VP numbers (R311) -/

def vidxV (d : Fin 32) (st : Fin 1024) (m : Fin 8) (p : Fin 128) (s : State) (c : VCtx) : VOut :=
  generate s c d m false false fun e => .int (toS st 10 + e * toS p 7)

def vpidV (d : Fin 32) (m : Fin 8) (s : State) (c : VCtx) : VOut :=
  generate s c d m false false fun e => .int e

/-! ### Mask forms (R296) -/

/-- An element-wise mask form: `f` on the bits of ms1 and ms2. -/
def maskForm (s : State) (c : VCtx) (d a b m : Nat) (f : Bool → Bool → Bool) : VOut :=
  sideCheck s false [] [d, a, b, m] fun _ =>
  maskClean s c m fun _ =>
  let es := active s.g c m
  match es.find? (fun e => maskPoison s a e || maskPoison s b e) with
  | some e => .fail s cPoison (regVal e) (some e) false
  | none => .done (writeMask s d (es.map (fun e => (e, f (maskBit s.g a e) (maskBit s.g b e), false))))

def mandV (d a b m : Fin 8) (s : State) (c : VCtx) : VOut := maskForm s c d a b m (· && ·)

def morV (d a b m : Fin 8) (s : State) (c : VCtx) : VOut := maskForm s c d a b m (· || ·)

def mxorV (d a b m : Fin 8) (s : State) (c : VCtx) : VOut := maskForm s c d a b m (· != ·)

def mandnV (d a b m : Fin 8) (s : State) (c : VCtx) : VOut := maskForm s c d a b m (fun x y => x && !y)

def mnotV (d b m : Fin 8) (s : State) (c : VCtx) : VOut := maskForm s c d 0 b m (fun _ y => !y)

def msetV (d m : Fin 8) (s : State) (c : VCtx) : VOut := maskForm s c d 0 0 m (fun _ _ => true)

def mclrV (d m : Fin 8) (s : State) (c : VCtx) : VOut := maskForm s c d 0 0 m (fun _ _ => false)

/-- The active elements whose bit of ms2 is set. -/
def maskedSet (s : State) (c0 : VCtx) (b m : Nat) (k : List Nat → VOut) : VOut :=
  let c := c0.fromZero
  sideCheck s false [] [b, m] fun _ =>
  maskClean s c m fun _ =>
  let es := active s.g c m
  match es.find? (fun e => maskPoison s b e) with
  | some e => .fail s cPoison (regVal e) (some e) false
  | none => k (es.filter (maskBit s.g b))

def mpopcV (d : Fin 32) (b m : Fin 8) (s : State) (c : VCtx) : VOut :=
  maskedSet s c b m fun es => .done (setX s d (BitVec.ofNat 64 es.length))

def mfirstV (d : Fin 32) (b m : Fin 8) (s : State) (c : VCtx) : VOut :=
  maskedSet s c b m fun es => .done (setX s d (match es with
    | [] => BitVec.allOnes 64
    | e :: _ => BitVec.ofNat 64 e))

/-! ### On the control thread -/

/-- VCVT on the control thread (R287). -/
def execVcvt (d : Fin 32) (t : Fin 32) (b : Fin 32) (m : Fin 8) (c : Bool) (s : State) : Res :=
  .next (controlV s (.vcvt d t b m c) fun s c => vcvtV d t b m s c)

/-- VCVT_SAT on the control thread (R287). -/
def execVcvtSat (d : Fin 32) (t : Fin 32) (b : Fin 32) (m : Fin 8) (c : Bool) (s : State) : Res :=
  .next (controlV s (.vcvtSat d t b m c) fun s c => vcvtSatV d t b m s c)

/-- VRETAG on the control thread (R287). -/
def execVretag (d : Fin 32) (t : Fin 32) (b : Fin 32) (m : Fin 8) (c : Bool) (s : State) : Res :=
  .next (controlV s (.vretag d t b m c) fun s c => vretagV d t b m s c)

/-- VMV on the control thread (R295). -/
def execVmv (d : Fin 32) (b : Fin 32) (m : Fin 8) (c : Bool) (k : Bool) (s : State) : Res :=
  .next (controlV s (.vmv d b m c k) fun s c => vmvV d b m k s c)

/-- VMV_X on the control thread (R295). -/
def execVmvX (d : Fin 32) (b : Fin 32) (c : Bool) (s : State) : Res :=
  .next (controlV s (.vmvX d b c) fun s c => vmvXV d b s c)

/-- VSLUP on the control thread (R294). -/
def execVslup (d : Fin 32) (a : Fin 32) (b : Fin 32) (m : Fin 8) (c : Bool) (k : Bool) (s : State) : Res :=
  .next (controlV s (.vslup d a b m c k) fun s c => vslupV d a b m k s c)

/-- VSLDN on the control thread (R294). -/
def execVsldn (d : Fin 32) (a : Fin 32) (b : Fin 32) (m : Fin 8) (c : Bool) (k : Bool) (s : State) : Res :=
  .next (controlV s (.vsldn d a b m c k) fun s c => vsldnV d a b m k s c)

/-- VGATH on the control thread (R294). -/
def execVgath (d : Fin 32) (a : Fin 32) (b : Fin 32) (m : Fin 8) (c : Bool) (s : State) : Res :=
  .next (controlV s (.vgath d a b m c) fun s c => vgathV d a b m s c)

/-- VCOMPR on the control thread (R294). -/
def execVcompr (d : Fin 32) (b : Fin 32) (m : Fin 8) (c : Bool) (s : State) : Res :=
  .next (controlV s (.vcompr d b m c) fun s c => vcomprV d b m s c)

/-- VEXPD on the control thread (R294). -/
def execVexpd (d : Fin 32) (b : Fin 32) (m : Fin 8) (c : Bool) (s : State) : Res :=
  .next (controlV s (.vexpd d b m c) fun s c => vexpdV d b m s c)

/-- VREV on the control thread (R294). -/
def execVrev (d : Fin 32) (b : Fin 32) (m : Fin 8) (c : Bool) (s : State) : Res :=
  .next (controlV s (.vrev d b m c) fun s c => vrevV d b m s c)

/-- VIDX on the control thread (R288). -/
def execVidx (d : Fin 32) (st : Fin 1024) (m : Fin 8) (c : Bool) (p : Fin 128) (s : State) : Res :=
  .next (controlV s (.vidx d st m c p) fun s c => vidxV d st m p s c)

/-- VPID on the control thread (R311). -/
def execVpid (d : Fin 32) (m : Fin 8) (s : State) : Res :=
  .next (controlV s (.vpid d m) fun s c => vpidV d m s c)

/-- MAND on the control thread (R296). -/
def execMand (d : Fin 8) (a : Fin 8) (b : Fin 8) (m : Fin 8) (c : Bool) (s : State) : Res :=
  .next (controlV s (.mand d a b m c) fun s c => mandV d a b m s c)

/-- MOR on the control thread (R296). -/
def execMor (d : Fin 8) (a : Fin 8) (b : Fin 8) (m : Fin 8) (c : Bool) (s : State) : Res :=
  .next (controlV s (.mor d a b m c) fun s c => morV d a b m s c)

/-- MXOR on the control thread (R296). -/
def execMxor (d : Fin 8) (a : Fin 8) (b : Fin 8) (m : Fin 8) (c : Bool) (s : State) : Res :=
  .next (controlV s (.mxor d a b m c) fun s c => mxorV d a b m s c)

/-- MANDN on the control thread (R296). -/
def execMandn (d : Fin 8) (a : Fin 8) (b : Fin 8) (m : Fin 8) (c : Bool) (s : State) : Res :=
  .next (controlV s (.mandn d a b m c) fun s c => mandnV d a b m s c)

/-- MNOT on the control thread (R296). -/
def execMnot (d : Fin 8) (b : Fin 8) (m : Fin 8) (c : Bool) (s : State) : Res :=
  .next (controlV s (.mnot d b m c) fun s c => mnotV d b m s c)

/-- MSET on the control thread (R296). -/
def execMset (d : Fin 8) (m : Fin 8) (c : Bool) (s : State) : Res :=
  .next (controlV s (.mset d m c) fun s c => msetV d m s c)

/-- MCLR on the control thread (R296). -/
def execMclr (d : Fin 8) (m : Fin 8) (c : Bool) (s : State) : Res :=
  .next (controlV s (.mclr d m c) fun s c => mclrV d m s c)

/-- MPOPC on the control thread (R296). -/
def execMpopc (d : Fin 32) (b : Fin 8) (m : Fin 8) (c : Bool) (s : State) : Res :=
  .next (controlV s (.mpopc d b m c) fun s c => mpopcV d b m s c)

/-- MFIRST on the control thread (R296). -/
def execMfirst (d : Fin 32) (b : Fin 8) (m : Fin 8) (c : Bool) (s : State) : Res :=
  .next (controlV s (.mfirst d b m c) fun s c => mfirstV d b m s c)

end Sys2Proof.Machine
end

