-- ==== Sys2Proof/Machine/VecRed.lean ====
section
/-!
DEFINITION. VRED: reductions over the fixed tree or in a free order, and the running sum
(R172, R173, R291 to R293).
-/

namespace Sys2Proof.Machine

/-- A combining operation of a reduction in the operation's tag. -/
abbrev Combine := Val → Val → Val × Nat

/-- One combination rounded into the tag: RNE under SR (R155, R172). -/
def combine1 (fmode t : Nat) (op : Combine) (x y : Val) : Val × Nat :=
  match op x y with
  | (.int z, fl) => (asTag t (.int z), fl)
  | (.flt v, fl) =>
    let (p, f2) := roundComb fmode t v
    (.flt (floatVal t p), fl ||| f2)

/-- One level of the tree (R172). -/
def treeLevel (fmode t : Nat) (op : Combine) : List (Option Val) → List (Option Val) × Nat
  | a :: b :: rest =>
    let (r, f1) : Option Val × Nat := match a, b with
      | none, y => (y, 0)
      | x, none => (x, 0)
      | some x, some y => let (v, fl) := combine1 fmode t op x y; (some v, fl)
    let (rs, f2) := treeLevel fmode t op rest
    (r :: rs, f1 ||| f2)
  | l => (l, 0)

/-- The tree, `n` levels at most. -/
def treeSum (fmode t : Nat) (op : Combine) : Nat → List (Option Val) → Option Val × Nat
  | 0, l => (l.head?.join, 0)
  | n + 1, l =>
    match l with
    | [] => (none, 0)
    | [x] => (x, 0)
    | l =>
      let (l', f1) := treeLevel fmode t op l
      let (r, f2) := treeSum fmode t op n l'
      (r, f1 ||| f2)

/-- Some full binary tree over the elements, as the device chooses (R173): two operands are taken out and
their combination put back until one is left. -/
def anySum (fmode t : Nat) (op : Combine) (n : Nat) : Nat → List Val → Option Val × Nat
  | 0, l => (l.head?, 0)
  | k + 1, l =>
    match takeNth l (Config.choice n % max 1 l.length) with
    | none => (none, 0)
    | some (x, []) => (some x, 0)
    | some (x, l1) =>
      match takeNth l1 (Config.choice (n + 1) % max 1 l1.length) with
      | none => (some x, 0)
      | some (y, l2) =>
        let (v, f1) := combine1 fmode t op x y
        let (r, f2) := anySum fmode t op (n + 2) k (v :: l2)
        (r, f1 ||| f2)

/-- The least power of two not below n, as a number of levels. -/
def levels (n : Nat) : Nat := if n ≤ 1 then 0 else Nat.log2 (n - 1) + 1

/-- A reduction: the active elements of vs2, then the starting value of vs1 (R292). -/
def reduce (s : State) (c0 : VCtx) (d a b m : Nat) (free exact : Bool) (ok : Nat → Bool)
    (ident : Nat → Val) (op : Nat → Combine) : VOut :=
  let c := c0.fromZero
  sideCheck s false [a, b, d] [m] fun _ =>
  pairK s false a (tagOf s a) b (tagOf s b) fun t =>
  if ok t = false then tagFail s a
  else
    destK s c d t [a, b] fun dt =>
    let es := active s.g c m
    if c.vl = 0 then .done s
    else
      opsClean s c m [([a], [0]), ([b], es)] fun _ =>
      let leaf (e : Nat) : Val := asTag t (elemVal s c.fmode b e)
      let (tr, f1) :=
        if free then anySum c.fmode t (op t) s.freeCtr es.length (es.map leaf)
        else
          let p := 2 ^ levels c.vl
          treeSum c.fmode t (op t) (levels c.vl)
            ((List.range p).map (fun e => if es.contains e then some (leaf e) else none))
      let (v, f2) := op t (tr.getD (ident t)) (asTag t (elemVal s c.fmode a 0))
      let s' := if free then { s with freeCtr := s.freeCtr + 2 * es.length } else s
      let mode := if exact ∧ dt = t then some 0 else if rmOf c.fmode = 5 then some 0 else none
      .done (writeVals s' c d t [(0, v)] (f1 ||| f2) mode)

/-- The identity of a sum: 0, −0 for floats. -/
def sumIdent (t : Nat) : Val := if isFloat t then .flt (.num true 0 1 0) else .int 0

/-- The identity of a minimum (`lesser`) or maximum (R292). -/
def extremeIdent (lesser : Bool) (t : Nat) : Val :=
  if isFloat t then
    if t = tagE8m0 then .flt (floatVal t (if lesser then 254 else 0))
    else if (fmtOf t).kind = .ieee then .flt (.inf (!lesser))
    else .flt ((floatVal t (fmtOf t).maxPat).withNeg (!lesser))
  else .int (if lesser then intMax t else intMin t)

def vredsumV (d a b : Fin 32) (m : Fin 8) (s : State) (c : VCtx) : VOut :=
  reduce s c d a b m false false numTag sumIdent fun _ => addVals c.fmode

def vredsumUV (d a b : Fin 32) (m : Fin 8) (s : State) (c : VCtx) : VOut :=
  reduce s c d a b m true false numTag sumIdent fun _ => addVals c.fmode

def vredminV (d a b : Fin 32) (m : Fin 8) (s : State) (c : VCtx) : VOut :=
  reduce s c d a b m false true numTag (extremeIdent true) fun _ => pickVals true

def vredmaxV (d a b : Fin 32) (m : Fin 8) (s : State) (c : VCtx) : VOut :=
  reduce s c d a b m false true numTag (extremeIdent false) fun _ => pickVals false

def vredandV (d a b : Fin 32) (m : Fin 8) (s : State) (c : VCtx) : VOut :=
  reduce s c d a b m false false intTag (fun t => .int (intVal t (ones t))) fun t => onPats (· &&& ·) t

def vredorV (d a b : Fin 32) (m : Fin 8) (s : State) (c : VCtx) : VOut :=
  reduce s c d a b m false false intTag (fun _ => .int 0) fun t => onPats (· ||| ·) t

def vredxorV (d a b : Fin 32) (m : Fin 8) (s : State) (c : VCtx) : VOut :=
  reduce s c d a b m false false intTag (fun _ => .int 0) fun t => onPats (· ^^^ ·) t

/-- The running sum over the active elements: each step is rounded into the operation's tag, and then converted into the
tag `dt` of a pinned destination, unless that is an MX tag, whose blocks are formed at the end (R161, R166, R293). Each
element comes with its pattern in the operation's tag and in the destination's. [log 31 DEDUCED] -/
def scanGo (s : State) (c : VCtx) (t dt b : Nat) : List Nat → Val → Rnd → List (Nat × Nat × Nat) × Rnd
  | [], _, r => ([], r)
  | e :: es, acc, r =>
    let (v, fl) := addVals c.fmode acc (asTag t (elemVal s c.fmode b e))
    let (p, r) := (r.raise fl).conv t e none (satOf c.fmode) false (wrapTo t v)
    let (q, r) := if dt = t ∨ isMx dt then (p, r) else r.conv dt e none (satOf c.fmode) false (valOf 0 t p)
    let (ps, r) := scanGo s c t dt b es (valOf 0 t p) r
    ((e, p, q) :: ps, r)

/-- [log 31 DEDUCED] -/
def vscanV (d a b : Fin 32) (m : Fin 8) (s : State) (c0 : VCtx) : VOut :=
  let c := c0.fromZero
  sideCheck s false [a, b, d] [m] fun _ =>
  pairK s false a (tagOf s a) b (tagOf s b) fun t =>
  if numTag t = false then tagFail s a
  else
    destK s c d t [a, b] fun dt =>
    let es := active s.g c m
    opsClean s c m [([a], if c.vl = 0 then [] else [0]), ([b], es)] fun _ =>
    let (ps, r) := scanGo s c t dt b es (asTag t (elemVal s c.fmode a 0)) (rndOf s c (vSide d))
    let s' := putRnd s c r
    if isMx dt then .done (writeVals s' c d t (ps.map (fun p => (p.1, valOf 0 t p.2.1))) 0 none)
    else .done (copyPats s' c d dt (ps.map (fun p => (p.1, p.2.2, false))))

/-! ### On the control thread -/

/-- VREDSUM on the control thread (R292). -/
def execVredsum (d : Fin 32) (a : Fin 32) (b : Fin 32) (m : Fin 8) (c : Bool) (s : State) : Res :=
  .next (controlV s (.vredsum d a b m c) fun s c => vredsumV d a b m s c)

/-- VREDSUM_U on the control thread (R292). -/
def execVredsumU (d : Fin 32) (a : Fin 32) (b : Fin 32) (m : Fin 8) (c : Bool) (s : State) : Res :=
  .next (controlV s (.vredsumU d a b m c) fun s c => vredsumUV d a b m s c)

/-- VREDMIN on the control thread (R292). -/
def execVredmin (d : Fin 32) (a : Fin 32) (b : Fin 32) (m : Fin 8) (c : Bool) (s : State) : Res :=
  .next (controlV s (.vredmin d a b m c) fun s c => vredminV d a b m s c)

/-- VREDMAX on the control thread (R292). -/
def execVredmax (d : Fin 32) (a : Fin 32) (b : Fin 32) (m : Fin 8) (c : Bool) (s : State) : Res :=
  .next (controlV s (.vredmax d a b m c) fun s c => vredmaxV d a b m s c)

/-- VREDAND on the control thread (R292). -/
def execVredand (d : Fin 32) (a : Fin 32) (b : Fin 32) (m : Fin 8) (c : Bool) (s : State) : Res :=
  .next (controlV s (.vredand d a b m c) fun s c => vredandV d a b m s c)

/-- VREDOR on the control thread (R292). -/
def execVredor (d : Fin 32) (a : Fin 32) (b : Fin 32) (m : Fin 8) (c : Bool) (s : State) : Res :=
  .next (controlV s (.vredor d a b m c) fun s c => vredorV d a b m s c)

/-- VREDXOR on the control thread (R292). -/
def execVredxor (d : Fin 32) (a : Fin 32) (b : Fin 32) (m : Fin 8) (c : Bool) (s : State) : Res :=
  .next (controlV s (.vredxor d a b m c) fun s c => vredxorV d a b m s c)

/-- VSCAN on the control thread (R293). -/
def execVscan (d : Fin 32) (a : Fin 32) (b : Fin 32) (m : Fin 8) (c : Bool) (s : State) : Res :=
  .next (controlV s (.vscan d a b m c) fun s c => vscanV d a b m s c)

end Sys2Proof.Machine
end

