-- ==== Sys2Proof/Machine/VecSfu.lean ====
section
/-!
DEFINITION. VSFU: the special functions, correctly rounded (R289, R290). A function's exact value is
bracketed by two fixed-point numbers, with more bits until both round alike in the destination's format;
the lower of the two then stands for the exact value, which is irrational wherever this is done.
-/

namespace Sys2Proof.Machine

/-! ### Fixed-point series: `p` fraction bits, natural numbers -/

/-- Σ 1 / ((2i + 1) k^(2i+1)), with alternating signs when `alt`, as (positive, negative) parts. -/
def atanSum (alt : Bool) (k2 : Nat) : Nat → Nat → Nat → Nat × Nat
  | 0, _, _ => (0, 0)
  | n + 1, i, t =>
    if t = 0 then (0, 0)
    else
      let (a, b) := atanSum alt k2 n (i + 1) (t / k2)
      if alt ∧ i % 2 = 1 then (a, b + t / (2 * i + 1)) else (a + t / (2 * i + 1), b)

/-- π. -/
def piFix (p : Nat) : Nat :=
  let q := p + 32
  let (a, b) := atanSum true 25 q 0 (2 ^ q / 5)
  let (c, d) := atanSum true 57121 q 0 (2 ^ q / 239)
  (16 * (a - b) - 4 * (c - d)) / 2 ^ 32

/-- ln 2. -/
def ln2Fix (p : Nat) : Nat :=
  let q := p + 32
  2 * (atanSum false 9 q 0 (2 ^ q / 3)).1 / 2 ^ 32

/-- Taylor terms t × r / (i + 1), t × r² / ((i+1)(i+2)), …: the sums of the terms by index modulo 4. -/
def taylor (p r : Nat) : Nat → Nat → Nat → Nat × Nat × Nat × Nat
  | 0, _, _ => (0, 0, 0, 0)
  | n + 1, i, t =>
    if t = 0 then (0, 0, 0, 0)
    else
      let (a, b, c, d) := taylor p r n (i + 1) (t * r / 2 ^ p / (i + 1))
      match i % 4 with
      | 0 => (a + t, b, c, d)
      | 1 => (a, b + t, c, d)
      | 2 => (a, b, c + t, d)
      | _ => (a, b, c, d + t)

/-- The Taylor terms of exp r. -/
def expTerms (p r : Nat) : Nat × Nat × Nat × Nat := taylor p r (4 * p + 64) 0 (2 ^ p)

def expFix (p r : Nat) : Nat :=
  let (a, b, c, d) := expTerms p r
  a + b + c + d

/-- ln m for m in [1, 2) given as n / d. -/
def lnFix (p n d : Nat) : Nat :=
  let t := (n - d) * 2 ^ p / (n + d)
  go (p + 8) 0 t (t * t / 2 ^ p) * 2
where
  go : Nat → Nat → Nat → Nat → Nat
    | 0, _, _, _ => 0
    | k + 1, i, t, t2 => if t = 0 then 0 else t / (2 * i + 1) + go k (i + 1) (t * t2 / 2 ^ p) t2

/-- n / d × 2^e in units of 2^−p, rounded down. -/
def toFix (p n d : Nat) (e : Int) : Nat := n * pow2 (e + p) / (d * pow2 (-(e + p)))

/-! ### The functions on magnitudes n / d × 2^e: a sign, an approximation in units of 2^−p and an exponent
to be added; the error is below 2^32 units -/

/-- 2^b for a magnitude that is no integer; beyond 2^16 the exponent is cut off, far outside every
format. -/
def exp2Fix (p : Nat) (neg : Bool) (n d : Nat) (e : Int) : Bool × Nat × Int :=
  let whole := toFix 0 n d e
  let big := min whole 65536
  let f := toFix p n d e - whole * 2 ^ p
  let y := expFix p (f * ln2Fix p / 2 ^ p)
  if neg then (false, 2 ^ (2 * p) / y, -(big : Int)) else (false, y, big)

/-- log2 of a positive value that is no power of two. -/
def log2Fix (p n d : Nat) (e : Int) : Bool × Nat × Int :=
  let l := log2Quot n d
  let y := lnFix p (n * pow2 (-l)) (d * pow2 l) * 2 ^ p / ln2Fix p
  let w : Int := (l + e) * (2 ^ p : Nat) + y
  (decide (w < 0), w.natAbs, 0)

/-- Sine or cosine. -/
def trigFix (p : Nat) (cosine : Bool) (neg : Bool) (n d : Nat) (e : Int) : Bool × Nat × Int :=
  let big := p + (log2Quot n d + e).toNat + 8
  let x := toFix big n d e
  let half := piFix big / 2
  let q := x / half
  let r := (x - q * half) / 2 ^ (big - p)
  let (t0, t1, t2, t3) := expTerms p r
  let sn : Int := (t1 : Int) - t3
  let cs : Int := (t0 : Int) - t2
  let v : Int := match (q + if cosine then 1 else 0) % 4 with
    | 0 => sn
    | 1 => cs
    | 2 => -sn
    | _ => -cs
  let v := if neg && !cosine then -v else v
  (decide (v < 0), v.natAbs, 0)

/-- Hyperbolic tangent: (1 − u) / (1 + u) with u = exp(−2 |b|). -/
def tanhFix (p : Nat) (neg : Bool) (n d : Nat) (e : Int) : Bool × Nat × Int :=
  if 64 < log2Quot n d + e then (neg, 2 ^ p, 0)
  else
    let z := toFix p n d (e + 1)
    let l2 := ln2Fix p
    let k := z / l2
    let u := if p + 8 < k then 0 else 2 ^ (2 * p) / expFix p (z - k * l2) / 2 ^ k
    (neg, (2 ^ p - u) * 2 ^ p / (2 ^ p + u), 0)

/-! ### Bracketing -/

/-- What a destination makes of a value: its pattern and flags (R289). [log 35 DESIGN CHOICE] -/
def sfuRound (tag fmode : Nat) (x : Ex) : Nat × Nat :=
  if isFloat tag then roundMode tag 0 (satOf fmode) fmode 0 x else roundInt tag 0 x

/-- The value between two bounds that round alike, trying the precisions of `ps` in turn. [log 35 DESIGN CHOICE] -/
def bracket (tag fmode : Nat) (f : Nat → Bool × Nat × Int) : List Nat → Ex
  | [] => .nan false
  | p :: ps =>
    let (s, v, x) := f (p + 48)
    let m := v / 2 ^ 40
    let at4 (k : Nat) : Ex := .num s k 1 (x - p - 10)
    let lo := at4 (4 * m - 5)
    let hi := at4 (4 * m + 5)
    if ps = [] ∨ sfuRound tag fmode lo = sfuRound tag fmode hi then
      (if m ≤ 1 then hi else lo)
    else bracket tag fmode f ps

/-- [log 35 DESIGN CHOICE] -/
def precisions : List Nat := [96, 256, 640, 1280, 2560, 5120, 10240]

/-- Square root of a positive rational, exact or with a last half unit for what is left (R289). -/
def sqrtEx (n d : Nat) (e : Int) : Ex :=
  let (n, e) := if e % 2 = 0 then (n, e) else (2 * n, e - 1)
  let a := n * d
  let r := Nat.sqrt a
  if r * r = a then .num false r d (e / 2)
  else .num false (2 * Nat.sqrt (a * 2 ^ 512) + 1) d (e / 2 - 257)

/-- The forms of VSFU. -/
inductive SfuOp where
  | rcp | rsqrt | sqrt | exp2 | log2 | sin | cos | tanh
  deriving DecidableEq, Repr

/-- A special function's exact value, or the value that stands for it in the destination's tag, and the
flags of its special operands (R290). [log 35 DESIGN CHOICE] -/
def sfuVal (op : SfuOp) (tag fmode : Nat) (x : Ex) : Ex × Nat :=
  let one : Ex := .num false 1 1 0
  let zero (s : Bool) : Ex := .num s 0 1 0
  let bad : Ex × Nat := (.nan false, fNV)
  match x with
  | .nan s => (.nan false, nvIf s)
  | .inf s =>
    match op with
    | .rcp => (zero s, 0)
    | .rsqrt => if s then bad else (zero false, 0)
    | .sqrt | .log2 => if s then bad else (.inf false, 0)
    | .exp2 => if s then (zero false, 0) else (.inf false, 0)
    | .sin | .cos => bad
    | .tanh => (.num s 1 1 0, 0)
  | .num s n d e =>
    if n = 0 then
      match op with
      | .rcp => (.inf s, fDZ)
      | .rsqrt => (.inf s, fDZ)
      | .log2 => (.inf true, fDZ)
      | .sqrt | .sin | .tanh => (zero s, 0)
      | .exp2 | .cos => (one, 0)
    else
      match op with
      | .rcp => (.num s d n (-e), 0)
      | .rsqrt => if s then bad else (sqrtEx d n (-e), 0)
      | .sqrt => if s then bad else (sqrtEx n d e, 0)
      | .exp2 =>
        let w := toFix 0 n d e
        if w * d * pow2 (-e) = n * pow2 e then
          let k : Int := min w 65536
          (.num false 1 1 (if s then -k else k), 0)
        else (bracket tag fmode (fun p => exp2Fix p s n d e) precisions, 0)
      | .log2 =>
        if s then bad
        else
          let l := log2Quot n d
          if n * pow2 (-l) = d * pow2 l then (Ex.ofInt (l + e), 0)
          else (bracket tag fmode (fun p => log2Fix p n d e) precisions, 0)
      | .sin => (bracket tag fmode (fun p => trigFix p false s n d e) precisions, 0)
      | .cos => (bracket tag fmode (fun p => trigFix p true s n d e) precisions, 0)
      | .tanh => (bracket tag fmode (fun p => tanhFix p s n d e) precisions, 0)

/-- fp64, fp32, fp16 and bf16 (R289). -/
def sfuTag (t : Nat) : Bool := decide (0x09 ≤ t) && decide (t ≤ 0x0C)

/-- A special-function form; `rne` says that it rounds to nearest even whatever FMODE.rm holds. -/
def sfuForm (op : SfuOp) (rne : Bool) (s : State) (c : VCtx) (d b m : Nat) : VOut :=
  sideCheck s false [b, d] [m] fun _ =>
  mxIndep s c [b, d] fun _ =>
  let t := tagOf s b
  if sfuTag t = false then tagFail s b
  else
    destK s c d t [b] fun dt =>
    let es := active s.g c m
    opsClean s c m [([b], es)] fun _ =>
    let rs := es.map (fun e => (e, sfuVal op (if isMx dt then 0x09 else dt) c.fmode (elemVal s c.fmode b e).ex))
    .done (writeVals s c d t (rs.map (fun r => (r.1, .flt r.2.1))) (rs.foldl (fun x r => x ||| r.2.2) 0)
      (if rne then some 0 else none))

def vrcpV (d b : Fin 32) (m : Fin 8) (s : State) (c : VCtx) : VOut := sfuForm .rcp false s c d b m

def vrsqrtV (d b : Fin 32) (m : Fin 8) (s : State) (c : VCtx) : VOut := sfuForm .rsqrt true s c d b m

def vsqrtV (d b : Fin 32) (m : Fin 8) (s : State) (c : VCtx) : VOut := sfuForm .sqrt false s c d b m

def vexp2V (d b : Fin 32) (m : Fin 8) (s : State) (c : VCtx) : VOut := sfuForm .exp2 true s c d b m

def vlog2V (d b : Fin 32) (m : Fin 8) (s : State) (c : VCtx) : VOut := sfuForm .log2 true s c d b m

def vsinV (d b : Fin 32) (m : Fin 8) (s : State) (c : VCtx) : VOut := sfuForm .sin true s c d b m

def vcosV (d b : Fin 32) (m : Fin 8) (s : State) (c : VCtx) : VOut := sfuForm .cos true s c d b m

def vtanhV (d b : Fin 32) (m : Fin 8) (s : State) (c : VCtx) : VOut := sfuForm .tanh true s c d b m

/-! ### On the control thread -/

/-- VRCP on the control thread (R289). -/
def execVrcp (d : Fin 32) (b : Fin 32) (m : Fin 8) (c : Bool) (s : State) : Res :=
  .next (controlV s (.vrcp d b m c) fun s c => vrcpV d b m s c)

/-- VRSQRT on the control thread (R289). -/
def execVrsqrt (d : Fin 32) (b : Fin 32) (m : Fin 8) (c : Bool) (s : State) : Res :=
  .next (controlV s (.vrsqrt d b m c) fun s c => vrsqrtV d b m s c)

/-- VSQRT on the control thread (R289). -/
def execVsqrt (d : Fin 32) (b : Fin 32) (m : Fin 8) (c : Bool) (s : State) : Res :=
  .next (controlV s (.vsqrt d b m c) fun s c => vsqrtV d b m s c)

/-- VEXP2 on the control thread (R289). -/
def execVexp2 (d : Fin 32) (b : Fin 32) (m : Fin 8) (c : Bool) (s : State) : Res :=
  .next (controlV s (.vexp2 d b m c) fun s c => vexp2V d b m s c)

/-- VLOG2 on the control thread (R289). -/
def execVlog2 (d : Fin 32) (b : Fin 32) (m : Fin 8) (c : Bool) (s : State) : Res :=
  .next (controlV s (.vlog2 d b m c) fun s c => vlog2V d b m s c)

/-- VSIN on the control thread (R289). -/
def execVsin (d : Fin 32) (b : Fin 32) (m : Fin 8) (c : Bool) (s : State) : Res :=
  .next (controlV s (.vsin d b m c) fun s c => vsinV d b m s c)

/-- VCOS on the control thread (R289). -/
def execVcos (d : Fin 32) (b : Fin 32) (m : Fin 8) (c : Bool) (s : State) : Res :=
  .next (controlV s (.vcos d b m c) fun s c => vcosV d b m s c)

/-- VTANH on the control thread (R289). -/
def execVtanh (d : Fin 32) (b : Fin 32) (m : Fin 8) (c : Bool) (s : State) : Res :=
  .next (controlV s (.vtanh d b m c) fun s c => vtanhV d b m s c)

end Sys2Proof.Machine
end

