-- ==== Sys2Proof/Machine/Body.lean ====
section
/-!
DEFINITION. The words of an AIB body as vector instructions over launched VPs or for one independent VP (R213,
R302, R305).
-/

namespace Sys2Proof.Machine

/-- A body word performed in a setting; none for the words that act on VPs themselves (tfetch, xqsend, xqrecv) and
for words that no body holds. -/
def bodyWord (i : Instr) (s : State) (c : VCtx) : Option VOut :=
  match i with
  | .vadd d a b m _ k => some (vaddV d a b m k s c)
  | .vsub d a b m _ k => some (vsubV d a b m k s c)
  | .vrsub d a b m _ k => some (vrsubV d a b m k s c)
  | .vmul d a b m _ k => some (vmulV d a b m k s c)
  | .vmulh d a b m _ k => some (vmulhV d a b m k s c)
  | .vdiv d a b m _ k => some (vdivV d a b m k s c)
  | .vrem d a b m _ k => some (vremV d a b m k s c)
  | .vmin d a b m _ k => some (vminV d a b m k s c)
  | .vmax d a b m _ k => some (vmaxV d a b m k s c)
  | .vfma d a b m _ k => some (vfmaV d a b m k s c)
  | .vfms d a b m _ k => some (vfmsV d a b m k s c)
  | .vfnma d a b m _ k => some (vfnmaV d a b m k s c)
  | .vsadd d a b m _ k => some (vsaddV d a b m k s c)
  | .vssub d a b m _ k => some (vssubV d a b m k s c)
  | .vabs d b m _ => some (vabsV d b m s c)
  | .vneg d b m _ => some (vnegV d b m s c)
  | .vabsd d a b m _ k => some (vabsdV d a b m k s c)
  | .vand d a b m _ k => some (vandV d a b m k s c)
  | .vor d a b m _ k => some (vorV d a b m k s c)
  | .vxor d a b m _ k => some (vxorV d a b m k s c)
  | .vandn d a b m _ k => some (vandnV d a b m k s c)
  | .vnot d b m _ => some (vnotV d b m s c)
  | .vsll d a b m _ k => some (vsllV d a b m k s c)
  | .vsrl d a b m _ k => some (vsrlV d a b m k s c)
  | .vsra d a b m _ k => some (vsraV d a b m k s c)
  | .vclz d b m _ => some (vclzV d b m s c)
  | .vpopc d b m _ => some (vpopcV d b m s c)
  | .vceq d a b m _ k => some (vceqV d a b m k s c)
  | .vcne d a b m _ k => some (vcneV d a b m k s c)
  | .vclt d a b m _ k => some (vcltV d a b m k s c)
  | .vcle d a b m _ k => some (vcleV d a b m k s c)
  | .vcgt d a b m _ k => some (vcgtV d a b m k s c)
  | .vcge d a b m _ k => some (vcgeV d a b m k s c)
  | .vcun d a b m _ k => some (vcunV d a b m k s c)
  | .vcvt d t b m _ => some (vcvtV d t b m s c)
  | .vcvtSat d t b m _ => some (vcvtSatV d t b m s c)
  | .vretag d t b m _ => some (vretagV d t b m s c)
  | .vmv d b m _ k => some (vmvV d b m k s c)
  | .vmvX d b _ => some (vmvXV d b s c)
  | .vrcp d b m _ => some (vrcpV d b m s c)
  | .vrsqrt d b m _ => some (vrsqrtV d b m s c)
  | .vsqrt d b m _ => some (vsqrtV d b m s c)
  | .vexp2 d b m _ => some (vexp2V d b m s c)
  | .vlog2 d b m _ => some (vlog2V d b m s c)
  | .vsin d b m _ => some (vsinV d b m s c)
  | .vcos d b m _ => some (vcosV d b m s c)
  | .vtanh d b m _ => some (vtanhV d b m s c)
  | .vidx d st m _ p => some (vidxV d st m p s c)
  | .mand d a b m _ => some (mandV d a b m s c)
  | .mor d a b m _ => some (morV d a b m s c)
  | .mxor d a b m _ => some (mxorV d a b m s c)
  | .mandn d a b m _ => some (mandnV d a b m s c)
  | .mnot d b m _ => some (mnotV d b m s c)
  | .mset d m _ => some (msetV d m s c)
  | .mclr d m _ => some (mclrV d m s c)
  | .vpid d m => some (vpidV d m s c)
  | .vld d a m _ p => some (vldV d a m p s c)
  | .vldS d a st m _ p => some (vldSV d a st m p s c)
  | .vldX d a ix m _ p e => some (vldXV d a ix m p e s c)
  | .vldC d a m _ p => some (vldCV d a m p s c)
  | .vldCs d a st m _ p => some (vldCsV d a st m p s c)
  | .vldCx d a ix m _ p e => some (vldCxV d a ix m p e s c)
  | .vst v a m _ p => some (vstV v a m p s c)
  | .vstS v a st m _ p => some (vstSV v a st m p s c)
  | .vstX v a ix m _ p e => some (vstXV v a ix m p e s c)
  | .vstU v a m _ p => some (vstUV v a m p s c)
  | .vstSu v a st m _ p => some (vstSuV v a st m p s c)
  | .vstXu v a ix m _ p e => some (vstXuV v a ix m p e s c)
  | .vamoSwap v st o a m _ => some (vamoSwapV v st o a m s c)
  | .vamoAdd v st o a m _ => some (vamoAddV v st o a m s c)
  | .vamoAnd v st o a m _ => some (vamoAndV v st o a m s c)
  | .vamoOr v st o a m _ => some (vamoOrV v st o a m s c)
  | .vamoXor v st o a m _ => some (vamoXorV v st o a m s c)
  | .vamoMin v st o a m _ => some (vamoMinV v st o a m s c)
  | .vamoMax v st o a m _ => some (vamoMaxV v st o a m s c)
  | .samo v a m _ => some (samoV v a m s c)
  | .samoO v a m _ => some (samoOV v a m s c)
  | .fldv d t u m => some (fldvV d t u m s c)
  | .fldvX d t u m => some (fldvXV d t u m s c)
  | .vffill v a m => some (vffillV v a m s c)
  | .hint _ => some (.done s)
  | _ => none

end Sys2Proof.Machine
end

