-- ==== Sys2Proof/Machine/Thr.lean ====
section
/-!
DEFINITION. VTHR: launching VPs, lockstep bodies, independent VPs, stopped VPs, vsync, and the cross-lane queues
(R117, R144 to R147, R157, R212 to R216, R301 to R312, R423).
-/

namespace Sys2Proof.Machine

/-! ### Fetching an AIB (R214) -/

/-- What the fetch of an AIB gives. -/
inductive AibRes where
  | ok (xq : Bool) (body : List Instr) (s : State)
  | fail (s : State) (cause : Nat) (val : Word)
  | wait (s : State)
  deriving DecidableEq, Repr

/-- The AIB at an address, its checks in the order of R214. [log 61 DEDUCED] -/
def fetchAib (s : State) (w : Who) (va : Nat) : AibRes :=
  let val := BitVec.ofNat 64 va
  if va % 4 ≠ 0 then .fail s cMisaligned val
  else
    match fetchWord s w va with
    | .fail s c v => .fail s c v
    | .wait s => .wait s
    | .word h s =>
      let len := h / 2 ^ 21 % 32
      if inExtent s.g (va + 4 * len) = false then .fail s cFetchBounds val
      else
        match fetchWords s w (va + 4) len with
        | (.error (.fail s c v), _) => .fail s c v
        | (.error (.wait s), _) => .wait s
        | (.error (.word _ s), _) => .fail s cFetchBounds val
        | (.ok ws, s) =>
          match decodeAib (h :: ws) with
          | .ok (xq, body) => .ok xq body s
          | .error n => .fail s cIllegal (BitVec.ofNat 64 (va + 4 * n))

/-! ### VPs -/

/-- The VPs that execute the body in lockstep, ascending. -/
def lockVps (g : Group) : List Nat := (g.vps.filter (fun v => v.st == .lockstep)).map Vp.idx

/-- A VP changed. -/
def updVp (s : State) (e : Nat) (f : Vp → Vp) : State :=
  { s with g := { s.g with vps := updFirst s.g.vps (fun v => v.idx == e) f } }

/-- A VP rejoins: its flags are ORed into FFLAGS (R157). -/
def rejoin (s : State) (e : Nat) : State :=
  let fl := ((s.g.vps.find? (fun v => v.idx == e)).map Vp.flags).getD 0
  { s with g := { s.g with
    vps := s.g.vps.filter (fun v => v.idx != e)
    vc := { s.g.vc with fflags := s.g.vc.fflags ||| fl } } }

/-- A VP stops with a cause of its own, its record written (R303, R307, R423, R440). [log 60 DEDUCED] -/
def stopVp (s : State) (e aib pos cause : Nat) (val : Word) (held : Bool) : State :=
  let s := updVp s e (fun v => { v with st := .stopped aib pos (some (cause, val)) held })
  recordG s 0x07 cause [e + (if held then 2 ^ 18 else 0), aib, pos, val.toNat]

/-- A VP held with a lower one (R303). -/
def holdVp (s : State) (e aib pos : Nat) : State :=
  updVp s e (fun v => { v with st := .stopped aib pos none true })

/-- A VP fetches the AIB at its target and becomes independent, or stops (R304); false while it waits for the
words. `indep` says that it is independent already (R85). -/
def vpFetch (s : State) (e aib pos t : Nat) (indep : Bool) : Bool × State :=
  match fetchAib s { whoG s with indep := indep } t with
  | .ok xq body s => (true, updVp s e (fun v => { v with st := .indep t xq body 0, target := none }))
  | .fail s c v => (true, stopVp s e aib pos c v false)
  | .wait s => (false, s)

/-! ### Words that act on VPs (R304, R309) -/

/-- tfetch: the active VPs record a target. -/
def tfetchV (b : Nat) (m : Nat) (k : Bool) (s : State) (c : VCtx) : VOut :=
  let put (s : State) (f : Nat → Word) : VOut :=
    .done ((active s.g c m).foldl (fun s e => updVp s e (fun v => { v with target := some (f e).toNat })) s)
  if k then maskClean s c m fun _ => scalarOp s c b fun w => put s (fun _ => w)
  else
    let t := (vregOf s.g b).tag
    if isInt t = false ∨ cw t ≠ 64 then .fail s cTag (regVal b) none false
    else
      capCheck s c [(b, t)] fun _ =>
      opsClean s c m [([b], active s.g c m)] fun _ => put s (fun e => BitVec.ofNat 64 (elemOf s b e))

/-- The VPs for which a queue word is active, over all that execute the body (R145). -/
def queueVps (s : State) (c : VCtx) (m : Nat) : List Nat :=
  match c.indep with
  | some e => [e]
  | none => active s.g { c with els := some (lockVps s.g) } m

/-- The VP, or none for the control thread, to which VP `e` sends (R145). -/
def sendTo (s : State) (c : VCtx) (m e : Nat) : Option Nat :=
  match c.indep with
  | some _ => if e + 1 = c.vl then none else some (e + 1)
  | none => (queueVps s c m).find? (fun x => decide (e < x))

/-- Share lane whose queue a VP's send enters (R144). -/
def laneOf (s : State) (e : Nat) : Nat := e % max 1 (sideLanes s s.g false)

/-- One entry appended to the queue that VP `e` sends into, while it holds fewer than four. -/
def xqPut (s : State) (e : Nat) (x : XqEntry) : Option State :=
  match x.dest with
  | none => if s.g.xqFrom.length < 4 then some { s with g := { s.g with xqFrom := s.g.xqFrom ++ [x] } } else none
  | some _ =>
    let l := laneOf s e
    if (s.g.xq.filter (fun y => y.1 == l)).length < 4 then some { s with g := { s.g with xq := s.g.xq ++ [(l, x)] } }
    else none

/-- The oldest entry for VP `e`: from the control thread's queue for the lowest active VP, or VP 0 when
independent; else the oldest addressed to it (R145, R310). [log 63 DEDUCED] -/
def xqTake (s : State) (c : VCtx) (m e : Nat) : Option (XqEntry × State) :=
  let lowest := match c.indep with
    | some _ => e == 0
    | none => (queueVps s c m).head? == some e
  match (if lowest then s.g.xqTo else []) with
  | x :: rest => some (x, { s with g := { s.g with xqTo := rest } })
  | [] =>
    match s.g.xq.find? (fun y => y.2.dest == some e) with
    | some y => some (y.2, { s with g := { s.g with xq := s.g.xq.erase y } })
    | none => none

/-- xqsend of a body: each active VP sends its element. -/
def xqsendV (a m : Nat) (s : State) (c : VCtx) : VOut :=
  let t := (vregOf s.g a).tag
  if t = 0 ∨ isMx t then .fail s cTag (regVal a) none false
  else
    capCheck s c [(a, t)] fun _ =>
    let es := active s.g c m
    opsClean s c m [([a], es)] fun _ =>
    match es.foldl (fun (r : Option State) e => r.bind (fun s =>
        xqPut s e ⟨(if isSigned t then BitVec.ofInt 64 (intVal t (elemOf s a e)) else BitVec.ofNat 64 (elemOf s a e)), t,
          sendTo s c m e⟩)) (some s) with
    | some s => .done s
    | none => .wait s

/-- xqrecv of a body: each active VP takes an entry; one of another tag is consumed and stops it. [log 63 DEDUCED] -/
def xqrecvV (d m : Nat) (s : State) (c : VCtx) : VOut :=
  let t := (vregOf s.g d).tag
  if t = 0 ∨ isMx t then .fail s cTag (regVal d) none false
  else
    capCheck s c [(d, t)] fun _ =>
    maskClean s c m fun _ =>
    go t (active s.g c m) s
where
  go (t : Nat) (es : List Nat) (s' : State) : VOut :=
    match es with
    | [] => .done s'
    | e :: rest =>
      match xqTake s' c m e with
      | none => .wait s
      | some (x, s') =>
        if x.tag ≠ t ∧ x.tag ≠ 0 then .fail s' cTag (regVal d) (some e) true
        else go t rest (writeElems s' c d t [(e, x.val.toNat % 2 ^ cw t, false)] [])

/-- Any word of a body. [log 62 DEDUCED] -/
def anyWord (i : Instr) (s : State) (c : VCtx) : VOut :=
  match i with
  | .tfetch b m k => tfetchV b m k s c
  | .xqsend a m => xqsendV a m s c
  | .xqrecv d m => xqrecvV d m s c
  | i => (bodyWord i s c).getD (.done s)

/-! ### Lockstep (R302, R303) -/

/-- The setting of a lockstep word. -/
def lockCtx (s : State) (els : List Nat) : VCtx := ⟨true, s.g.fSnap, s.g.vlSnap, 0, some els, none⟩

/-- What a lockstep word comes to. -/
inductive WordRes where
  | performed (s : State)
  /-- It fails at an element; it has been performed for the elements below. -/
  | stopAt (s : State) (e cause : Nat) (val : Word)
  /-- It fails as a whole. -/
  | whole (s : State) (cause : Nat) (val : Word)
  | wait (s : State)
  deriving DecidableEq, Repr

/-- A word performed for VPs, up to the lowest at which it fails (R303). [log 62 DEDUCED] -/
def runWord (s : State) (i : Instr) (els : List Nat) : Nat → WordRes
  | 0 => .wait s
  | f + 1 =>
    match anyWord i s (lockCtx s els) with
    | .done s' => .performed s'
    | .wait s' => .wait s'
    | .fail s' c v none _ => .whole s' c v
    | .fail s' c v (some n) true => .stopAt s' n c v
    | .fail _ c v (some n) false =>
      match els.filter (fun e => decide (e < n)) with
      | [] => .stopAt s n c v
      | below =>
        match runWord s i below f with
        | .performed s' => .stopAt s' n c v
        | r => r

/-- The lockstep VPs that satisfy `p` stop or are held: VP `n` with the cause, the others held at `pos`.
[log 62 DEDUCED] -/
def stopLock (s : State) (a : AibRun) (n cause : Nat) (val : Word) (from_ pos : Nat) : State :=
  let s := ((lockVps s.g).filter (fun e => e != n && decide (from_ ≤ e))).foldl (fun s e => holdVp s e a.addr pos) s
  stopVp s n a.addr a.pos cause val true

/-- The end of a body (R302, R304): VPs that recorded a target fetch it, the others rejoin. -/
def finishBody (s : State) (a : AibRun) : List Nat → State
  | [] => { s with g := { s.g with aib := none } }
  | e :: rest =>
    match (s.g.vps.find? (fun v => v.idx == e)).bind Vp.target with
    | none => finishBody (rejoin s e) a rest
    | some t =>
      match vpFetch s e a.addr a.pos t false with
      | (true, s) => finishBody s a rest
      | (false, s) => s

/-- The body ends once its last word has been performed and no vector wait is left. -/
def endIfDone (s : State) : State :=
  match s.g.aib with
  | none => s
  | some a =>
    let ls := lockVps s.g
    if ls = [] then dropConvoyLeave { s with g := { s.g with aib := none } } s.g.gid
    else if s.g.fldv.isSome then s
    else if a.xq then
      if a.pos < a.body.length && ls.contains a.turn then s
      else
        match ls.find? (fun e => decide (a.turn < e)) with
        | some e => { s with g := { s.g with aib := some { a with turn := e, pos := 0 } } }
        | none => finishBody s a ls
    else if a.pos < a.body.length then s else finishBody s a ls

/-- One word of the lockstep body. [log 62 DEDUCED] -/
def lockstepStep (s : State) : State :=
  match s.g.aib with
  | none => s
  | some a =>
    let waiting := match s.g.fldv with
      | some r => r.fail.isNone || !r.ended
      | none => false
    if waiting || s.g.abandoned then s
    else
      match a.body[a.pos]? with
      | none => endIfDone s
      | some i =>
        let ls := lockVps s.g
        let els := if a.xq then [a.turn] else ls
        let low := ls.headD 0
        let members := i :: (a.body.drop (a.pos + 1)).takeWhile joins
        let conflict := if convoyable i && !joins i then convoyConflict s.g members else none
        match conflict with
        | some k =>
          endIfDone (if a.xq then stopLock s a a.turn cConvoy (BitVec.ofNat 64 k) a.turn 0
            else stopLock s a low cConvoy (BitVec.ofNat 64 k) 0 a.pos)
        | none =>
          match (if convoyable i && !joins i then convoyLeave s members else none) with
          | some s => s
          | none =>
            match runWord s i els (els.length + 1) with
            | .wait s => s
            | .performed s =>
              let g := s.g
              let s := { s with g := { g with
                aib := some { a with pos := a.pos + 1 }
                toll := if convoyable i then g.toll + memberToll s (active g (lockCtx s els) (regsOf i).mask) (regsOf i) else g.toll } }
              let s := if members.length = 1 then dropConvoyLeave s s.g.gid else s
              endIfDone s
            | .stopAt s e c v =>
              let s := stopLock s a e c v e (if a.xq then 0 else a.pos)
              endIfDone (if a.xq then s else { s with g := { s.g with aib := some { a with pos := a.pos + 1 } } })
            | .whole s c v =>
              endIfDone (if a.xq then stopLock s a a.turn c v a.turn 0 else stopLock s a low c v 0 a.pos)

/-- AIB_WORD_LOCKSTEP (R302). -/
def execAibWordLockstep (s : State) : Res := onMsgGroup s lockstepStep

/-- The current group's body stands at this word. -/
def bodyAt (s : State) (i : Instr) : Bool :=
  match s.g.aib with
  | some a => a.body[a.pos]? == some i
  | none => false

/-- tfetch: a word of a body; on the control thread it is illegal (R215, R304). -/
def execTfetch (b : Fin 32) (m : Fin 8) (k : Bool) (s : State) : Res :=
  .next (if bodyAt s (.tfetch b m k) then lockstepStep s else trapIllegal s)

/-- xqsend of a body (R309); with a mask it is illegal on the control thread. -/
def execXqsend (a : Fin 32) (m : Fin 8) (s : State) : Res :=
  .next (if bodyAt s (.xqsend a m) then lockstepStep s else trapIllegal s)

/-- xqrecv of a body (R309); with a mask it is illegal on the control thread. -/
def execXqrecv (d : Fin 32) (m : Fin 8) (s : State) : Res :=
  .next (if bodyAt s (.xqrecv d m) then lockstepStep s else trapIllegal s)

/-! ### Independent VPs (R147, R305) -/

/-- The setting of an independent VP's word. -/
def vpCtx (s : State) (e : Nat) : VCtx := ⟨true, s.g.fSnap, s.g.vlSnap, 0, none, some e⟩

/-- One word of an independent VP; after the last it rejoins or fetches its target. One restored after a full save fetches
its AIB again first (R435). [log 60 DEDUCED] -/
def vpIssue (s : State) (v : Vp) : State :=
  match v.st with
  | .indep aib xq body pos =>
    match body[pos]? with
    | none =>
      match v.target with
      | none => rejoin s v.idx
      | some t => (vpFetch s v.idx aib pos t true).2
    | some i =>
      match anyWord i s (vpCtx s v.idx) with
      | .wait s => s
      | .fail s c x _ _ => stopVp s v.idx aib pos c x false
      | .done s =>
        let s := updVp s v.idx (fun v => { v with st := .indep aib xq body (pos + 1) })
        if pos + 1 < body.length then s
        else
          match (s.g.vps.find? (fun w => w.idx == v.idx)).bind Vp.target with
          | none => rejoin s v.idx
          | some t => (vpFetch s v.idx aib (pos + 1) t true).2
  | .away aib pos =>
    match fetchAib s { whoG s with indep := true } aib with
    | .ok xq body s => updVp s v.idx (fun v => { v with st := .indep aib xq body pos })
    | .fail s c x => stopVp s v.idx aib pos c x false
    | .wait s => s
  | _ => s

/-- A VP waits for the words at its target, or for those of its AIB after a full save (R304, R435, R478). -/
def vpFetching (g : Group) : Bool :=
  g.vps.any (fun v => match v.st with
    | .indep _ _ body pos => v.target.isSome && decide (body.length ≤ pos)
    | .away _ _ => true
    | .lockstep => v.target.isSome && (g.aib.map (fun a => decide (a.body.length ≤ a.pos))).getD false
    | .stopped _ _ _ _ => false)

/-- The VP is ready: independent, with a next word that waits for nothing (R147). -/
def vpReady (s : State) (v : Vp) : Bool :=
  match v.st with
  | .indep _ _ body pos =>
    match body[pos]? with
    | none => true
    | some i => match anyWord i s (vpCtx s v.idx) with
      | .wait _ => false
      | _ => true
  | .away _ _ => true
  | _ => false

/-- The VP that a share lane serves next: the first ready one above the one it last served, wrapping (R147). -/
def nextVp (s : State) (lane : Nat) : Option Vp :=
  let vs := s.g.vps.filter (fun v => laneOf s v.idx == lane && vpReady s v)
  match s.g.vpServed.find? (fun x => x.1 == lane) with
  | some (_, last) => (vs.find? (fun v => decide (last < v.idx))) <|> vs.head?
  | none => vs.head?

/-- VP_ISSUE (R147): the message's VP performs its next word, when it is its lane's turn. -/
def execVpIssue (s : State) : Res :=
  onMsgGroup s fun s =>
    let lane := laneOf s s.msg.vp
    match nextVp s lane with
    | some v =>
      if v.idx = s.msg.vp then vpIssue { s with g := { s.g with vpServed := tabPut s.g.vpServed lane v.idx } } v else s
    | none => s

/-! ### vfetch (R301) -/

/-- The lowest register that a body names and that is bound, in the order of the words. -/
def boundInBody (s : State) (body : List Instr) : Option Nat :=
  if s.g.binds = [] then none
  else (body.flatMap (fun i => (regsOf i).dst ++ (regsOf i).src)).find? (fun r => (boundTo s.g r).isSome)

/-- vfetch at the head of the vector queue: `len` is added to SPCOUNT, less the one that every instruction adds.
[log 61 DEDUCED] -/
def vfetchV (va m : Nat) (s : State) : VOut :=
  match fetchAib s (whoG s) va with
  | .fail s c v => .fail s c v none false
  | .wait s => .wait { s with g := { s.g with external := true } }
  | .ok xq body s =>
    let len := body.length
    if !s.g.tr.lev && decide (s.g.splimit < s.g.spcount + len) then
      .fail s cSpDistance (BitVec.ofNat 64 s.g.spcount) none false
    else if isSplit s s.g then .fail s cStream 0 none false
    else
      match boundInBody s body with
      | some r => .fail s cStream (regVal r) none false
      | none =>
        maskClean s (ctxG s) m fun _ =>
        let es := active s.g (ctxG s) m
        let g := s.g
        .done { s with g := { g with
          vps := es.map (fun e => ⟨e, .lockstep, none, 0⟩)
          aib := match es with
            | [] => none
            | e :: _ => some ⟨va, xq, body, 0, e⟩
          hSnap := g.h
          hSnapPoison := g.hPoison
          fSnap := g.vc.fmode
          vlSnap := g.vc.vl
          relFence := false
          vc := { g.vc with vstart := 0 }
          spcount := if g.tr.lev then g.spcount else g.spcount + len - 1 } }

/-- vfetch (R301). [log 61 DEDUCED] -/
def execVfetch (b : Fin 32) (m : Fin 8) (s : State) : Res :=
  .next (readingX s [b] fun s => controlQ s (vfetchV (getX s b).toNat m))

/-! ### vsync (R307, R423) -/

/-- Every earlier vector instruction has completed and every VP has rejoined or stopped. -/
def vpsSettled (s : State) : Bool :=
  s.g.aib.isNone && s.g.fldv.isNone && decide (s.g.appends = []) && decide (s.g.vq = [])
    && s.g.vps.all (fun v => match v.st with
      | .stopped _ _ _ _ => true
      | _ => false)

/-- The trap for stopped VPs: the lowest that carries a cause is reported by its index, and every stopped VP is
released (R307, R423). -/
def stoppedTrap (s : State) : State :=
  let causes := s.g.vps.filterMap (fun v => match v.st with
    | .stopped _ _ (some c) _ => some (v.idx, c.1)
    | _ => none)
  let (e, c) := (causes.find? (fun p => causes.all (fun q => decide (p.1 ≤ q.1)))).getD (0, cTag)
  let s := (s.g.vps.map Vp.idx).foldl rejoin s
  trap s c (BitVec.ofNat 64 e)

/-- The accesses of VPs that have rejoined are ordered before those that the group issues later (R180). -/
def vpsOrdered (s : State) : State :=
  orderStreams s (fun st => match st with
    | .vp _ => true
    | _ => false)

/-- vsync (R307). -/
def execVsync (s : State) : Res :=
  .next (if vpsSettled s = false then waitHere s
    else
      let s := vpsOrdered s
      if s.g.vps = [] then retire s else stoppedTrap s)

/-! ### The control thread's queues (R310) -/

/-- xqsend of the control thread. [log 63 DEDUCED] -/
def execXqsendCt (a : Fin 32) (s : State) : Res :=
  .next (readingX s [a] fun s =>
    if 4 ≤ s.g.xqTo.length then waitHere s
    else retire { s with g := { s.g with xqTo := s.g.xqTo ++ [⟨getX s a, 0, none⟩] } })

/-- xqrecv of the control thread. [log 63 DEDUCED] -/
def execXqrecvCt (d : Fin 32) (s : State) : Res :=
  .next (match s.g.xqFrom with
    | [] => waitHere s
    | x :: rest => retire (setX { s with g := { s.g with xqFrom := rest } } d x.val))

end Sys2Proof.Machine
end

