-- ==== Sys2Proof/Machine/Sync.lean ====
section
/-!
DEFINITION. SYNC: barriers and membership, the Crier, strip tasks (R344 to R357); and the steps of barriers and
posts.
-/

namespace Sys2Proof.Machine

/-! ### Barriers at their homes (R346) -/

/-- A phase completes when every member has arrived. -/
def Barrier.settle (b : Barrier) : Barrier :=
  if 0 < b.memb ∧ b.arr = b.memb then { b with arr := 0, gen := (b.gen + 1) % 2 ^ 32, p := !b.p, marks := [] } else b

/-- An arrival, with its mark in a cluster barrier. -/
def Barrier.arrive (b : Barrier) (mark : Option Nat) : Barrier :=
  { b with arr := b.arr + 1, marks := match mark with
    | some m => setAdd b.marks m
    | none => b.marks }.settle

/-- A member leaves; its arrival is withdrawn with its mark (R352). [log 65 DEDUCED] -/
def Barrier.leave (b : Barrier) (m : Nat) : Barrier :=
  let b := if b.marks.contains m then { b with arr := b.arr - 1, marks := setDel b.marks m } else b
  { b with memb := b.memb - 1 }.settle

/-- A member joins at the current phase (R351). -/
def Barrier.join (b : Barrier) : Barrier := { b with memb := b.memb + 1 }

/-- A team changed. -/
def updTeam (s : State) (core num : Nat) (f : Team → Team) : State :=
  { s with teams := updFirst s.teams (fun t => t.core == core && t.num == num && !t.exited) f }

/-- The cluster of a team. -/
def clusterOf (s : State) (t : Team) : Option Cluster :=
  s.clusters.find? (fun c => c.launch == t.launch && c.idx == t.cluster)

/-- A team's cluster changed; a `cwait` of the cluster that waits has seen the phase bit change (R348).
[log 80 DEDUCED] -/
def updCluster (s : State) (t : Team) (f : Cluster → Cluster) : State :=
  let s := { s with clusters := updFirst s.clusters (fun c => c.launch == t.launch && c.idx == t.cluster) f }
  match clusterOf s t with
  | none => s
  | some c =>
    let seen (g : Group) : Group :=
      match g.waits.cwait with
      | some (b, p) =>
        if ((c.bars.toList[b]?).map (fun x => b2n x.p)) = some p then g
        else { g with waits := { g.waits with cwait := some (b, 2) } }
      | none => g
    updGroups s (fun g => !g.pl.det && g.launch == t.launch
      && (s.teams.any (fun u => u.core == g.pl.core && u.num == g.pl.team && !u.exited && u.cluster == t.cluster))) seen

/-- Barrier `b` of a team or of a cluster changed. -/
def updBar (s : State) (t : Team) (cluster : Bool) (b : Nat) (f : Barrier → Barrier) : State :=
  if cluster then
    updCluster s t (fun c => { c with bars := c.bars.setIfInBounds b (f (c.bars.toList.getD b ⟨0, 0, 0, false, []⟩)) })
  else
    updTeam s t.core t.num (fun t => { t with bars := t.bars.setIfInBounds b (f (t.bars.toList.getD b ⟨0, 0, 0, false, []⟩)) })

/-- Barrier `b` of a team, or of its cluster. -/
def barOf (s : State) (t : Team) (cluster : Bool) (b : Nat) : Barrier :=
  (if cluster then ((clusterOf s t).map (fun c => c.bars.toList)).getD [] else t.bars.toList).getD b ⟨0, 0, 0, false, []⟩

/-! ### Leaving a team (R48, R92, R109, R352) -/

/-- A cluster whose teams have all exited: its partitions and its barriers end (R92). -/
def endCluster (s : State) (t : Team) : State :=
  let mine (u : Team) : Bool := u.launch == t.launch && u.cluster == t.cluster
  if s.teams.all (fun u => !mine u || u.exited) then
    { s with
      teams := s.teams.filter (fun u => !mine u)
      clusters := s.clusters.filter (fun c => !(c.launch == t.launch && c.idx == t.cluster)) }
  else s

/-- A team that holds no group exits: its declarations are closed, and its cluster's with the last team.
[log 48 DEDUCED] -/
def exitTeam (s : State) (t : Team) : State :=
  let s := beginClose s (teamScope t.core t.num) t.launch t.asid none [t.core]
  let s := updTeam s t.core t.num (fun t => { t with exited := true })
  match clusterOf s t with
  | none => s
  | some c =>
    if s.teams.all (fun u => !(u.launch == t.launch && u.cluster == t.cluster) || u.exited) then
      let cores := (List.range (c.rows * c.cols)).map (fun j => c.origin + j / c.cols * 8 + j % c.cols)
      endCluster (beginClose s (clusterScope c.origin) t.launch t.asid none cores) t
    else s

/-- The current group leaves its team: it is withdrawn from every barrier, and the team exits with its last
group (R352). [log 65 DEDUCED] -/
def leaveTeam (s : State) : State :=
  match teamOf s s.g with
  | none => s
  | some t =>
    let me := s.g.gid
    let s := updTeam s t.core t.num (fun t =>
      { t with members := t.members.filter (· != me), bars := t.bars.map (fun b => b.leave me) })
    let s := updCluster s t (fun c => { c with bars := c.bars.map (fun b => b.leave me) })
    if (t.members.filter (· != me)) = [] then exitTeam s t else s

/-- The place of a group that belongs to no team (R350): GIX is the one it last held. -/
def Place.detached (p : Place) : Place :=
  { p with det := true, team := 0, spBase := 0, spSize := 0, origin := 0, rows := 1, cols := 1, teamix := 0 }

/-! ### tbar, carrive, cwait (R347, R348) -/

/-- `k` on the operand when it is below `n` (R345). -/
def ranged (s : State) (v : Word) (n : Nat) (k : Nat → State) : State :=
  if v.toNat < n then k v.toNat else trap s cIllegal v

/-- `k` on the group's team, or BARRIER_MEMBERSHIP with TVAL `v`. -/
def inTeam (s : State) (v : Word) (k : Team → State) : State :=
  match teamOf s s.g with
  | some t => k t
  | none => trap s cBarrier v

/-- tbar (R347): its arrival is made once, whatever traps stand between it and its return (R345). [log 21 DEDUCED] -/
def execTbar (d a : Fin 32) (s : State) : Res :=
  .next (readingX s [a] fun s =>
    ranged s (getX s a) 16 fun b =>
    inTeam s (getX s a) fun t =>
      let others := s.g.arrived.filter (fun r => r.pc != s.g.pc)
      match s.g.arrived.find? (fun r => r.pc == s.g.pc && r.barrier == b) with
      | some r =>
        if (barOf s t false b).gen = r.gen then waitHere s
        else retire (setX (acquired { s with g := { s.g with arrived := others } }) d (BitVec.ofNat 64 r.gen))
      | none =>
        released s (some 2) fun s =>
        let x := barOf s t false b
        let gen := x.gen
        let s := updBar s t false b (fun x => x.arrive none)
        if (x.arrive none).gen = gen then
          waitHere { s with g := { s.g with arrived := others ++ [⟨s.g.pc, b, gen, d⟩] } }
        else retire (setX (acquired { s with g := { s.g with arrived := others } }) d (BitVec.ofNat 64 gen)))

/-- carrive (R348): a second arrival waits for the first phase. -/
def execCarrive (d a : Fin 32) (s : State) : Res :=
  .next (readingX s [a] fun s =>
    ranged s (getX s a) 8 fun b =>
    inTeam s (getX s a) fun t =>
      released s (some 3) fun s =>
      let x := barOf s t true b
      if x.marks.contains s.g.gid then waitHere s
      else
        let s := updBar s t true b (fun x => x.arrive (some s.g.gid))
        retire (setX s d (BitVec.ofNat 64 (b2n x.p))))

/-- cwait (R348). [log 80 DEDUCED] -/
def execCwait (a b : Fin 32) (s : State) : Res :=
  .next (readingX s [a, b] fun s =>
    ranged s (getX s a) 8 fun n =>
    ranged s (getX s b) 2 fun p =>
    inTeam s (getX s a) fun t =>
      if b2n (barOf s t true n).p ≠ p ∨ s.g.waits.cwait = some (n, 2) then retire (acquired s)
      else waitHere { s with g := { s.g with waits := { s.g.waits with cwait := some (n, p) } } })

/-! ### tattach, tdetach (R351, R352) -/

/-- Every engine operation of the group has completed. -/
def enginesIdle (s : State) : Bool :=
  !(s.eng.xfers.any (fun x => x.gid == s.g.gid && x.phase != .done)) && !(s.eng.mats.any (fun o => o.gid == s.g.gid))

/-- The lowest register that the group has bound. -/
def lowestBound (s : State) : Option Nat := (s.g.binds.map Binding.reg).min?

/-- GIX of a member of a team, resident or saved. -/
def memberGix (s : State) (gid : Nat) : Option Nat :=
  match findGroup s gid with
  | some g => some g.pl.gix
  | none => (s.saved.find? (fun v => v.group.gid == gid)).map (fun v => v.group.pl.gix)

/-- The lowest group number free in a team. -/
def freeGix (s : State) (t : Team) : Nat :=
  let used := t.members.filterMap (memberGix s)
  ((List.range 16).find? (fun i => !used.contains i)).getD 0

/-- tattach (R351). [log 78 DEDUCED] -/
def execTattach (d a : Fin 32) (s : State) : Res :=
  .next (readingX s [a] fun s =>
    ranged s (getX s a) 4096 fun code =>
    if queueHeld s || !enginesIdle s then waitHere s
    else
      match lowestBound s with
      | some r => trap s cStream (regVal r)
      | none =>
        match (if s.g.pl.det && code / 16 == s.g.pl.core then
            s.teams.find? (fun t => t.core == code / 16 && t.num == code % 16 && !t.exited && t.asid == s.g.asid
              && decide (t.members.length < 16)) else none) with
        | none => trap s cBarrier (getX s a)
        | some t =>
          let gix := freeGix s t
          let me := s.g.gid
          let s := updTeam s t.core t.num (fun t => { t with members := t.members ++ [me], bars := t.bars.map Barrier.join })
          let s := updCluster s t (fun c => { c with bars := c.bars.map Barrier.join })
          let c := (clusterOf s t).getD ⟨0, 0, t.core, 1, 1, Vector.replicate 8 ⟨0, 0, 0, false, []⟩⟩
          let ph := (List.range 8).foldl (fun acc k => acc + b2n (c.bars.toList.getD k ⟨0, 0, 0, false, []⟩).p * 2 ^ k) 0
          let pl := { s.g.pl with
            det := false, gix := gix, team := t.num, spBase := t.spBase, spSize := t.spSize
            origin := c.origin, rows := c.rows, cols := c.cols, teamix := t.teamix }
          retire (setX { s with g := { s.g with pl := pl } } d (BitVec.ofNat 64 (gix + ph * 2 ^ 8))))

/-- tdetach (R352). [log 78 DEDUCED] -/
def execTdetach (s : State) : Res :=
  .next (if queueHeld s || !enginesIdle s then waitHere s
    else
      match lowestBound s with
      | some r => trap s cStream (regVal r)
      | none =>
        inTeam s 0 fun _ =>
          let s := leaveTeam s
          retire { s with g := { s.g with pl := s.g.pl.detached } })

/-! ### The Crier (R353) -/

/-- `k` on die and channel when the name is in range and the channel is granted to the group's launch. -/
def granted (s : State) (v : Word) (k : Channel → State) : State :=
  ranged s v 128 fun n =>
    match s.channels.find? (fun c => c.die == n / 16 && c.ch == n % 16 && c.launch == s.g.launch) with
    | some c => k c
    | none => trap s cBarrier v

/-- ipost (R353): a release; the post is on its way when it retires. -/
def execIpost (a b : Fin 32) (s : State) : Res :=
  .next (readingX s [a, b] fun s =>
    granted s (getX s a) fun c => released s (some 4) fun s => retire { s with posts := s.posts ++ [(c.die, c.ch, getX s b)] })

/-- iwait (R353). -/
def execIwait (d a b : Fin 32) (s : State) : Res :=
  .next (readingX s [a, b] fun s =>
    granted s (getX s a) fun c =>
      if (getX s b).toNat ≤ c.count.toNat then retire (setX (acquired s) d c.count) else waitHere s)

/-- CRIER_POST_ARRIVAL (R353): a post in flight reaches its channel. -/
def execCrierPostArrival (s : State) : Res :=
  match takeNth s.posts s.msg.idx with
  | none => .fault .noSuchUnit
  | some ((die, ch, n), rest) =>
    .next { s with
      posts := rest
      channels := updFirst s.channels (fun c => c.die == die && c.ch == ch)
        (fun c => { c with count := if c.count.toNat < n.toNat then n else c.count }) }

/-! ### Strip tasks (R354 to R357) -/

/-- sgrab (R355): one read-modify-write at the record's home. [log 79 DEDUCED] -/
def execSgrab (d a : Fin 32) (s : State) : Res :=
  .next (readingX s [a] fun s =>
    let ea := getX s a
    match checkLoc s (whoG s) kReadWrite (.va ea.toNat) 64 64 with
    | (.error f, s) => trap (failRecord s (whoG s) kReadWrite f) f.cause (BitVec.ofNat 64 f.val)
    | (.ok (.sp _ _), s) => s
    | (.ok (.pa pa), s) =>
      released s (some 4) fun s =>
      let (r, bad, s) := busRead s (whoG s).exact pa 64
      if bad then trap s cPoison ea
      else
        let w (i : Nat) : Nat := r / 2 ^ (64 * i) % 2 ^ 64
        let remain := w 0 % 2 ^ 40
        let first := w 1 % 2 ^ 40
        let k := if remain = 0 then 0 else min s.g.vc.vl remain
        let left := remain - k
        let w0 := w 0 / 2 ^ 40 * 2 ^ 40 + left
        let w1 := w 1 / 2 ^ 40 * 2 ^ 40 + (first + k) % 2 ^ 40
        let s := busWrite s (whoG s) pa 16 (w0 + w1 * 2 ^ 64)
        let stride (i : Nat) : Int := toS (w (6 + i / 2) / 2 ^ (32 * (i % 2))) 32
        let s := setX (acquired s) d (BitVec.ofNat 64 (k + if left = 0 then 2 ^ 63 else 0))
        retire ((List.range 4).foldl (fun s i =>
          setX s (d + 1 + i) (BitVec.ofInt 64 ((w (2 + i) : Nat) + (first : Nat) * stride i))) s))

/-- Groups started for each spawned task (R398). -/
def Launch.spawnGrp (l : Launch) : Nat := bits (l.words.toList.getD 10 0).toNat 19 16

/-- The record's address placed on the launch's list, once there is room (R357, R405). [log 79 DEDUCED] -/
def spawnList (s : State) (a : Word) : State :=
  match findLaunch s s.g.launch with
  | none => retire s
  | some l =>
    if l.spawnGrp = 0 then retire s
    else if l.tasks.length < 256 then retire (updLaunch s l.id (fun l => { l with tasks := l.tasks ++ [a] }))
    else waitHere { s with g := { s.g with waits := { s.g.waits with sspawn := true } } }

/-- sspawn (R357). [log 79 DEDUCED] -/
def execSspawn (a b : Fin 32) (s : State) : Res :=
  .next (readingX s [a, b] fun s =>
    let rec_ := getX s a
    let tpl := getX s b
    if s.g.waits.sspawn then spawnList s rec_
    else if rec_.toNat % 64 ≠ 0 then trap s cMisaligned rec_
    else
      match checkLoc s (whoG s) kRead (.va tpl.toNat) 64 64 with
      | (.error f, s) => trap (failRecord s (whoG s) kRead f) f.cause (BitVec.ofNat 64 f.val)
      | (.ok src, s) =>
        match checkLoc s (whoG s) kWrite (.va rec_.toNat) 64 64 with
        | (.error f, s) => trap (failRecord s (whoG s) kWrite f) f.cause (BitVec.ofNat 64 f.val)
        | (.ok dst, s) =>
          released s (some 4) fun s =>
          let (v, bad, s) := plRead s (whoG s) src 64
          if bad then trap s cPoison tpl else spawnList (plWrite s (whoG s) dst 64 v) rec_)

/-! ### Steps at barriers -/

/-- BARRIER_ARRIVAL (R346, R347, R348): the arrival of the message's member is performed at the home of its team's
barrier, or of its cluster's; a member that has arrived at the phase waits. -/
def execBarrierArrival (s : State) : Res :=
  let m := s.msg
  match (findGroup s m.member).bind (teamOf s) with
  | none => .fault .noSuchUnit
  | some t =>
    .next (if (if m.cluster then 8 else 16) ≤ m.barrier then s
      else if m.cluster && (barOf s t true m.barrier).marks.contains m.member then s
      else updBar s t m.cluster m.barrier (fun x => x.arrive (if m.cluster then some m.member else none)))

/-- The current group's tbar or cwait that stands at its pc can return. -/
def barrierReady (s : State) (g : Group) : Bool :=
  match teamOf s g with
  | none => false
  | some t =>
    g.arrived.any (fun r => r.pc == g.pc && (barOf s t false r.barrier).gen != r.gen)
    || (match g.waits.cwait with
      | some (b, p) => p == 2 || b2n (barOf s t true b).p != p
      | none => false)

/-- BARRIER_RETURN (R347 to R349): a completed phase reaches the message's group, whose tbar or cwait returns. -/
def execBarrierReturn (s : State) : Res :=
  onMsgGroup s fun s =>
    if barrierReady s s.g && s.g.halt.isNone && s.g.saving.isNone then
      match s.g.waits.cwait, s.g.arrived.find? (fun r => r.pc == s.g.pc) with
      | some _, _ => retire (acquired s)
      | none, some r =>
        retire (setX (acquired { s with g := { s.g with arrived := s.g.arrived.filter (fun r => r.pc != s.g.pc) } }) r.rd
          (BitVec.ofNat 64 r.gen))
      | none, none => s
    else s

end Sys2Proof.Machine
end

