-- ==== Sys2Proof/Machine/System.lean ====
section
/-!
DEFINITION. SYSTEM: trap, tret, gexit, yield, spt, hints, and the word that is no instruction
(R208, R217, R358, R359, R363 to R366).
-/

namespace Sys2Proof.Machine

/-- trap (R363): SOFTWARE_TRAP with the code; the word is not counted. -/
def execTrap (c : Fin 4096) (s : State) : Res := .next (trap s cSoftware (BitVec.ofNat 64 c))

/-- tret (R364): only at steward level. [log 21 DEDUCED] -/
def execTret (s : State) : Res := .next (if s.g.tr.lev then trapReturn s else trapIllegal s)

/-- yield (R366): it retires, and the group is passed over for other groups of its core (R407). -/
def execYield (s : State) : Res :=
  .next (retire { s with passed := s.passed.filter (fun p => p.1 != s.g.gid) ++ [(s.g.gid, [], s.cycle + 16)] })

/-- A hint retires and does nothing (R208). -/
def execHint (_h : Fin 67108864) (s : State) : Res := .next (retire s)

/-- A word that is no instruction (R217). -/
def execIllegalInstruction (s : State) : Res := .next (trapIllegal s)

/-! ### spt (R358, R361, R403) -/

/-- Fields of the start record (R398). -/
def Launch.secMin (l : Launch) : Nat := bits (l.words.toList.getD 7 0).toNat 7 4
def Launch.secMax (l : Launch) : Nat := bits (l.words.toList.getD 7 0).toNat 3 0
def Launch.vlCeil (l : Launch) : Nat := bits (l.words.toList.getD 8 0).toNat 18 0

/-- The safe-point table's base and entry count, as the launch took them (R398, R476). -/
def sptOf (s : State) : Word × Nat :=
  match myLaunch s with
  | some l => (l.image.sptBase, l.image.sptCount)
  | none => (0, 0)

/-- A reservation stands that covers the core (R402). -/
def reservedCore (s : State) (core : Nat) : Bool :=
  s.launches.any (fun l => match l.reserved with
    | some corner =>
      let rows := bits (l.words.toList.getD 7 0).toNat 39 36
      let cols := bits (l.words.toList.getD 7 0).toNat 35 32
      decide (corner / 8 ≤ core / 8) && decide (core / 8 < corner / 8 + rows)
        && decide (corner % 8 ≤ core % 8) && decide (core % 8 < corner % 8 + cols)
    | none => false)

/-- Free sections of a core below LANEMOD, ascending (R134). -/
def freeSections (k : Core) : List Nat :=
  (List.range (k.lanemod / 8)).filter (fun i => (k.lanepart.toList.getD i none).isNone)

/-- Sections that the Reeve of a core may grant: the free ones, but for those that the retirement of a lane waits to
change (R134, R136). -/
def grantable (s : State) (core : Nat) : List Nat :=
  let k := coreOf s core
  (freeSections k).filter (fun i => !s.io.repairs.any (fun u => match u with
    | .lane c p => c == core && (affectedSections k p).contains i
    | _ => false))

/-- Sections that the Reeve gives a group at a safe point, by the third row of R403. [log 100 DEDUCED] -/
def growth (s : State) : List Nat :=
  match myLaunch s with
  | none => []
  | some l =>
    let core := s.g.pl.core
    let own := ownedSections s s.g
    if s.g.pl.slot = 15 ∨ reservedCore s core ∨ l.secMax ≤ own.length ∨ l.vlCeil ≤ s.g.vc.vlmax then []
    else
      let need := if s.g.portable then none else (List.range 9).find? (fun n => decide (l.vlCeil ≤ vlmaxOf (8 * n) s.g.vc.vgg s.g.vc.vgw))
      let want := min l.secMax (need.getD 8)
      (grantable s core).take (want - own.length)

/-- spt (R358): SPCOUNT becomes 0 and it retires; at task level a pending request, or the Reeve, may take the safe
point then (R361, R403, R426). [log 113 DEDUCED] -/
def execSpt (i : Fin 131072) (s : State) : Res :=
  .next (if (sptOf s).2 ≤ i then trap s cIllegal (BitVec.ofNat 64 i)
    else
      let pc := s.g.pc
      let s := retire s
      let s := { s with g := { s.g with spcount := 0 } }
      let stands := !s.g.tr.lev && s.g.vps.all (fun v => v.st == .lockstep)
      if stands && (s.g.request.isSome || decide (growth s ≠ [])) then
        { s with g := { s.g with atSpt := some (i.val, pc) } }
      else s)

/-! ### gexit (R365) -/

/-- No vector instruction of the group waits in its queue for an engine, a future or room in a strip queue.
[log 113 DEDUCED] -/
def queueDrained (s : State) : Bool :=
  s.g.aib.isNone && s.g.fldv.isNone && decide (s.g.appends = []) && decide (s.g.vq = [])
    && !(s.eng.mats.any (fun o => o.gid == s.g.gid && o.phase != .running))
    && !(s.eng.xfers.any (fun o => o.gid == s.g.gid && (o.phase == .entry || o.phase == .leave || o.phase == .place)))

/-- Every VP has rejoined or stopped. [log 113 DEDUCED] -/
def vpsQuiet (g : Group) : Bool :=
  g.vps.all (fun v => match v.st with
    | .stopped _ _ _ _ => true
    | _ => false)

/-- The group's sections returned to the Reeve (R129, R134). -/
def returnSections (s : State) : State :=
  let k := coreOf s s.g.pl.core
  setCore s s.g.pl.core { k with lanepart := k.lanepart.map (fun o => if o == some s.g.pl.slot then none else o) }

/-- What the engines, the ports and the queues still hold of the current group is discarded, and its slot is free. -/
def freeGroup (s : State) : State :=
  let me := s.g.gid
  let s := dropLeaves s (fun l => l.gid == me)
  let s := returnSections s
  slotFreed { s with
    eng := { s.eng with
      xfers := s.eng.xfers.filter (fun x => x.gid != me)
      mats := s.eng.mats.filter (fun o => o.gid != me)
      regions := s.eng.regions.filter (fun r => r.gid != me)
      strips := s.eng.strips.filter (fun q => q.owner != me) }
    futs := s.futs.filter (fun f => waiterGid f.who != some me)
    g := { s.g with live := false, vps := [], aib := none, xq := [], xqTo := [], xqFrom := [], binds := [], appends := []
                    fed := [], arrived := [], waits := Waits.none, fldv := none, vq := [], spill := [] }
    stalled := false }

/-- A group of the launch has ended (R365, R406, R422). -/
def countExit (s : State) : State := updLaunch s s.g.launch (fun l => { l with exited := l.exited + 1 })

/-- The group ends: it leaves its team, and everything that it holds is released. -/
def endGroup (s : State) : State :=
  let s := countExit (leaveTeam { s with g := s.g.count })
  freeGroup s

/-- gexit (R365). -/
def execGexit (s : State) : Res :=
  .next (if !(queueDrained s && vpsQuiet s.g) then waitHere s
    else if s.g.vps ≠ [] then stoppedTrap s
    else if !enginesIdle s then waitHere s
    else
      match (List.range 8).findSome? (fun k => (tokOf s k).fail.map (fun r => (k, r))) with
      | some (k, r) => reportFail s k r
      | none =>
        let s := unbindAll s ((List.range 32).filter (fun r => (boundTo s.g r).isSome))
        if s.g.appends = [] then endGroup s else waitHere s)

end Sys2Proof.Machine
end

