-- ==== Sys2Proof/Machine/Matrix.lean ====
section
/-!
DEFINITION. MATRIX, MFENCE, MACC and ZCFG: handles, operands, the issue of a matrix operation and its checks, joint
operations, acceptance and completion, and the forms that read and write a tile (R96, R169 to R171, R192, R193,
R313 to R335).
-/

namespace Sys2Proof.Machine

/-! ### Handles (R133, R315, R316) -/

/-- Handle z of the current group. -/
def handleOf (s : State) (z : Nat) : Nat := (s.g.z.toList.getD z 0).toNat

def hWords (h : Nat) : Nat := bits h 48 40
def hM (h : Nat) : Nat := bits h 39 30 + 1
def hN (h : Nat) : Nat := bits h 29 20 + 1
def hTag (h : Nat) : Nat := bits h 19 15

/-- Words per lane that a tile needs. -/
def hNeed (lanemod h : Nat) : Nat := ceilDiv (hM h) (max 1 lanemod) * ceilDiv (hN h) 16

/-- Start of the lowest run of free accumulator words of a core. -/
def freeRun (s : State) (core words : Nat) : Option Nat :=
  let used (w : Nat) : Bool := s.eng.regions.any (fun r => r.core == core && decide (r.base ≤ w) && decide (w < r.base + r.words))
  (List.range (257 - words)).find? (fun b => (List.range words).all (fun i => !used (b + i)))

/-- The region of a handle released; its windows no longer concern the handle. [log 70 DEDUCED] -/
def releaseRegion (s : State) (z : Nat) : State :=
  let me := s.g.gid
  { s with
    eng := { s.eng with regions := s.eng.regions.filter (fun r => !(r.gid == me && r.z == z)) }
    g := { s.g with windows := s.g.windows.map (fun w => if w.z == z then { w with z := 8 } else w) } }

def setZ (s : State) (z : Nat) (v : Word) : State := { s with g := { s.g with z := s.g.z.setIfInBounds z v } }

/-- A run claimed for a handle: its elements are undefined (R315); none while there is no run. -/
def claimRegion (s : State) (z : Nat) (h : Word) (words : Nat) : Option State :=
  (freeRun s s.g.pl.core words).map (fun b =>
    let v := h.toNat
    let v := bits v 39 15 * 2 ^ 15 + b * 2 ^ 49 + words * 2 ^ 40 + 1
    let r : Region := ⟨s.g.pl.core, s.g.gid, z, b, words, .free s.freeCtr, [], []⟩
    setZ { s with eng := { s.eng with regions := s.eng.regions ++ [r] }, freeCtr := s.freeCtr + 1 } z (BitVec.ofNat 64 v))

/-- A zset that waits for its run (R315). [log 70 DEDUCED] -/
def zsetWait (s : State) (z : Nat) (h : Word) (words : Nat) : State :=
  match claimRegion s z h words with
  | some s => retire s
  | none => waitHere { s with g := { s.g with waits := { s.g.waits with zset := some (z, h, words) } } }

/-- zset (R315). [log 70 DEDUCED] -/
def execZset (a : Fin 32) (z : Fin 8) (s : State) : Res :=
  .next (readingX s [a] fun s =>
    match s.g.waits.zset with
    | some (z, h, words) => zsetWait s z h words
    | none =>
      let w := getX s a
      let h := w.toNat
      let lm := (coreOf s s.g.pl.core).lanemod
      let words := if hWords h = 0 then hNeed lm h else hWords h
      let bad := bit h 0 && (bits h 63 58 != 0 || bits h 14 1 != 0 || !(hTag h == 0x0A || hTag h == 0x05)
        || decide (512 < hM h) || decide (256 < hN h) || decide (words < hNeed lm h) || decide (256 < words))
      if bad then trap s cIllegal w
      else if queueHeld s || s.eng.mats.any (fun o => o.gid == s.g.gid && o.z == z) then waitHere s
      else
        let s := setZ (releaseRegion (refreshWindows s) z) z 0
        if bit h 0 then zsetWait s z w words else retire s)

/-- zget (R316). -/
def execZget (d : Fin 32) (z : Fin 8) (s : State) : Res := .next (retire (setX s d (BitVec.ofNat 64 (handleOf s z))))

/-- ACC_REGION_CLAIM (R315): the message's group, whose zset waits, claims a run. -/
def execAccRegionClaim (s : State) : Res :=
  onMsgGroup s fun s =>
    match s.g.waits.zset with
    | some (z, h, words) => (claimRegion s z h words).elim s retire
    | none => s

/-! ### Operands (R317 to R320) -/

/-- Accumulator tag for a pair of operand tags (R320). -/
def accTag (a b : Nat) : Option Nat :=
  let small (t : Nat) : Bool := decide (0x0D ≤ t) && decide (t ≤ 0x11)
  let half (t : Nat) : Bool := t == 0x0B || t == 0x0C
  let byte (t : Nat) : Bool := t == 0x01 || t == 0x02
  if (small a && small b) || (isMx a && isMx b) || (half a && half b) || (a == 0x0A && b == 0x0A) then some 0x0A
  else if byte a && byte b then some 0x05
  else none

/-- An operand as the instruction names it: a register, or the x registers that describe a tile. -/
structure OpName where
  sp  : Bool
  reg : Nat
  w0  : Nat
  w1  : Nat
  deriving DecidableEq, Repr

def opName (s : State) (sp : Bool) (r : Nat) : OpName :=
  ⟨sp, r, if sp then (getX s r).toNat else 0, if sp then (getX s (r + 1)).toNat else 0⟩

/-- Code of an operand in TVAL (R314). -/
def OpName.code (o : OpName) : Nat := if o.sp then 0x20 + o.reg else o.reg

def OpName.tag (s : State) (o : OpName) : Nat := if o.sp then bits o.w1 28 24 else (vregOf s.g o.reg).tag

/-- RMT and TEAM of an operand's address, in place. -/
def OpName.where_ (o : OpName) : Nat := bits o.w0 25 21 * 2 ^ 21

/-- Join fields: JTEAM, JSHAPE, JPOS. -/
def OpName.jteam (o : OpName) : Nat := bits o.w1 63 60
def OpName.jshape (o : OpName) : Nat := bits o.w1 59 58
def OpName.jpos (o : OpName) : Nat := bits o.w1 57 56

/-- Rows and columns of positions of a joint shape (R329). -/
def jointShape (sh : Nat) : Nat × Nat :=
  match sh with
  | 1 => (2, 1)
  | 2 => (1, 2)
  | _ => (2, 2)

/-- Positions of a joint shape. -/
def jointPos (sh : Nat) : Nat := (jointShape sh).1 * (jointShape sh).2

/-- Core of a team index of the group's cluster (R90). -/
def coreAt (p : Place) (j : Nat) : Nat := p.origin + j / p.cols * 8 + j % p.cols

/-- The join fields of a participant break R329. -/
def joinBad (s : State) (o : OpName) : Bool :=
  o.jshape == 0 || decide (jointPos o.jshape ≤ o.jpos) || decide (s.g.pl.cols * s.g.pl.rows ≤ o.jteam)
    || (o.jpos == 0 && coreAt s.g.pl o.jteam != s.g.pl.core)

/-- The x register of an operand that breaks step 2 of R322; `kind` is 0 for mma, 1 for mmas, 2 for mjoin.
[log 72 DEDUCED] -/
def descBad (s : State) (kind : Nat) (first : Bool) (o : OpName) : Option Nat :=
  if o.sp = false then none
  else if bits o.w0 63 52 ≠ 0 ∨ bits o.w0 31 26 ≠ 0 then some (0x20 + o.reg)
  else
    let joins := kind == 2 && first
    if bits o.w1 55 54 ≠ 0 ∨ bits o.w1 32 29 ≠ 0 ∨ tagReserved (bits o.w1 28 24)
        ∨ (joins = false ∧ bits o.w1 63 56 ≠ 0) ∨ (joins ∧ joinBad s o)
        ∨ (kind ≠ 1 ∧ bits o.w1 53 33 ≠ 0) ∨ (kind = 1 ∧ bits o.w1 53 33 = 0)
        ∨ (isMx (bits o.w1 28 24) = false ∧ bits o.w1 20 0 ≠ 0) then some (0x20 + o.reg + 1)
    else none

/-- The tile that a descriptor names, in a partition that may not exist. -/
def OpName.tile (s : State) (o : OpName) : SpTile :=
  let addr := o.w0 % 2 ^ 26
  let (core, base) := ((partitionOf s s.g addr).map (fun p => (p.1, p.2.1))).getD (0, 0)
  ⟨core, base, if bit addr 21 then bits addr 25 22 else s.g.pl.teamix, addr % 2 ^ 21, bits o.w0 51 32, bits o.w1 20 0,
    bits o.w1 53 33, bits o.w1 28 24, bits o.w1 23 21⟩

/-- Byte runs of the data, scale and bitmap tiles of an operand of `rows` lines and extent `k`, each tile ascending
(R319): offset from the partition's start, and length. -/
def tileSpans (t : SpTile) (rows k : Nat) : List (List (Nat × Nat)) :=
  [(List.range rows).map (fun r => (t.off + r * t.lpitch, ceilDiv (k * vw t.tag) 8)),
   if isMx t.tag then [(t.off + t.tpitch, rows * ceilDiv k 32)] else [],
   if t.bpitch = 0 then [] else [(t.off + t.bpitch, rows * ceilDiv k 8)]]

/-- The lowest byte of the first tile that has one at or beyond `lim`. -/
def beyond (lim : Nat) (spans : List (List (Nat × Nat))) : Option Nat :=
  spans.findSome? (fun l => (l.filterMap (fun p => if lim < p.1 + p.2 then some (max p.1 lim) else none)).min?)

/-- Blocks of the partition that the tiles touch, in the order of R325. -/
def tileBlocks (spans : List (List (Nat × Nat))) : List Nat :=
  (spans.flatMap (fun l => l.flatMap (fun p => range (p.1 / 4096) ((p.1 + p.2 - 1) / 4096 + 1)))).eraseDups

/-- TVAL for a byte at partition offset `o` (R322 step 7). -/
def tileVal (w o : Nat) : Nat := w + o % 2 ^ 21 + (if 2 ^ 21 ≤ o then o / 2 ^ 21 * 2 ^ 32 + 2 ^ 63 else 0)

/-- Runs of scratchpad bytes that the tiles occupy: key of the first, and number. -/
def tileBytes (t : SpTile) (spans : List (List (Nat × Nat))) : List (Nat × Nat) :=
  spans.flatMap (fun l => l.map (fun p => (spKey t.core (t.part * 4096 + p.1), p.2)))

/-! ### Issue (R321, R322) -/

/-- A trap of a matrix form at issue. [log 74 DEDUCED] -/
def matFail (s : State) (cause v : Nat) : VOut := .fail s cause (BitVec.ofNat 64 v) none false

/-- Scratchpad tiles of an operand, with the runs of bytes that they occupy. [log 66 DEDUCED, 74 DEDUCED] -/
def opTiles (s : State) (o : OpName) (rows k : Nat) : Option (SpTile × List (List (Nat × Nat))) :=
  if o.sp then
    let t := o.tile s
    some (t, tileSpans t rows k)
  else none

/-- The team code of the lead that a participant names (R329). -/
def leadCode (s : State) (o : OpName) : Nat :=
  let core := coreAt s.g.pl o.jteam
  match (teamOf s s.g).bind (fun t0 => s.teams.find? (fun t =>
    t.core == core && t.launch == t0.launch && t.cluster == t0.cluster && t.teamix == o.jteam)) with
  | some t => teamScope core t.num
  | none => teamScope core 0

/-- Opening the operand window of an operation of the current group at its issue (R193). -/
def openWindow (s : State) (o : MatOp) (joint : Option (Nat × Nat)) : State :=
  let spoil := inWindow s o.z
  let s := tileWritten s o.z
  let vr (x : MatOperand) : List Nat := match x with
    | .vreg r => [r]
    | .spad _ => []
  let wd (x : MatOperand) (rows : Nat) : List (Nat × Nat) := match x with
    | .vreg _ => []
    | .spad t => tileBytes t (tileSpans t rows o.k)
  let w : Window := ⟨o.id, o.tok, o.batch, o.z, o.m, o.n, vr o.a ++ vr o.b, wd o.a o.m ++ wd o.b o.n, o.issued, joint, false,
    spoil, false⟩
  { s with g := { s.g with windows := s.g.windows ++ [w] } }

/-- An operand, a vector register or a run of scratchpad bytes, was written after the last mfence (R192).
[log 66 DEDUCED] -/
def unfenced (s : State) (vregs : List Nat) (runs : List (Nat × Nat)) : Bool :=
  vregs.any (fun r => decide (s.g.mfence < tabGet s.g.vSeq r 0))
    || s.sp.seqs.any (fun kv => decide (s.g.mfence < kv.2.1)
      && runs.any (fun r => decide (r.1 ≤ kv.1) && decide (kv.1 < r.1 + r.2)))

/-- Another agent wrote an operand byte before the last mfence, and no acquire or wait for a batch ordered that write
before the mfence (R192): whether the operation finds it is open (R387). [log 10 DESIGN CHOICE, 66 DEDUCED] -/
def unordered (s : State) (runs : List (Nat × Nat)) : Bool :=
  s.sp.seqs.any (fun kv => decide (s.g.mfAcq < kv.2.1) && kv.2.2 != s.g.gid + 1
    && runs.any (fun r => decide (r.1 ≤ kv.1) && decide (kv.1 < r.1 + r.2)))

/-- The reservations of consumed tiles (R325): each block once, with the value that names it.
[log 23 DESIGN CHOICE] -/
def tileUnits (ts : List (Nat × SpTile × List (List (Nat × Nat)))) : List (Nat × RUnit) :=
  ts.foldl (fun acc t =>
    (tileBlocks t.2.2).foldl (fun acc b =>
      let u := RUnit.block (blockKey t.2.1.core ((t.2.1.part + b) * 4096))
      if acc.any (fun a => a.2 == u) then acc else acc ++ [(t.1 + b * 4096, u)]) acc) []

/-- Blocks of units. -/
def unitBlocks (us : List RUnit) : List Nat :=
  us.filterMap (fun u => match u with
    | .block k => some k
    | .line _ => none)

/-- The checks of R322 in order, and the operation issued; `kind` is 0 for mma, 1 for mmas, 2 for mjoin. -/
def matIssue (s : State) (kind : Nat) (a b : OpName) (z tok : Nat) (f : Bool) : VOut :=
  let s := setVc s (fun v => { v with vstart := 0 })
  let h := handleOf s z
  let m := s.g.vc.tilem
  let n := s.g.vc.tilen
  let k := s.g.vc.tilek
  let ta := a.tag s
  let tb := b.tag s
  let ops := [(a, ta, m), (b, tb, n)]
  if bit h 0 = false then matFail s cTag (0x80 + z)
  else
    match (descBad s kind true a <|> descBad s kind false b) with
    | some c => matFail s cIllegal c
    | none =>
      if m = 0 ∨ n = 0 ∨ k = 0 then .done s
      else
        match accTag ta tb with
        | none => matFail s cTag b.code
        | some t =>
          if t ≠ hTag h ∨ hM h < m ∨ hN h < n then matFail s cTag (0x80 + z)
          else if isMx ta ∧ k % 32 ≠ 0 then matFail s cTag a.code
          else
            match ops.find? (fun o => !o.1.sp && decide (capacity s o.1.reg o.2.1 (vregOf s.g o.1.reg).gf < o.2.2 * k)) with
            | some o => matFail s cTag o.1.reg
            | none =>
              match ops.find? (fun o => !o.1.sp && ((boundTo s.g o.1.reg).isSome || (isSplit s s.g && vSide o.1.reg))) with
              | some o => matFail s cStream o.1.reg
              | none =>
                match ops.find? (fun o => o.1.sp && (o.1.w0 % 64 != 0 || bits o.1.w0 51 32 % 64 != 0)) with
                | some o => matFail s cMisaligned o.1.w0
                | none =>
                  let tiles := ops.filterMap (fun o => (opTiles s o.1 o.2.2 k).map (fun t => (o.1.where_, t)))
                  let lim (w : Nat) : Nat := ((partitionOf s s.g w).map (fun p => p.2.2 * 4096)).getD 0
                  match tiles.findSome? (fun t => (beyond (lim t.1) t.2.2).map (tileVal t.1)) with
                  | some v => matFail s cPermission v
                  | none =>
                    let badStamp (t : SpTile) (bl : Nat) : Bool :=
                      t.rot == 7 || tabGet s.sp.stamps (blockKey t.core ((t.part + bl) * 4096)) 0 != t.rot
                    match tiles.findSome? (fun t => ((tileBlocks t.2.2).find? (badStamp t.2.1)).map (fun bl => t.1 + bl * 4096)) with
                    | some v => matFail s cRotation v
                    | none =>
                      let runs := tiles.flatMap (fun t => tileBytes t.2.1 t.2.2)
                      let arg (o : OpName) : MatOperand := if o.sp then .spad (o.tile s) else .vreg o.reg
                      let op : MatOp := {
                        id := s.eng.nextId, gid := s.g.gid, core := s.g.pl.core
                        kind := if kind = 2 then .mjoin (leadCode s a) a.jshape a.jpos else if kind = 1 then .mmas else .mma
                        tok := tok, batch := (s.g.tok.toList.getD tok Token.reset).opn
                        phase := if kind = 2 then .join else .leave
                        z := z, m := m, n := n, k := k, a := arg a, b := arg b, areg := a.reg, aTag := ta, bTag := tb
                        issued := s.clock
                        undef := unfenced s ((ops.filter (fun o => !o.1.sp)).map (fun o => o.1.reg)) runs
                          || (unordered s runs && Config.choice s.freeCtr % 2 == 1)
                        blocks := [], consume := f, joint := 0 }
                      let put (s : State) (op : MatOp) : State :=
                        { s with eng := { s.eng with mats := s.eng.mats ++ [op], nextId := s.eng.nextId + 1 } }
                      let s := if unordered s runs then { s with freeCtr := s.freeCtr + 1 } else s
                      match op.kind with
                      | .mjoin lead _ pos =>
                        let key := lead * 4 + pos
                        let num := tabGet s.eng.jointCount key 0
                        let s := put s { op with joint := num }
                        .wait { s with eng := { s.eng with jointCount := tabPut s.eng.jointCount key (num + 1) } }
                      | _ =>
                        let issue (s : State) (us : List RUnit) : VOut :=
                          let s := openWindow (put s { op with blocks := unitBlocks us }) op none
                          .done (askLeave s ⟨dieOf s.g.pl.core, s.g.gid, none, some op.id, none, 8, false⟩)
                        if f then
                          match reserveAll s (tileUnits tiles) with
                          | (us, none, s) => issue s us
                          | (us, some v, s) => matFail (us.foldl releaseUnit s) cRation v
                        else issue s []

/-- x registers that the operands read. -/
def opRegs (asp bsp : Bool) (a b : Nat) : List Nat := (if asp then [a, a + 1] else []) ++ (if bsp then [b, b + 1] else [])

/-- mma (R321, R322). [log 76 DEDUCED] -/
def execMma (a b : Fin 32) (y x : Bool) (z t : Fin 8) (f : Bool) (s : State) : Res :=
  .next (readingX s (opRegs x y a b) fun s => controlQ s fun s => matIssue s 0 (opName s x a) (opName s y b) z t f)

/-- mmas (R328). [log 72 DEDUCED] -/
def execMmas (a b : Fin 32) (z t : Fin 8) (f : Bool) (s : State) : Res :=
  .next (readingX s (opRegs true true a b) fun s => controlQ s fun s =>
    matIssue s 1 (opName s true a) (opName s true b) z t f)

/-- mjoin (R329, R330): it waits at its word until its joint operation is formed. [log 71 DEDUCED] -/
def execMjoin (a b : Fin 32) (z t : Fin 8) (f : Bool) (s : State) : Res :=
  .next (if s.eng.mats.any (fun o => o.gid == s.g.gid && o.phase == .join) then waitHere s
    else readingX s (opRegs true true a b) fun s => controlQ s fun s =>
      matIssue s 2 (opName s true a) (opName s true b) z t f)

/-! ### Joint operations (R330, R331) -/

/-- Lead and number of a joint operation. -/
def MatOp.jointId (o : MatOp) : Option (Nat × Nat) :=
  match o.kind with
  | .mjoin lead _ _ => some (lead, o.joint)
  | _ => none

def MatOp.jpos (o : MatOp) : Nat :=
  match o.kind with
  | .mjoin _ _ p => p
  | _ => 0

def MatOp.jshape (o : MatOp) : Nat :=
  match o.kind with
  | .mjoin _ sh _ => sh
  | _ => 0

/-- Participants of a joint operation that have arrived, by position. -/
def jointOps (s : State) (j : Nat × Nat) : List MatOp :=
  (List.range 4).flatMap (fun p => s.eng.mats.filter (fun o => o.jointId == some j && o.jpos == p))

/-- Every position that a participant's shape names has arrived. [log 71 DEDUCED] -/
def jointFull (ops : List MatOp) : Bool :=
  ops != [] && ops.all (fun o => (List.range (jointPos o.jshape)).all (fun p => ops.any (fun q => q.jpos == p)))

/-- The participants do not fit together. [log 71 DEDUCED] -/
def jointMixed (ops : List MatOp) : Bool :=
  ops.any (fun o => ops.any (fun q => o.jshape != q.jshape || o.m != q.m || o.n != q.n || o.k != q.k || o.aTag != q.aTag
    || o.bTag != q.bTag || o.consume != q.consume || (o.id != q.id && o.core == q.core)))

/-- An operation changed. -/
def updMat (s : State) (id : Nat) (f : MatOp → MatOp) : State :=
  { s with eng := { s.eng with mats := updFirst s.eng.mats (fun o => o.id == id) f } }

/-- Operations taken off the list. -/
def dropMats (s : State) (ids : List Nat) : State :=
  { s with eng := { s.eng with mats := s.eng.mats.filter (fun o => !ids.contains o.id) } }

/-- The tiles of a participant, named with RMT = 1. [log 73 DEDUCED] -/
def jointTiles (o : MatOp) : List (Nat × SpTile × List (List (Nat × Nat))) :=
  [(o.a, o.m), (o.b, o.n)].filterMap (fun x => match x.1 with
    | .spad t => some (2 ^ 21 + t.team * 2 ^ 22, t, tileSpans t x.2 o.k)
    | .vreg _ => none)

/-- Every participant traps at its mjoin. [log 81 DEDUCED] -/
def jointTrap (s : State) (ops : List MatOp) (f : MatOp → Nat × Nat) : State :=
  let s := dropMats s (ops.map MatOp.id)
  ops.foldl (fun s o => onGroup s o.gid fun s => trap s (f o).1 (BitVec.ofNat 64 (f o).2)) s

/-- MJOIN_FORM (R330, R331): the joint operation of the message's lead (a team code) and number is formed, or its
participants trap. [log 71 DEDUCED] -/
def execMjoinForm (s : State) : Res :=
  let ops := (jointOps s (s.msg.core, s.msg.num)).filter (fun o => o.phase == .join)
  .next (if jointFull ops = false then s
    else if jointMixed ops then jointTrap s ops (fun o => (cIllegal, 0x20 + o.areg + 1))
    else
      let form (s : State) (us : List RUnit) : State :=
        let s := ops.foldl (fun s o => updMat s o.id (fun o => { o with phase := .leave })) s
        let s := ops.foldl (fun s o => onGroup s o.gid fun s => retire (openWindow s o o.jointId)) s
        match ops.head? with
        | some o =>
          askLeave (updMat s o.id (fun o => { o with blocks := unitBlocks us }))
            ⟨dieOf o.core, o.gid, none, some o.id, none, 8 * ops.length, false⟩
        | none => s
      if ops.any MatOp.consume then
        match reserveAll s (tileUnits (ops.flatMap jointTiles)) with
        | (us, none, s) => form s us
        | (us, some v, s) => jointTrap (us.foldl releaseUnit s) ops (fun _ => (cRation, v))
      else form s [])

/-! ### Acceptance (R323, R331) -/

/-- The operations that are accepted and complete together. -/
def matParty (s : State) (o : MatOp) : List MatOp :=
  match o.jointId with
  | some j => (jointOps s j).filter (fun q => q.phase == o.phase)
  | none => [o]

/-- The operation, or its joint operation, has its leave. -/
def matLeave (s : State) (o : MatOp) : Bool :=
  o.phase == .leave && (matParty s o).any (fun q => s.eng.leaves.any (fun l => l.mat == some q.id && l.granted))

def matBusy (s : State) (core : Nat) : Bool := s.eng.mats.any (fun o => o.core == core && o.phase == .running)

/-- Place of a joint operation's request among those of the stewards, in the order in which they were made. -/
def leaveRank (s : State) (o : MatOp) : Nat :=
  s.eng.leaves.findIdx (fun l => (matParty s o).any (fun q => l.mat == some q.id))

/-- The unit of the operation's core, and of every partner's, can accept it: a unit that a joint operation with leave
waits for accepts no other; of two joint operations with leave that share a unit, the one that asked first goes first. No
operation of a token that holds a failure begins (R114, R331). [log 71 DEDUCED] -/
def matAcceptable (s : State) (o : MatOp) : Bool :=
  let party := matParty s o
  matLeave s o && party.all (fun q => !matBusy s q.core && !tokenHeld s q.gid q.tok)
    && !(s.eng.mats.any (fun q => q.jointId.isSome && q.jointId != o.jointId && party.any (fun p => p.core == q.core)
      && matLeave s q && (o.jointId.isNone || decide (leaveRank s q < leaveRank s o))))

/-- The operation that a core's matrix unit accepts next, in round-robin order of slots. -/
def matNext (s : State) (core : Nat) : Option MatOp :=
  let last := tabGet s.eng.lastServed core 15
  (List.range 16).findSome? (fun i =>
    s.eng.mats.find? (fun o => o.gid == core * 16 + (last + 1 + i) % 16 && matAcceptable s o))

/-- MATRIX_ACCEPT (R323): the unit of the message's core accepts its next operation. -/
def execMatrixAccept (s : State) : Res :=
  if Config.cores ≤ s.msg.core then .fault .noSuchUnit
  else
    .next (match matNext s s.msg.core with
      | none => s
      | some o =>
        (matParty s o).foldl (fun s q =>
          let s := updMat s q.id (fun q => { q with phase := .running })
          { s with eng := { s.eng with lastServed := tabPut s.eng.lastServed q.core (q.gid % 16) } }) s)

/-! ### Arithmetic (R169 to R171, R324, R326) -/

/-- `w` bits at a byte and bit offset from a tile's OFF, and whether a scratchpad word that holds them is poisoned. -/
def tileBits (s : State) (t : SpTile) (byteOff bitOff w : Nat) : Nat × Bool :=
  let a := t.part * 4096 + t.off + byteOff + bitOff / 8
  let n := (bitOff % 8 + w + 7) / 8
  (s.sp.word t.core a n / 2 ^ (bitOff % 8) % 2 ^ w,
   (List.range n).any (fun i => s.sp.poison.contains (spWordKey t.core (a + i))))

/-- An operand element: its value before the scale, poison, its bitmap bit, and poison of the bitmap byte. -/
structure MatEl where
  val   : Val
  bad   : Bool
  on    : Bool
  onBad : Bool
  deriving DecidableEq, Repr

/-- The value of a pattern, an MX element without its scale. -/
def matVal (tag p : Nat) : Val := if isMx tag then .flt (mxVal 0 tag 127 p) else valOf 0 tag p

/-- Element `k` of line `r` of an operand of extent `kk`, read by the current group's operation. -/
def matEl (s : State) (o : MatOperand) (tag kk r k : Nat) : MatEl :=
  match o with
  | .vreg v => ⟨matVal tag (elemOf s v (r * kk + k)), elemPoison s v (r * kk + k), true, false⟩
  | .spad t =>
    let (p, bad) := tileBits s t (r * t.lpitch) (k * vw tag) (vw tag)
    let sbad := if isMx tag then (tileBits s t (t.tpitch + r * ceilDiv kk 32 + k / 32) 0 8).2 else false
    if t.bpitch = 0 then ⟨matVal tag p, bad || sbad, true, false⟩
    else
      let (bm, bmBad) := tileBits s t (t.bpitch + r * ceilDiv kk 8 + k / 8) 0 8
      ⟨matVal tag p, bad || sbad, bit bm (k % 8), bmBad⟩

/-- Scale of chunk `c` of line `r`; one for a tag that has none. -/
def matScale (s : State) (o : MatOperand) (tag kk r c : Nat) : Ex :=
  if isMx tag then
    match o with
    | .vreg v => floatVal tagE8m0 ((vregOf s.g v).scale ((r * kk + 32 * c) / 32))
    | .spad t => floatVal tagE8m0 (tileBits s t (t.tpitch + r * ceilDiv kk 32 + c) 0 8).1
  else .num false 1 1 0

/-- One accumulator element after the operation, and whether a product that it takes is poisoned (R169 to R171).
[log 75 DEDUCED] -/
def matElem (s : State) (o : MatOp) (i j acc : Nat) : Nat × Bool :=
  (List.range (ceilDiv o.k 32)).foldl (fun (st : Nat × Bool) c =>
    let ps := (range (32 * c) (min (32 * c + 32) o.k)).map (fun k => (matEl s o.a o.aTag o.k i k, matEl s o.b o.bTag o.k j k))
    let bad := ps.any (fun p => p.1.onBad || p.2.onBad || (p.1.on && p.2.on && (p.1.bad || p.2.bad)))
    let qs := ps.filter (fun p => p.1.on && p.2.on)
    let acc' :=
      if isInt o.aTag then wrapN ((st.1 : Int) + qs.foldl (fun (x : Int) p => x + p.1.val.toInt * p.2.val.toInt) 0) 32
      else
        let sum := qs.foldl (fun x p => (exAdd false x (exMul p.1.val.ex p.2.val.ex).1).1) (.num false 0 1 0)
        let sum := (exMul (exMul sum (matScale s o.a o.aTag o.k i c)).1 (matScale s o.b o.bTag o.k j c)).1
        (roundFmt 0x0A 0 false false 0 (exAdd false (floatVal 0x0A st.1) sum).1).1
    (acc', st.2 || bad)) (acc, false)

/-- The results of an operation of the current group written into its region. -/
def matWrite (s : State) (o : MatOp) : State :=
  match regionOf s o.gid o.z with
  | none => s
  | some r =>
    let ws := (List.range o.m).flatMap (fun i => (List.range o.n).map (fun j =>
      let (p, bad) := matElem s o i j (r.elem i j)
      (accKey i j, AccElem.val p, bad || r.poison.contains (accKey i j))))
    updRegion s o.gid o.z (fun r => r.put ws)

/-- Blocks that an operation's tiles touch, as core and physical offset. [log 75 DEDUCED] -/
def matBlocks (o : MatOp) : List (Nat × Nat) :=
  (jointTiles o).flatMap (fun t => (tileBlocks t.2.2).map (fun b => (t.2.1.core, (t.2.1.part + b) * 4096)))

/-- The scratchpad bytes of operations that commit their reservations are theirs no longer: the reads come before the
commit, and the block's next contents after it (R43, R325, R335, R383, R384). [log 129 DEDUCED] -/
def endReads (s : State) (ids : List Nat) : State :=
  updGroups s (fun g => g.windows != []) (fun g =>
    { g with windows := g.windows.map (fun w => if ids.contains w.id then { w with bytes := [] } else w) })

/-- MATRIX_COMPLETE (R324 to R326, R331, R332): the message's accepted operation, with its partners, reads its
operands, writes its tiles, commits its reservations and completes. [log 73 DEDUCED, 75 DEDUCED] -/
def execMatrixComplete (s : State) : Res :=
  match s.eng.mats.find? (fun o => o.id == s.msg.id && o.phase == .running) with
  | none => .fault .noSuchUnit
  | some o =>
    let s := refreshWindows s
    let ops := matParty s o
    let win (q : MatOp) : Option Window := (findGroup s q.gid).bind (fun g => g.windows.find? (fun w => w.id == q.id))
    let undef := ops.any (fun q => q.undef || (win q).any Window.written)
    let s := ops.foldl (fun s q => onGroup s q.gid fun s =>
      if undef || (win q).any Window.spoiled then undefElems s q.gid q.z q.m q.n else matWrite s q) s
    let s := if ops.any MatOp.consume then endReads s (ops.map MatOp.id) else s
    let s := ops.foldl (fun s q =>
      if q.consume then q.blocks.foldl (fun s k => commitUnit s (.block k)) s
      else (matBlocks q).foldl (fun s b => spTouch s b.1 b.2) s) s
    let ids := ops.map MatOp.id
    let s := dropLeaves (dropMats s ids) (fun l => l.mat.any ids.contains)
    .next (ops.foldl (fun s q => onGroup s q.gid fun s => settleTok s q.tok) s)

/-! ### mfence, mzero, mput, mext (R327, R333 to R335) -/

/-- mfence (R192, R327). [log 66 DEDUCED, 76 DEDUCED] -/
def execMfence (s : State) : Res := .next (controlQ s fun s => .done { s with g := { s.g with mfence := s.clock, mfAcq := s.g.acq } })

/-- mzero (R333). -/
def execMzero (z : Fin 8) (s : State) : Res :=
  .next (controlS s fun s =>
    if bit (handleOf s z) 0 = false then matFail s cTag (0x80 + z)
    else
      let s := refreshWindows s
      let s := updRegion s s.g.gid z (fun r => { r with rest := .val 0, elems := [], poison := [] })
      .done (tileWritten s z))

/-- x[P] breaks R334. -/
def placeBad (h p vl : Nat) : Bool :=
  let width := bits p 40 32
  bits p 63 41 != 0 || bits p 31 26 != 0 || bits p 15 10 != 0 || width == 0 || decide (256 < width)
    || decide (hN h < bits p 25 16 + width)
    || (vl != 0 && decide (hM h ≤ bits p 9 0 + (vl - 1) / width))

/-- Tile position of element `e` (R334). -/
def placeOf (p e : Nat) : Nat × Nat := (bits p 9 0 + e / bits p 40 32, bits p 25 16 + e % bits p 40 32)

/-- mput in queue order (R335). [log 77 DEDUCED] -/
def mputV (v z p : Nat) (s : State) : VOut :=
  let h := handleOf s z
  let t := tagOf s v
  let c := ctxG s
  sideCheck s false [v] [] fun _ =>
  if bit h 0 = false then matFail s cTag (0x80 + z)
  else if t = 0 ∨ t = tagBit ∨ (isMx t ∧ hTag h = 0x05) then tagFail s v
  else if placeBad h p c.vl then matFail s cIllegal p
  else
    capCheck s c [(v, t)] fun _ =>
    let es := active s.g c 0
    elemsClean s [v] es fun _ =>
    let s := refreshWindows s
    let (ws, rnd) := es.foldl (fun (acc : List (Nat × AccElem × Bool) × Rnd) e =>
      let (q, r) := acc.2.conv (hTag h) e none (satOf c.fmode) false (elemVal s c.fmode v e)
      (acc.1 ++ [(accKey (placeOf p e).1 (placeOf p e).2, .val q, false)], r)) ([], rndOf s c false)
    let s := updRegion s s.g.gid z (fun r => r.put ws)
    .done (putRnd (tileWritten s z) c rnd)

/-- mput (R335). -/
def execMput (v p : Fin 32) (z : Fin 8) (s : State) : Res :=
  .next (readingX s [p] fun s => controlV s (.mput v p z) fun s' _ => mputV v z (getX s p).toNat s')

/-- mext in queue order (R335): a poisoned element traps after the elements below it, whole MX blocks only.
[log 77 DEDUCED] -/
def mextV (d z p : Nat) (s : State) : VOut :=
  let h := handleOf s z
  let t := tagOf s d
  let c := ctxG s
  sideCheck s false [d] [] fun _ =>
  if bit h 0 = false then matFail s cTag (0x80 + z)
  else if t = 0 ∨ t = tagBit then tagFail s d
  else if placeBad h p c.vl then matFail s cIllegal p
  else
    capCheck s c [(d, t)] fun _ =>
    let v := vregOf s.g d
    rowCheck s d (rowsNeed t v.gf v.td (sideLanes s s.g false) c.vl) fun _ =>
    let s := refreshWindows s
    let es := active s.g c 0
    let open_ := inWindow s z
    let seed := s.freeCtr
    let s := { s with freeCtr := s.freeCtr + 1 }
    let reg := (regionOf s s.g.gid z).getD ⟨0, 0, 0, 0, 0, .free seed, [], []⟩
    let key (e : Nat) : Nat := accKey (placeOf p e).1 (placeOf p e).2
    let bad := if open_ then none else es.find? (fun e => reg.poison.contains (key e))
    let good := match bad with
      | none => es
      | some n => es.filter (fun e => if isMx t then decide (e / 32 < n / 32) else decide (e < n))
    let s :=
      if open_ then
        let els := if isMx t then
            (blocksOf good).flatMap (fun j => (List.range 32).map (fun i =>
              (32 * j + i, if good.contains (32 * j + i) then Config.freeElem seed (32 * j + i) else 0, false)))
          else good.map (fun e => (e, Config.freeElem seed e, false))
        writeElems s c d t els
          (if isMx t then (blocksOf good).map (fun j => (j, Config.freeElem seed (2 ^ 32 + j) % 256)) else [])
      else
        let vals := good.map (fun e => (e, valOf c.fmode (hTag h) (reg.elem (placeOf p e).1 (placeOf p e).2)))
        let (els, scs, rnd) := convAll (rndOf s c false) t none (satOf c.fmode) false vals
        putRnd (writeElems s c d t (els.map (fun q => (q.1, q.2, false))) scs) c rnd
    match bad with
    | none => .done s
    | some n => .fail s cPoison (regVal n) (some n) true

/-- mext (R335). -/
def execMext (d p : Fin 32) (z : Fin 8) (s : State) : Res :=
  .next (readingX s [p] fun s => controlV s (.mext d p z) fun s' _ => mextV d z (getX s p).toNat s')

end Sys2Proof.Machine
end

