-- ==== Sys2Proof/Machine/Sparse.lean ====
section
/-!
DEFINITION. SPV: the sparse vector instructions (R130 to R132, R336 to R343).
-/

namespace Sys2Proof.Machine

/-- Sparse register `q` of the current group. -/
def qregOf (s : State) (q : Nat) : QReg := s.g.q.toList.getD q QReg.reset

/-- Code of a sparse register in TVAL (R314). -/
def qVal (q : Nat) : Word := regVal (0x40 + q)

/-- The tag can be a pair-value tag (R336). -/
def pairValueTag (t : Nat) : Bool := (isInt t || (isFloat t && t != tagE8m0)) && decide (8 ≤ cw t)

/-- TAG_MISMATCH naming a sparse register. -/
def qFail (s : State) (q : Nat) : VOut := .fail s cTag (qVal q) none false

/-- `k` on a source sparse register, which must have been written (R336). [log 81 DEDUCED, 83 DESIGN CHOICE] -/
def qSource (s : State) (q : Nat) (k : QReg → VOut) : VOut :=
  let r := qregOf s q
  if r.tag = 0 then qFail s q else k r

/-- Rows per lane of `n` pairs: 32-bit coordinates and values, pair i in share lane i mod L (R130, R132). -/
def pairRows (lanes tag n : Nat) : Nat :=
  let p := ceilDiv n (max 1 lanes)
  ceilDiv (p * 32) 512 + ceilDiv (p * cw tag) 512

/-- A sparse register written, its length and rows checked first (R131, R336); `f` puts the instruction's other
results. -/
def writeQ (s : State) (d : Nat) (r : QReg) (f : State → State) : VOut :=
  let n := r.pairs.length
  if 4096 < n then .fail s cIllegal (regVal n) none false
  else
    let need := pairRows (sideLanes s s.g false) r.tag n
    rowCheck s (32 + d) need fun _ =>
      let s := f s
      .done { s with g := { s.g with q := s.g.q.setIfInBounds d r, rowMap := setRows s.g.rowMap (32 + d) need } }

/-- An SPV form: it passes through the vector queue, and leaves VSTART at 0. -/
def controlSpv (s : State) (i : Instr) (f : State → VCtx → VOut) : Res := .next (controlV s i f)

/-! ### Memory forms (R337 to R339) -/

/-- The elements of an array that fail a check, by address. -/
def arrayFails (s : State) (kind base size : Nat) : Nat → List EFail × State
  | 0 => ([], s)
  | n + 1 =>
    let (l, s) := arrayFails s kind base size n
    match checkLoc s (whoV s) kind (.va ((base + n * size) % 2 ^ 64)) size size with
    | (.ok _, s) => (l, s)
    | (.error f, s) => (f :: l, s)

/-- The failure at the lowest address. [log 84 DEDUCED] -/
def lowestFail (l : List EFail) : Option EFail :=
  l.foldl (fun a f =>
    match a with
    | some b => if f.val < b.val then some f else a
    | none => some f) none

/-- A failure of an SPV form's access, with its record. -/
def spvFail (s : State) (kind : Nat) (f : EFail) : VOut :=
  .fail (failRecord s (whoV s) kind f) f.cause (BitVec.ofNat 64 f.val) none false

/-- One word of a checked array: value and poison. -/
def readAt (s : State) (va n : Nat) : Nat × Bool × State :=
  match checkLoc s (whoV s) kRead (.va va) n n with
  | (.ok l, s) => plRead s (whoV s) l n
  | (.error _, s) => (0, true, s)

def writeAt (s : State) (va n val : Nat) : State :=
  match checkLoc s (whoV s) kWrite (.va va) n n with
  | (.ok l, s) => plWrite s (whoV s) l n val
  | (.error _, s) => s

/-- Poison cleared where the writes of one instruction, each an address and a size, cover a line or word whole (R39,
R339). -/
def clearWritten (s : State) (ws : List (Nat × Nat)) : State :=
  plClear s (ws.filterMap (fun w => match checkLoc s (whoV s) kWrite (.va w.1) w.2 w.2 with
    | (.ok l, _) => some (l, w.2)
    | (.error _, _) => none))

/-- `n` words of an array read, in ascending order. -/
def readArray (s : State) (base size : Nat) : Nat → List (Nat × Bool) × State
  | 0 => ([], s)
  | n + 1 =>
    let (l, s) := readArray s base size n
    let (v, p, s) := readAt s ((base + n * size) % 2 ^ 64) size
    (l ++ [(v, p)], s)

/-- The first position whose coordinate does not exceed the one before it. -/
def unsortedAt (cs : List Nat) : Option Nat :=
  (List.range cs.length).find? (fun i => decide (1 ≤ i) && decide (cs.getD i 0 ≤ cs.getD (i - 1) 0))

/-- The address of COORD or VALUE that is misaligned. -/
def misalignedArray (coord value size : Nat) : Option Nat :=
  if coord % 4 ≠ 0 then some coord else if value % size ≠ 0 then some value else none

/-- `n` bytes of the descriptor at x[a], which lies at a multiple of 32 (R337, R338). [log 84 DEDUCED] -/
def descRead (s : State) (c : VCtx) (a n : Nat) (k : State → Nat → Nat → VOut) : VOut :=
  scalarOp s c a fun xa =>
  if xa.toNat % 32 ≠ 0 then .fail s cMisaligned xa none false
  else
    match checkLoc s (whoV s) kRead (.va xa.toNat) n 1 with
    | (.error f, s) => spvFail s kRead f
    | (.ok l, s) =>
      let (v, bad, s) := plRead s (whoV s) l n
      if bad then .fail s cPoison xa none false else k s xa.toNat v

/-- sld (R338). [log 84 DEDUCED] -/
def sldV (q a : Nat) (s : State) (c : VCtx) : VOut :=
  descRead s c a 32 fun s xa v =>
  let coord := bits v 63 0
  let value := bits v 127 64
  let tag := bits v 148 144
  let len := bits v 140 128
  let size := cw tag / 8
  if bits v 191 149 ≠ 0 ∨ bits v 143 141 ≠ 0 ∨ bits v 255 192 ≠ 0 then .fail s cIllegal (regVal xa) none false
  else if pairValueTag tag = false then qFail s q
  else if 4096 < len then .fail s cIllegal (regVal len) none false
  else
    match misalignedArray coord value size with
    | some x => .fail s cMisaligned (regVal x) none false
    | none =>
      let (f1, s) := arrayFails s kRead coord 4 len
      let (f2, s) := arrayFails s kRead value size len
      match lowestFail (f1 ++ f2) with
      | some f => spvFail s kRead f
      | none =>
        let (cs, s) := readArray s coord 4 len
        let (vs, s) := readArray s value size len
        match cs.findIdx? (fun x => x.2) with
        | some i => .fail s cPoison (regVal ((coord + 4 * i) % 2 ^ 64)) none false
        | none =>
          match unsortedAt (cs.map (·.1)) with
          | some i => .fail s cIllegal (regVal ((coord + 4 * i) % 2 ^ 64)) none false
          | none =>
            let pairs := (cs.zip vs).map (fun x => (x.1.1, x.2.1))
            let bad := (List.range len).filter (fun i => (vs.getD i (0, false)).2)
            writeQ s q ⟨tag, pairs, bad⟩ id

/-- sst (R339). [log 81 DEDUCED, 84 DEDUCED] -/
def sstV (q a : Nat) (s : State) (c : VCtx) : VOut :=
  qSource s q fun r =>
  descRead s c a 16 fun s xa v =>
  let coord := bits v 63 0
  let value := bits v 127 64
  let size := cw r.tag / 8
  let len := r.pairs.length
  match misalignedArray coord value size with
  | some x => .fail s cMisaligned (regVal x) none false
  | none =>
    let (f1, s) := arrayFails s kWrite coord 4 len
    let (f2, s) := arrayFails s kWrite value size len
    let (f3, s) := arrayFails s kWrite (xa + 16) 8 1
    match lowestFail (f1 ++ f2 ++ f3) with
    | some f => spvFail s kWrite f
    | none =>
      match r.poison.head? with
      | some i => .fail s cPoison (regVal ((value + size * i) % 2 ^ 64)) none false
      | none =>
        let s := r.pairs.zipIdx.foldl (fun s p =>
          writeAt (writeAt s ((coord + 4 * p.2) % 2 ^ 64) 4 p.1.1) ((value + size * p.2) % 2 ^ 64) size p.1.2) s
        let s := writeAt s (xa + 16) 8 (r.tag * 2 ^ 16 + len)
        .done (clearWritten s ((List.range len).flatMap (fun i =>
          [((coord + 4 * i) % 2 ^ 64, 4), ((value + size * i) % 2 ^ 64, size)]) ++ [(xa + 16, 8)]))

/-! ### Merges (R340, R341) -/

/-- The value and poison of the pair at a coordinate. -/
def QReg.at (r : QReg) (coord : Nat) : Option (Nat × Bool) :=
  (r.pairs.findIdx? (fun p => p.1 == coord)).map (fun i => ((r.pairs.getD i (0, 0)).2, r.poison.contains i))

/-- `k` on the operation's tag of two sparse registers (R340). -/
def qPair (s : State) (a b : Nat) (k : QReg → QReg → Nat → VOut) : VOut :=
  qSource s a fun ra =>
  qSource s b fun rb =>
  match pairTag ra.tag rb.tag with
  | some t => k ra rb t
  | none => qFail s b

/-- Ascending union of two coordinate lists. -/
def unionCoords (a b : List (Nat × Nat)) : List Nat := b.foldl (fun l p => setAdd l p.1) (a.map (·.1))

/-- `k` unless a pair that is read at one of the coordinates is poisoned (R338). [log 83 DESIGN CHOICE] -/
def pairsClean (s : State) (ra rb : QReg) (cs : List Nat) (k : Unit → VOut) : VOut :=
  let bad (r : QReg) : List Nat := r.poison.filter (fun i => cs.contains (r.pairs.getD i (0, 0)).1)
  match (bad ra ++ bad rb).min? with
  | some i => .fail s cPoison (regVal i) none false
  | none => k ()

/-- Value of the present one of two pairs, exactly, in tag `t`: pattern and flags. [log 82 DEDUCED] -/
def widen (t tag pat : Nat) : Nat × Nat :=
  if tag = t then (pat, 0)
  else if isFloat t then roundMode t 0 false 0 0 (floatVal tag pat)
  else (wrapN (intVal tag pat) (cw t), 0)

/-- One pair of a merge, rounded as pair `i` of its result (R161, R340). [log 82 DEDUCED] -/
def mergePair (fmode t : Nat) (op : Combine) (ra rb : QReg) (r : Rnd) (i coord : Nat) : Nat × Rnd :=
  match ra.at coord, rb.at coord with
  | some (x, _), some (y, _) =>
    let (v, fl) := op (asTag t (valOf fmode ra.tag x)) (asTag t (valOf fmode rb.tag y))
    (r.raise fl).conv t i none (satOf fmode) false v
  | some (x, _), none => let (p, fl) := widen t ra.tag x; (p, r.raise fl)
  | none, some (y, _) => let (p, fl) := widen t rb.tag y; (p, r.raise fl)
  | none, none => (0, r)

/-- The pairs of a merge at ascending coordinates. -/
def mergeAll (fmode t : Nat) (op : Combine) (ra rb : QReg) (cs : List Nat) (r : Rnd) : List (Nat × Nat) × Rnd :=
  cs.zipIdx.foldl (fun (acc : List (Nat × Nat) × Rnd) c =>
    let (p, r) := mergePair fmode t op ra rb acc.2 c.2 c.1
    (acc.1 ++ [(c.1, p)], r)) ([], r)

/-- sadd and smul: the result has the pairs at the coordinates `cs` (R340). -/
def mergeForm (d a b : Nat) (s : State) (c : VCtx) (cs : QReg → QReg → List Nat) (op : Combine) : VOut :=
  qPair s a b fun ra rb t =>
  let ks := cs ra rb
  pairsClean s ra rb ks fun _ =>
  let (ps, r) := mergeAll c.fmode t op ra rb ks (rndOf s c false)
  writeQ s d ⟨t, ps, []⟩ (fun s => putRnd s c r)

/-- Coordinates that both registers hold, ascending. -/
def commonCoords (ra rb : QReg) : List Nat := (ra.pairs.map (·.1)).filter (fun k => (rb.at k).isSome)

/-- [log 82 DEDUCED] -/
def saddV (d a b : Nat) (s : State) (c : VCtx) : VOut :=
  mergeForm d a b s c (fun ra rb => unionCoords ra.pairs rb.pairs) (addVals c.fmode)

def smulV (d a b : Nat) (s : State) (c : VCtx) : VOut :=
  mergeForm d a b s c commonCoords (onVals (· * ·) exMul)

/-- The pattern of a value that tag `t` holds exactly. -/
def tagPat (t : Nat) (v : Val) : Nat :=
  match v with
  | .int z => wrapN z (cw t)
  | .flt x => (roundMode t 0 false 0 0 x).1

/-- sdot (R341). -/
def sdotV (d a b : Nat) (s : State) (c : VCtx) : VOut :=
  qPair s a b fun ra rb t =>
  let ks := commonCoords ra rb
  pairsClean s ra rb ks fun _ =>
  let (ps, r) := mergeAll c.fmode t (onVals (· * ·) exMul) ra rb ks (rndOf s c false)
  let n := ps.length
  let (v, fl) := treeSum c.fmode t (addVals c.fmode) (levels n) (ps.map (fun p => some (valOf 0 t p.2)))
  let s := putRnd s c (r.raise fl)
  .done (setX s d (elemWord t ((v.map (tagPat t)).getD 0)))

/-! ### Moves (R342) -/

/-- sfromv. -/
def sfromvV (d v m : Nat) (s : State) (c : VCtx) : VOut :=
  sideCheck s false [v] [m] fun _ =>
  let t := tagOf s v
  if pairValueTag t = false then tagFail s v
  else
    capCheck s c [(v, t)] fun _ =>
    let es := active s.g c m
    opsClean s c m [([v], es)] fun _ => writeQ s d ⟨t, es.map (fun e => (e, elemOf s v e)), []⟩ id

/-- stov. -/
def stovV (d q m : Nat) (s : State) (c : VCtx) : VOut :=
  sideCheck s false [d] [m] fun _ =>
  qSource s q fun r =>
  destK s c d r.tag [] fun dt =>
  maskClean s c m fun _ =>
  let es := active s.g c m
  pairsClean s r QReg.reset es fun _ =>
  let pat (e : Nat) : Nat := ((r.at e).map (·.1)).getD 0
  if dt = r.tag then .done (copyPats s c d dt (es.map (fun e => (e, pat e, false))))
  else .done (writeVals s c d r.tag (es.map (fun e => (e, valOf c.fmode r.tag (pat e)))) 0 none)

/-! ### On the control thread -/

/-- SLD (R338). -/
def execSld (q : Fin 8) (a : Fin 32) (s : State) : Res := controlSpv s (.sld q a) (sldV q a)

/-- SST (R339). -/
def execSst (q : Fin 8) (a : Fin 32) (s : State) : Res := controlSpv s (.sst q a) (sstV q a)

/-- SADD (R340). -/
def execSadd (d a b : Fin 8) (s : State) : Res := controlSpv s (.sadd d a b) (saddV d a b)

/-- SMUL (R340). -/
def execSmul (d a b : Fin 8) (s : State) : Res := controlSpv s (.smul d a b) (smulV d a b)

/-- SDOT (R341, R343). -/
def execSdot (d : Fin 32) (a b : Fin 8) (s : State) : Res := controlSpv s (.sdot d a b) (sdotV d a b)

/-- SFROMV (R342). -/
def execSfromv (d : Fin 8) (v : Fin 32) (k : Fin 8) (s : State) : Res := controlSpv s (.sfromv d v k) (sfromvV d v k)

/-- STOV (R342). -/
def execStov (d : Fin 32) (q : Fin 8) (k : Fin 8) (s : State) : Res := controlSpv s (.stov d q k) (stovV d q k)

/-- SLEN (R342, R343). -/
def execSlen (d : Fin 32) (q : Fin 8) (s : State) : Res :=
  controlSpv s (.slen d q) fun s _ => .done (setX s d (BitVec.ofNat 64 (qregOf s q).pairs.length))

end Sys2Proof.Machine
end

