-- ==== Sys2Proof/Machine/Frame.lean ====
section
/-!
DEFINITION. Save frames: the arena, and the words of a frame (R429 to R431).
-/

namespace Sys2Proof.Machine

/-! ### The arena (R427, R429) -/

/-- Granules that a frame or a stretched group holds (R429, R433). -/
def granuleHeld (s : State) (b n : Nat) : Bool :=
  s.saved.any (fun v => decide (b < v.granule + v.granules) && decide (v.granule < b + n))
    || (allGroups s).any (fun g => g.spill.any (fun k => decide (b ≤ k) && decide (k < b + n)))

/-- The lowest run of `n` free granules. [log 96 DESIGN CHOICE] -/
def freeGranules (s : State) (n : Nat) : Option Nat :=
  let size := if s.io.arenaSize = 0 then 0 else 2 ^ s.io.arenaSize
  let starts := setAdd (s.saved.foldl (fun l v => setAdd l (v.granule + v.granules)) []) 0
  let starts := ((allGroups s).flatMap Group.spill).foldl (fun l k => setAdd l (k + 1)) starts
  starts.find? (fun b => decide (b + n ≤ size) && !granuleHeld s b n)

/-- `n` more granules, the lowest that are free, for the rows of the current group that its lanes do not hold (R433);
none where there are not so many. -/
def takeGranules (s : State) : Nat → Option State
  | 0 => some s
  | n + 1 => (freeGranules s 1).bind (fun b => takeGranules { s with g := { s.g with spill := s.g.spill ++ [b] } } n)

/-- Granules for the rows that a stretched group needs beyond 1,024 in a real lane, 64 bytes of each (R433).
[log 96 DESIGN CHOICE] -/
def spillNeed (s : State) (g : Group) : Nat :=
  match g.stretched with
  | none => 0
  | some l =>
    let real := 8 * (ownedSections s g).length
    ceilDiv ((g.rowMap.length * ceilDiv l (max 1 real) - 1024) * real * 64) 65536

/-- The granules of the current group brought to its need, where the arena has them (R433). -/
def spillHere (s : State) : State :=
  let n := spillNeed s s.g
  (takeGranules { s with g := { s.g with spill := s.g.spill.take n } } (n - s.g.spill.length)).getD s

/-- The same for every stretched group. [log 96 DESIGN CHOICE] -/
def spillAll (s : State) : State :=
  ((allGroups s).filter (fun g => g.stretched.isSome)).foldl (fun s g => onGroup s g.gid spillHere) s

/-- Address of a granule. -/
def granuleAddr (s : State) (b : Nat) : Nat := (s.io.arenaBase + b) * 2 ^ 16

/-! ### Parts of a frame -/

/-- Words padded to a multiple of 64 bytes. -/
def pad64 (ws : List Nat) : List Nat := ws ++ List.replicate ((8 - ws.length % 8) % 8) 0

/-- `n` values of `c` bits each, value `i` at bit i × c; `c` divides 64. -/
def packed (c n : Nat) (f : Nat → Nat) : List Nat :=
  let k := 64 / max 1 c
  (List.range (ceilDiv (n * c) 64)).map (fun w =>
    (List.range k).foldl (fun a i => if w * k + i < n then a + f (w * k + i) % 2 ^ c * 2 ^ (c * i) else a) 0)

/-- One bit for each of `n` things. -/
def bitmap (n : Nat) (f : Nat → Bool) : List Nat := packed 1 n (fun i => b2n (f i))

/-- Register `n` of bank `k` is live: banks x, v, h, m, q, z, b. -/
def Saving.alive (h : Saving) (k n : Nat) : Bool := bit (h.live.getD k 0) n

/-- Live numbers of a bank of `n` registers. -/
def Saving.lives (h : Saving) (k n : Nat) : List Nat := (List.range n).filter (h.alive k)

/-- Every register live. -/
def allLive : List Nat := [2 ^ 32 - 1, 2 ^ 32 - 1, 2 ^ 16 - 1, 255, 255, 255, 255]

/-- Share lanes of the current group, and the lanes that size its frame. -/
def shareLanes (s : State) : Nat := s.g.stretched.getD (8 * (ownedSections s s.g).length)
def frameLanes (s : State) : Nat := if s.g.portable then 32 else shareLanes s

/-- Elements of a vector register that a frame holds (R431). -/
def savedCount (s : State) (v : VReg) : Nat :=
  if cw v.tag = 0 then 0 else if v.td then s.g.vc.vl else frameLanes s * gfRows v.gf * 512 / cw v.tag

/-- X or H section. -/
def scalarPart (vals : List (Nat × Word)) (poison : List Nat) : List Nat :=
  if vals = [] then []
  else pad64 (vals.map (fun v => v.2.toNat)) ++ pad64 (bitmap 64 (fun n => poison.contains n && vals.any (fun v => v.1 == n)))

/-- M section. -/
def maskPart (s : State) (ms : List Nat) : List Nat :=
  let n := frameLanes s * 4096
  ms.flatMap (fun m => pad64 (bitmap n (fun e => maskBit s.g m e))
    ++ pad64 (bitmap (n / 64) (fun k => (List.range 64).any (fun i => maskPoison s m (64 * k + i)))))

/-- V section. -/
def vecPart (s : State) (rs : List Nat) : List Nat :=
  rs.flatMap (fun r =>
    let v := vregOf s.g r
    let n := savedCount s v
    pad64 [cfgWord v + n * 2 ^ 16] ++ (if n = 0 then [] else
      pad64 (packed (cw v.tag) n v.elem)
        ++ (if isMx v.tag then pad64 (packed 8 (ceilDiv n 32) v.scale) else [])
        ++ pad64 (bitmap n (elemPoison s r))))

/-- Q section. -/
def sparsePart (s : State) (qs : List Nat) : List Nat :=
  qs.flatMap (fun q =>
    let r := qregOf s q
    let n := r.pairs.length
    pad64 [n + r.tag * 2 ^ 16] ++ pad64 (packed 32 n (fun i => (r.pairs.getD i (0, 0)).1))
      ++ pad64 (packed (max 8 (cw r.tag)) n (fun i => (r.pairs.getD i (0, 0)).2)) ++ pad64 (bitmap n r.poison.contains))

/-- Z section. -/
def accPart (s : State) (zs : List Nat) : List Nat :=
  zs.flatMap (fun z =>
    let h := handleOf s z
    pad64 [h] ++ (match regionOf s s.g.gid z with
      | some r =>
        let m := hM h
        let n := hN h
        (List.range m).flatMap (fun i => pad64 (packed 32 n (r.elem i)))
          ++ pad64 (bitmap (m * n) (fun k => r.poison.contains (accKey (k / n) (k % n))))
      | none => []))

/-- An entry of a cross-lane queue; `dst` is the destination where the entry names none. -/
def xqWords (dst : Nat) (e : XqEntry) : List Nat := [e.val.toNat, e.tag + e.dest.getD dst * 2 ^ 5]

/-- XQ section: the queue from the control thread, to VP 0 (R144), the lane queues in ascending share lane, the queue to
the control thread. -/
def xqPart (s : State) : List Nat :=
  let lanes := (List.range 64).flatMap (fun l => (s.g.xq.filter (fun e => e.1 == l)).map (·.2))
  pad64 [s.g.xqTo.length + lanes.length + s.g.xqFrom.length]
    ++ pad64 (s.g.xqTo.flatMap (xqWords 0) ++ lanes.flatMap (xqWords 0x3FFFF) ++ s.g.xqFrom.flatMap (xqWords 0x3FFFF))

/-- One binding. -/
def bindingPart (s : State) (b : Binding) : List Nat :=
  let w0 (kind q : Nat) : Nat := b.reg + kind * 2 ^ 5 + q * 2 ^ 8 + b2n (s.g.streamEnd.contains b.reg) * 2 ^ 11
  pad64 (match b.tgt with
    | .queueRead q => [w0 2 q]
    | .queueWrite q => [w0 3 q]
    | .stream d pos _ => [w0 (b2n d.write) 0, pos, d.base.toNat, d.stride.toNat,
        b2n d.spad * 2 ^ 63 + b2n d.write * 2 ^ 62 + d.count, d.chunk])

/-- One strip queue; element e of an entry lies in lane e mod P (R123, R140). -/
def stripPart (s : State) (q : StripQ) : List Nat :=
  let p := max 1 (lanesV s s.g)
  pad64 [q.q + q.entries.length * 2 ^ 8] ++ q.entries.flatMap (fun e =>
    match e with
    | .endMark => pad64 [0, 0] ++ List.replicate (8 * p) 0
    | .data n tag vals => pad64 [n, tag] ++ (List.range p).flatMap (fun l =>
        pad64 ((packed (max 1 (cw tag)) (512 / max 1 (cw tag)) (fun i => (vals.getD (i * p + l) (0, false)).1)).take 8)))

/-- STREAM section. -/
def streamPart (s : State) (strips : List StripQ) : List Nat :=
  (List.range 32).flatMap (fun r => (s.g.binds.filter (fun b => b.reg == r)).flatMap (bindingPart s))
    ++ strips.flatMap (stripPart s)

/-- One VP that has not rejoined. -/
def vpWords (v : Vp) : List Nat :=
  match v.st with
  | .lockstep => [v.idx, 0]
  | .indep aib _ _ pos | .away aib pos => [v.idx + 1 * 2 ^ 18 + pos * 2 ^ 20, aib]
  | .stopped aib pos cause held => [v.idx + 2 * 2 ^ 18 + pos * 2 ^ 20 + (cause.map (·.1)).getD 0 * 2 ^ 25 + b2n held * 2 ^ 33, aib]

/-- BFAIL section. -/
def failPart (g : Group) : List Nat :=
  (List.range 8).flatMap (fun k =>
    match (g.tok.toList.getD k Token.reset).fail with
    | some f => pad64 [k + f.cause * 2 ^ 8, f.val.toNat]
    | none => [])

/-! ### The frame -/

/-- LIVE: bytes 0 to 15 of the entry (R360), all ones in a full save. -/
def liveWords (h : Saving) : List Nat :=
  if h.full then [2 ^ 64 - 1, 2 ^ 64 - 1]
  else
    let l (k : Nat) : Nat := h.live.getD k 0
    [l 0 + l 1 * 2 ^ 32,
     l 2 + l 3 * 2 ^ 16 + l 4 * 2 ^ 24 + l 5 * 2 ^ 32 + l 6 * 2 ^ 40 + (b2n h.streams * 2 + b2n h.resize) * 2 ^ 48]

/-- The sections after the header (R431). -/
def framePayload (s : State) (h : Saving) (strips : List StripQ) : List Nat :=
  scalarPart ((h.lives 0 32).filter (· != 0) |>.map (fun n => (n, getX s n))) s.g.xPoison
    ++ scalarPart ((h.lives 2 16).map (fun n => (n, s.g.h.toList.getD n 0))) s.g.hPoison
    ++ maskPart s ((h.lives 3 8).filter (· != 0))
    ++ vecPart s (h.lives 1 32)
    ++ sparsePart s (h.lives 4 8)
    ++ accPart s (h.lives 5 8)
    ++ pad64 (packed 32 (frameLanes s) (fun l => tabGet s.g.vc.lfsr l (lfsrSeed s.g.vc.seed l)))
    ++ xqPart s
    ++ (if h.streams then streamPart s strips else [])
    ++ (if h.full then pad64 (s.g.vps.flatMap vpWords) else [])
    ++ failPart s.g

/-- The header (R430). -/
def frameHeader (s : State) (h : Saving) (len : Nat) : List Nat :=
  let vc := s.g.vc
  let regs (ns : List Nat) : List Nat := ns.map (fun n => (sysRead s n).toNat)
  let cfg := (List.range 8).map (fun k => (List.range 4).foldl (fun a i => a + cfgWord (vregOf s.g (4 * k + i)) * 2 ^ (16 * i)) 0)
  [2 ^ 56 + b2n h.full * 2 ^ 51 + b2n h.streams * 2 ^ 50 + b2n h.resize * 2 ^ 49 + b2n s.g.portable * 2 ^ 48
      + (coreOf s s.g.pl.core).lanemod * 2 ^ 41 + shareLanes s * 2 ^ 34 + vc.vgw * 2 ^ 31 + vc.vgg * 2 ^ 29,
    len, h.resume.toNat, h.spidx]
    ++ liveWords h
    ++ regs [0x000, 0x001, 0x002, 0x003, 0x012, 0x020, 0x021, 0x022, 0x030, 0x031, 0x032, 0x040, 0x041,
        0x050, 0x051, 0x052, 0x053, 0x054, 0x058, 0x059, 0x05A, 0x05B,
        0x060, 0x061, 0x062, 0x063, 0x064, 0x065, 0x066, 0x067, 0x070, 0x072, 0x073, 0x078, 0x079, 0x015]
    ++ cfg ++ List.replicate 14 0

/-- The words of the current group's frame. [log 96 DESIGN CHOICE] -/
def frameWords (s : State) (h : Saving) (strips : List StripQ) : List Nat :=
  let body := framePayload s h strips
  frameHeader s h (512 + 8 * body.length) ++ body

/-! ### What a line of a frame holds (R431) -/

/-- Registers, or elements of one, whose values a 64-byte line of a frame holds: first and number. -/
inductive FramePart where
  | x (rs : List Nat)
  | h (rs : List Nat)
  | m (m k n : Nat)
  | v (r e n : Nat)
  | q (q i n : Nat)
  | z (z : Nat) (keys : List Nat)
  | other
  deriving DecidableEq, Repr

/-- Lines of `k` things each, `n` in all: `f` says what the line holds of them, from its first and their number. -/
def frameLines (n k : Nat) (f : Nat → Nat → FramePart) : List FramePart :=
  (List.range (ceilDiv n k)).map (fun j => f (j * k) (min k (n - j * k)))

/-- Lines of an X or H section. -/
def scalarLines (rs : List Nat) (f : List Nat → FramePart) : List FramePart :=
  if rs = [] then [] else frameLines rs.length 8 (fun i n => f ((rs.drop i).take n)) ++ [f rs]

/-- Lines of the frame in its order, up to the Z section; every later line holds something else. -/
def frameParts (s : State) (h : Saving) : List FramePart :=
  let bitsM := frameLanes s * 4096
  List.replicate 8 .other
    ++ scalarLines ((h.lives 0 32).filter (· != 0)) .x
    ++ scalarLines (h.lives 2 16) .h
    ++ ((h.lives 3 8).filter (· != 0)).flatMap (fun m =>
        frameLines bitsM 512 (fun e n => .m m (e / 64) (n / 64)) ++ frameLines (bitsM / 64) 512 (.m m))
    ++ (h.lives 1 32).flatMap (fun r =>
        let v := vregOf s.g r
        let n := savedCount s v
        .other :: (frameLines n (512 / max 1 (cw v.tag)) (.v r) ++ (if isMx v.tag then frameLines n 2048 (.v r) else [])
          ++ frameLines n 512 (.v r)))
    ++ (h.lives 4 8).flatMap (fun q =>
        let r := qregOf s q
        let n := r.pairs.length
        .other :: (frameLines n 16 (.q q) ++ frameLines n (512 / max 8 (cw r.tag)) (.q q) ++ frameLines n 512 (.q q)))
    ++ (h.lives 5 8).flatMap (fun z =>
        let k := handleOf s z
        let n := hN k
        .other :: (if (regionOf s s.g.gid z).isNone then [] else
          (List.range (hM k)).flatMap (fun i => frameLines n 16 (fun j c => .z z ((List.range c).map (fun t => accKey i (j + t)))))
            ++ frameLines (hM k * n) 512 (fun a c => .z z ((List.range c).map (fun t => accKey ((a + t) / n) ((a + t) % n))))))

end Sys2Proof.Machine
end

