-- ==== Sys2Proof/Machine/Save.lean ====
section
/-!
DEFINITION. Saving groups: safe points, full saves and halts, and the writing of frames (R129, R136, R163, R270, R316,
R361, R362, R403, R422, R426, R429 to R436).
-/

namespace Sys2Proof.Machine

/-! ### Names of groups -/

/-- A waiter whose group `a` is renamed `b`. -/
def renameWaiter (a b : Nat) (w : Waiter) : Waiter :=
  match w with
  | .group g => if g = a then .group b else w
  | .vp g v => if g = a then .vp b v else w
  | .elem g e => if g = a then .elem b e else w
  | _ => w

/-- Group `a` is called `b` wherever the device names it. -/
def renameGid (s : State) (a b : Nat) : State :=
  let r (x : Nat) : Nat := if x = a then b else x
  let marks (k : Barrier) : Barrier := if k.marks.contains a then { k with marks := setAdd (setDel k.marks a) b } else k
  { s with
    teams := s.teams.map (fun t => { t with members := t.members.map r, bars := t.bars.map marks })
    clusters := s.clusters.map (fun c => { c with bars := c.bars.map marks })
    eng := { s.eng with
      xfers := s.eng.xfers.map (fun x => { x with gid := r x.gid })
      regions := s.eng.regions.map (fun x => { x with gid := r x.gid })
      strips := s.eng.strips.map (fun x => { x with owner := r x.owner }) }
    ra := { s.ra with
      entries := s.ra.entries.map (fun e => { e with gid := r e.gid })
      closes := s.ra.closes.map (fun c => { c with gid := if c.gid = some a then some b else c.gid }) }
    futs := s.futs.map (fun f => { f with who := renameWaiter a b f.who }) }

/-- The slot number that stands for a saved group, whose frame begins at granule `b`: no slot of a core has it. -/
def savedSlot (b slot : Nat) : Nat := 4096 * (b + 1) + slot

/-- Owner of a core's sections: `secs` to the slot, and no others (R134). -/
def setSections (s : State) (core slot : Nat) (secs : List Nat) : State :=
  let k := coreOf s core
  setCore s core { k with lanepart := k.lanepart.mapIdx (fun i o =>
    if secs.contains i then some slot else if o == some slot then none else o) }

/-! ### Deciding on a save -/

/-- A full save (R426): every register, RESUME and what follows. -/
def fullSaving (resume : Word) (goal : SaveGoal) : Saving := ⟨true, allLive, 0, resume, false, false, true, 0, goal, false⟩

/-- The save is of a safe point at which the share may change (R129, R360). -/
def Saving.resizes (h : Saving) : Bool := !h.full && h.resize && !h.split

/-- What a full save waits for has completed: accepted and queued work of the engines, the lockstep body, entries for
strip queues, and a scope close or a declaration of the group (R276, R277, R361, R426). What stands behind an abandoned
wait, or in the queue behind VPs that have not rejoined, is kept with the group. [log 95 DESIGN CHOICE] -/
def saveQuiet (s : State) : Bool :=
  (s.g.abandoned || (s.g.aib.isNone && s.g.vps.all (fun v => v.st != .lockstep) && (s.g.vq == [] || s.g.vps != [])))
    && decide (s.g.appends = []) && enginesIdle s && s.g.waits.rdecl.isNone
    && !(s.ra.closes.any (fun c => c.gid == some s.g.gid))

/-- The elements taken off strip queues for an instruction that is to be executed again go back. -/
def unfeed (s : State) : State :=
  s.g.fed.foldl (fun s x =>
    match boundTo s.g x.1 with
    | some (.queueRead q) => updStrip s s.g.pl.core q (fun y => { y with entries := x.2 :: y.entries })
    | _ => s) { s with g := { s.g with fed := [] } }

/-- The current group's vector future wait is abandoned: its instruction is to be executed again from its start, at the
head of the queue or in the body, and `hold` says that what stands there waits for the group's resumption. One that has
ended, and has yet to trap, is kept (R270, R426). [log 95 DESIGN CHOICE] -/
def dropFldv (s : State) (hold : Bool) : State :=
  match s.g.fldv with
  | none => s
  | some r =>
    if r.ended then s
    else
      let g := { s.g with fldv := none, abandoned := s.g.abandoned || hold }
      { s with g := match r.entry with
        | some e => if r.fail.isSome then { g with abandoned := s.g.abandoned || (hold && g.vq != []) } else { g with vq := e :: g.vq }
        | none => { g with aib := g.aib.map (fun a => if r.fail.isSome then a else { a with pos := a.pos - 1 }) } }

/-- The current group's future waits are abandoned before they have performed anything (R270, R413, R426).
[log 95 DESIGN CHOICE] -/
def abandon (s : State) (hold : Bool) : State :=
  let s := dropFldv (cancelFuts s s.g.gid) hold
  unfeed { s with g := { s.g with external := false } }

/-- The current group's waits are abandoned for a save (R270, R345, R426). [log 95 DESIGN CHOICE] -/
def dropWaits (s : State) : State :=
  let s := abandon s true
  let w := s.g.waits
  { s with
    g := { s.g with waits := { Waits.none with bwait := w.bwait, bwaitm := w.bwaitm, rdecl := w.rdecl } }
    stalled := false }

/-- A save decided on. -/
def beginSave (s : State) (h : Saving) : State := { s with g := { s.g with saving := some h, atSpt := none }, stalled := false }

/-! ### Frames -/

/-- What the current group leaves for its restoration: its registers, regions and strip queues, and the places of
poison (R431). [log 24 DESIGN CHOICE] -/
def packSaved (s : State) (h : Saving) (b : Nat) (ws : List Nat) (held : Bool) : Saved :=
  let me := s.g.gid
  let clean := s.granules = []
  let vp := if clean then [] else (h.lives 1 32).flatMap (fun r =>
    ((List.range (savedCount s (vregOf s.g r))).filter (elemPoison s r)).map (fun e => (r, e)))
  let mp := if clean then [] else ((h.lives 3 8).filter (· != 0)).flatMap (fun m =>
    ((List.range (frameLanes s * 64)).filter (fun k => (List.range 64).any (fun i => maskPoison s m (64 * k + i)))).map
      (fun k => (m, k)))
  { group := { s.g with
      saving := none, atSpt := none, request := none, halt := none, external := false, toll := 0, spill := [] }
    how := h
    lanes := shareLanes s
    lanemod := (coreOf s s.g.pl.core).lanemod
    held := held
    granule := b
    granules := ceilDiv (8 * ws.length) 65536
    addr := granuleAddr s b
    frame := ws
    regions := s.eng.regions.filter (fun r => r.gid == me && h.alive 5 r.z)
    strips := s.eng.strips.filter (fun q => q.owner == me)
    vPoison := vp
    mPoison := mp }

/-- What the core holds for the current group is released: regions, strip queues, leases (R316, R361). -/
def releaseCore (s : State) : State :=
  let me := s.g.gid
  dropLeaves { s with eng := { s.eng with
    regions := s.eng.regions.filter (fun r => r.gid != me)
    strips := s.eng.strips.filter (fun q => q.owner != me) } } (fun l => l.gid == me)

/-- The current group leaves its slot, and is from now on named by its frame. -/
def vacate (s : State) (v : Saved) : State :=
  let me := s.g.gid
  let pl := { v.group.pl with slot := savedSlot v.granule v.group.pl.slot }
  let v := { v with group := { v.group with pl := pl } }
  let s := returnSections (releaseCore s)
  let s := renameGid s me v.group.gid
  slotFreed { s with saved := s.saved ++ [v], g := { s.g with live := false, saving := none, atSpt := none, halt := none, spill := [] } }

/-! ### Restoration (R129, R316, R362, R432 to R435) -/

/-! #### The frame read back (R429, R498) -/

/-- The lines of a frame as memory holds them: their words, as one number, and poison. -/
def readFrame (s : State) (pa : Nat) : Nat → List (Nat × Bool) × State
  | 0 => ([], s)
  | n + 1 =>
    let (ls, s) := readFrame s pa n
    let (v, bad, s) := sliceRead s (pa + 64 * n) 64
    (ls ++ [(v, bad)], s)

/-- The lines of a frame as they were written. -/
def frameLinesOf (ws : List Nat) : List Nat :=
  (List.range (ceilDiv ws.length 8)).map (fun i => ((ws.drop (8 * i)).take 8).foldr (fun w a => w % 2 ^ 64 + 2 ^ 64 * a) 0)

/-- Tags that a register can hold. -/
def tagCodes : List Nat := (List.range 32).filter (fun t => t == 0 || decide (0 < cw t))

/-- A sparse register of undefined contents: ascending coordinates and values. [log 24 DESIGN CHOICE] -/
def QReg.undef (n : Nat) : QReg :=
  let len := Config.freeElem n 0 % 4097
  { tag := tagCodes.getD (Config.freeElem n 1 % tagCodes.length) 0
    pairs := (List.range len).foldl (fun l i =>
      l ++ [(((l.getLast?.map (fun p : Nat × Nat => p.1 + 1)).getD 0) + Config.freeElem n (2 * i + 2) % 2 ^ 20, Config.freeElem n (2 * i + 3))]) []
    poison := [] }

/-- The saved group in the current group's place, whose frame has been written to: every register that the frame
restores is undefined (R2, R429). [log 24 DESIGN CHOICE] -/
def loseFrame (s : State) (v : Saved) : Saved × State :=
  let f := s.freeCtr
  let regs := [0x000, 0x001, 0x002, 0x003, 0x020, 0x021, 0x022, 0x030, 0x031, 0x032, 0x040, 0x041, 0x050, 0x051, 0x052, 0x053,
    0x054, 0x058, 0x059, 0x05A, 0x05B, 0x070, 0x072, 0x073, 0x078, 0x079]
  let s := regs.zipIdx.foldl (fun s r => sysWrite s r.1 (Config.freeWord (f + r.2))) { s with freeCtr := f + 256 }
  let g := s.g
  let tokOfFree (i : Nat) (t : Token) : Token :=
    { t with
      done := (Config.freeWord (f + 32 + i)).toNat % 65536
      opn := (Config.freeWord (f + 40 + i)).toNat % 65536
      fail := t.fail.map (fun r => { r with cause := Config.choice (f + i) % 256, val := Config.freeWord (f + 48 + i) }) }
  let lanes := List.range (if g.portable then 32 else v.lanes)
  let g := { g with
    x := g.x.mapIdx (fun i _ => Config.freeWord (f + 64 + i))
    xPoison := []
    h := g.h.mapIdx (fun i _ => Config.freeWord (f + 96 + i))
    hPoison := []
    v := g.v.mapIdx (fun i r => { (r.undef (f + 112 + i)) with
      tag := tagCodes.getD (Config.freeElem (f + 112 + i) (2 ^ 40) % tagCodes.length) 0
      gf := Config.freeElem (f + 112 + i) (2 ^ 40 + 1) % 4
      td := Config.freeElem (f + 112 + i) (2 ^ 40 + 2) % 2 == 1
      pin := Config.freeElem (f + 112 + i) (2 ^ 40 + 3) % 2 == 1 })
    m := g.m.mapIdx (fun i _ => ⟨f + 144 + i, []⟩)
    q := g.q.mapIdx (fun i _ => QReg.undef (f + 152 + i))
    tok := g.tok.mapIdx tokOfFree
    tr := { g.tr with lev := Config.choice (f + 16) % 2 == 1 }
    vc := { g.vc with
      secrole := (Config.freeWord (f + 56)).toNat % 256
      lfsr := tabPutAll [] (lanes.map (fun l => (l, Config.freeElem (f + 57) l % 2 ^ 32))) }
    rowMap := [] }
  ({ v with
      group := g
      how := { v.how with resume := Config.freeWord (f + 58) &&& ~~~3#64 }
      regions := v.regions.mapIdx (fun i r => { r with rest := .free (f + 160 + i), elems := [], poison := [] })
      vPoison := []
      mPoison := [] },
   { s with g := g })

/-- Registers whose values lie in a poisoned line of the frame are restored poisoned; where the line holds another part
of a register, all that the frame restores is undefined (R425, R429). [log 24 DESIGN CHOICE] -/
def poisonPart (v : Saved) (p : FramePart) : Saved :=
  let g := v.group
  let run (k n : Nat) : List Nat := (List.range n).map (k + ·)
  match p with
  | .x rs => { v with group := { g with xPoison := rs.foldl setAdd g.xPoison } }
  | .h rs => { v with group := { g with hPoison := rs.foldl setAdd g.hPoison } }
  | .m m k n => { v with mPoison := v.mPoison ++ (run k n).map (fun k => (m, k)) }
  | .v r e n => { v with vPoison := v.vPoison ++ (run e n).map (fun e => (r, e)) }
  | .q q i n =>
    let r := g.q.toList.getD q QReg.reset
    { v with group := { g with q := g.q.setIfInBounds q { r with poison := (run i n).foldl setAdd r.poison } } }
  | .z z keys => { v with regions := v.regions.map (fun r => if r.z = z then { r with poison := keys.foldl setAdd r.poison } else r) }
  | .other => v

/-- The frame of the saved group in the current group's place read back: what is restored is what the frame holds, where
it holds what the save wrote (R429, R498). [log 24 DESIGN CHOICE] -/
def readBack (s : State) (v : Saved) (parts : List FramePart) : Saved × State :=
  if paKind s v.addr ≠ .hbm then (v, s)
  else
    let (ls, s) := readFrame s v.addr (ceilDiv v.frame.length 8)
    let bad := ls.zipIdx.filterMap (fun l => if l.1.2 then some (parts.getD l.2 .other) else none)
    if ls.map (·.1) ≠ frameLinesOf v.frame ∨ bad.contains .other then loseFrame s v
    else
      let v := bad.foldl poisonPart v
      (v, { s with g := { v.group with pl := s.g.pl, request := s.g.request } })

/-- Elements of a saved register that the frame holds (R431). [log 96 DESIGN CHOICE] -/
def frameCount (v : Saved) (r : VReg) : Nat :=
  if cw r.tag = 0 then 0
  else if r.td then v.group.vc.vl
  else (if v.group.portable then 32 else v.lanes) * gfRows r.gf * 512 / cw r.tag

/-- The first `n` elements kept; the others are undefined. -/
def VReg.keep (v : VReg) (n seed : Nat) : VReg :=
  { v with
    seed := seed
    elems := v.elems.filter (fun kv => decide (kv.1 < n))
    scales := v.scales.filter (fun kv => decide (kv.1 * 32 < n)) }

/-- Scalar and shared registers restored; dead ones are undefined. -/
def restoreScalars (s : State) (h : Saving) : State :=
  let f := s.freeCtr
  { s with
    freeCtr := f + 48
    g := { s.g with
      x := s.g.x.mapIdx (fun i v => if h.alive 0 i then v else Config.freeWord (f + i))
      xPoison := s.g.xPoison.filter (h.alive 0)
      h := s.g.h.mapIdx (fun i v => if h.alive 2 i then v else Config.freeWord (f + 32 + i))
      hPoison := s.g.hPoison.filter (h.alive 2) } }

/-- Vector registers restored under the lanes that the group now has, with their rows and poison. -/
def restoreVectors (s : State) (v : Saved) : State :=
  (List.range 32).foldl (fun s r =>
    let old := vregOf s.g r
    if v.how.alive 1 r then
      let n := min (frameCount v old) (capacity s r old.tag old.gf)
      let new := old.keep n s.freeCtr
      let lanes := sideLanes s s.g (vSide r)
      let s := { s with
        freeCtr := s.freeCtr + 1
        g := { s.g with
          v := s.g.v.setIfInBounds r new
          rowMap := setRows s.g.rowMap r (rowsNeed old.tag old.gf old.td lanes s.g.vc.vl) } }
      if s.granules = [] ∧ v.vPoison = [] then s
      else
        let gran (e : Nat) (sc : Bool) : Nat :=
          let (lam, k, b) := place old.tag lanes e
          granOf s r (vSide r) lam k (if sc then 8 else b / 64)
        let ws := (List.range n).map (fun e => (gran e false, cw old.tag, v.vPoison.contains (r, e)))
        let sc := if isMx old.tag then (List.range (ceilDiv n 32)).map (fun j => (gran (j * 32) true, 4 * cw old.tag, false)) else []
        { s with granules := granuleWrites (granuleWrites s.granules ws) sc }
    else
      { s with freeCtr := s.freeCtr + 1
               g := { s.g with v := s.g.v.setIfInBounds r { VReg.reset with seed := s.freeCtr } } })
    { s with g := { s.g with rowMap := [] } }

/-- Mask registers restored, with their poison. -/
def restoreMasks (s : State) (v : Saved) : State :=
  (range 1 8).foldl (fun s m =>
    let old := mregOf s.g m
    let n := 4096 * min (if v.group.portable then 32 else v.lanes) (sideLanes s s.g (decide (m < 4)))
    let live := v.how.alive 3 m
    let bitsOf := if live then old.bits.filter (fun kv => decide (kv.1 < n)) else []
    let s := { s with
      freeCtr := s.freeCtr + 1
      g := { s.g with m := s.g.m.setIfInBounds m ⟨s.freeCtr, bitsOf⟩, mPend := if live then s.g.mPend else setDel s.g.mPend m } }
    if !live || (decide (s.granules = []) && decide (v.mPoison = [])) then s
    else
      let ws := (List.range n).map (fun e => (maskGran s m e, 1, v.mPoison.contains (m, e / 64)))
      { s with granules := granuleWrites s.granules ws }) s

/-- Sparse registers restored, with their rows. -/
def restoreSparse (s : State) (h : Saving) : State :=
  (List.range 8).foldl (fun s q =>
    if h.alive 4 q then
      let r := qregOf s q
      let need := if r.tag = 0 then 0 else pairRows (sideLanes s s.g false) r.tag r.pairs.length
      { s with g := { s.g with rowMap := setRows s.g.rowMap (32 + q) need } }
    else { s with g := { s.g with q := s.g.q.setIfInBounds q QReg.reset } }) s

/-- Tokens restored: those live or with a failure held (R362). -/
def restoreTokens (s : State) (h : Saving) : State :=
  { s with g := { s.g with tok := s.g.tok.mapIdx (fun k t => if h.alive 6 k || t.fail.isSome then t else Token.reset) } }

/-- A run claimed for each region of the frame; none where one must wait (R316). A handle that no run can hold becomes
0, with a POISON record of storage 3. -/
def restoreRegions (s : State) : List Region → Option State
  | [] => some s
  | r :: rest =>
    let lm := (coreOf s s.g.pl.core).lanemod
    let h := handleOf s r.z
    let words := max (hWords h) (hNeed lm h)
    if 256 < words then
      restoreRegions (recordG (setZ s r.z 0) 0x06 0 [3 + s.g.pl.core * 2 ^ 8]) rest
    else
      match freeRun s s.g.pl.core words with
      | none => none
      | some b =>
        let r' := { r with core := s.g.pl.core, gid := s.g.gid, base := b, words := words }
        let h' := bits h 39 0 + words * 2 ^ 40 + b * 2 ^ 49
        restoreRegions (setZ { s with eng := { s.eng with regions := s.eng.regions ++ [r'] } } r.z (BitVec.ofNat 64 h')) rest

/-- Lane counts after a resumption: the count kept while stretched, and at a resizable safe point R129. -/
def resumeLanes (s : State) (v : Saved) : State :=
  let n := 8 * (ownedSections s s.g).length
  if v.how.resizes then
    let s := { s with g := { s.g with stretched := none } }
    if n = v.lanes then s
    else
      let vc := s.g.vc
      let vmax := vlmaxOf (lanesV s s.g) vc.vgg vc.vgw
      { s with g := { s.g with vc := { vc with vlmax := vmax, vl := min vc.vl vmax, grantgen := (vc.grantgen + 1) % 2 ^ 32 } } }
  else { s with g := { s.g with stretched := if n = v.lanes then none else some v.lanes } }

/-- Lane queues under the lanes that the group now has: an entry lies in the queue that leaves the share lane of the VP
below its destination (R144, R146). [log 101 DESIGN CHOICE] -/
def resumeXq (s : State) : State :=
  let l := max 1 (sideLanes s s.g false)
  { s with g := { s.g with xq := s.g.xq.map (fun x => ((match x.2.dest with
    | some d => (d - 1) % l
    | none => x.1 % l), x.2)) } }

/-- LFSRs of share lanes that both counts have; the others are seeded (R163). -/
def resumeLfsr (s : State) (v : Saved) : State :=
  let n := if v.group.portable then 32 else min v.lanes (shareLanes s)
  { s with g := { s.g with vc := { s.g.vc with lfsr := s.g.vc.lfsr.filter (fun kv => decide (kv.1 < n)) } } }

/-- Read-ahead of streams discarded (R431). -/
def Binding.fresh (b : Binding) : Binding :=
  match b.tgt with
  | .stream d pos _ => { b with tgt := .stream d pos [] }
  | _ => b

/-- Where a resumed group goes on (R362, R435). -/
def resumeAt (g : Group) (h : Saving) : Group :=
  if h.full then { g with
    pc := h.resume, flow := .jumped, convoyLen := 0, abandoned := false
    vps := g.vps.map (fun v => match v.st with
      | .indep aib _ _ pos => { v with st := .away aib pos }
      | _ => v) }
  else { g with
    pc := g.codeBase + BitVec.ofNat 64 h.stub, spcount := 0, flow := .jumped, convoyLen := 0
    tr := { g.tr with lev := false } }

/-- The saved group in the current group's place resumes: core, slot and sections are its own already. None where the
restoration waits. [log 101 DESIGN CHOICE] -/
def resumeHere (s : State) (v : Saved) : Option State :=
  let h := v.how
  let s := resumeLanes s v
  let s := restoreScalars s h
  let s := restoreVectors s v
  let s := restoreMasks s v
  let s := restoreSparse s h
  let s := restoreTokens s h
  let s := { s with g := { s.g with
    z := s.g.z.mapIdx (fun z w => if h.alive 5 z then w else 0)
    windows := s.g.windows.map (fun w => if h.alive 5 w.z then w else { w with z := 8 })
    binds := s.g.binds.map Binding.fresh } }
  (restoreRegions s v.regions).map fun s =>
    let me := s.g.gid
    let s := { s with eng := { s.eng with
      strips := s.eng.strips ++ v.strips.map (fun q => { q with core := s.g.pl.core, owner := me }) } }
    let s := resumeLfsr (resumeXq s) v
    { s with g := { resumeAt s.g h with acq := s.clock, mfAcq := s.g.mfence } }

/-! ### Writing a frame (R422, R428, R429) -/

/-- Bytes written at rising physical addresses of the arena; what lies outside local HBM4 is not written.
[log 24 DESIGN CHOICE, 96 DESIGN CHOICE] -/
def writeFrame (s : State) (b : Nat) (ws : List Nat) : State :=
  let pa := granuleAddr s b
  if paKind s pa = .hbm then writeWords s pa ws else s

/-- The save of the current group performed, its frame at granule `b` (R403, R422, R429). -/
def completeSave (s : State) (h : Saving) (b : Nat) (ws : List Nat) : State :=
  let held := (s.g.request.map Request.held).getD false
  let s := acquired (writeFrame s b ws)
  match h.goal with
  | .stay secs =>
    let v := packSaved s h b ws false
    let parts := frameParts s h
    let s1 := setSections (releaseCore s) s.g.pl.core s.g.pl.slot secs
    let s1 := { s1 with g := { v.group with request := s.g.request.bind (fun r => { r with yields := [] }.left) } }
    let (v', s1) := readBack s1 v parts
    (match resumeHere s1 v' with
      | some s2 => s2
      | none => vacate s v)
  | .halt cause val epc =>
    let v := packSaved s h b ws held
    let s := recordG s 0x0C cause [epc.toNat, val.toNat, granuleAddr s b]
    let s := updLaunch (countExit s) s.g.launch (fun l => { l with haltCause := l.haltCause <|> some cause })
    vacate (leaveTeam s) v
  | _ => vacate s (packSaved s h b ws held)

/-- The current group's save performed, or left to wait for granules with one SAVE_WAIT record (R429). A kill needs no
frame (R428). -/
def writeSave (s : State) (h : Saving) : State :=
  match h.goal with
  | .kill => freeGroup (leaveTeam s)
  | goal =>
    let h := if h.full ∧ goal = .leave then { h with resume := s.g.pc } else h
    let strips := s.eng.strips.filter (fun q => q.owner == s.g.gid)
    let ws := frameWords s h strips
    match freeGranules s (ceilDiv (8 * ws.length) 65536) with
    | some b => completeSave s h b ws
    | none =>
      if h.waited then s
      else
        let s := recordG s 0x0D 0 [8 * ws.length]
        { s with g := { s.g with saving := some { h with waited := true } } }

/-- SAVE_FRAME_WRITE (R422, R428, R429): the save or the halt of the message's group. -/
def execSaveFrameWrite (s : State) : Res :=
  onMsgGroup s fun s =>
    let s := match s.g.halt, s.g.saving with
      | some (cause, val, epc), none =>
        let t := dropWaits s
        if saveQuiet t then beginSave t (fullSaving epc (.halt cause val epc)) else t
      | _, _ => s
    match s.g.saving with
    | some h =>
      if h.goal = .kill then (if enginesIdle s then writeSave s h else s)
      else
        let t := abandon s true
        if saveQuiet t then writeSave t h else t
    | none => s

/-! ### SAFE_POINT_SAVE (R361, R403) -/

/-- A safe-point entry's fields (R360); none where a reserved field is set or STUBOFF is out of range. -/
def entrySaving (s : State) (v spidx : Nat) (pc : Word) : Option Saving :=
  let stub := bits v 167 128
  if bits v 119 114 ≠ 0 ∨ bits v 127 120 ≠ 0 ∨ v / 2 ^ 168 ≠ 0 ∨ stub % 4 ≠ 0 ∨ s.g.codeLen ≤ stub then none
  else if bit v 113 = false ∧ (s.g.binds ≠ [] ∨ s.eng.strips.any (fun q => q.owner == s.g.gid)) then none
  else some ⟨false, [bits v 31 0, bits v 63 32, bits v 79 64, bits v 87 80, bits v 95 88, bits v 103 96, bits v 111 104],
    spidx, pc, bit v 112, isSplit s s.g, bit v 113, stub, .leave, false⟩

/-- The entry of a safe point read (R361, R478): none where it is bad, or nothing yet while its section has not
arrived. [log 99 DEDUCED, 100 DEDUCED] -/
def readEntry (s : State) (idx : Nat) (pc : Word) : Option (Option Saving) × State :=
  let va := ((sptOf s).1.toNat + 64 * idx) % 2 ^ 64
  match sectionGate s s.g.launch 2 va with
  | .wait => (none, s)
  | .bad => (some none, s)
  | .go =>
    match translate s (whoG s) kRead va with
    | (.error f, s) => (some none, xfaultRecord s (whoG s) kRead va f)
    | (.ok pa, s) =>
      let (v, bad, s) := busRead s (whoG s).exact pa 64
      (some (if bad then none else entrySaving s v idx pc), s)

/-- The group's lowest SECMIN sections, which it keeps when it yields. [log 99 DEDUCED] -/
def keptSections (s : State) : List Nat :=
  (ownedSections s s.g).take (((myLaunch s).map Launch.secMin).getD 0)

/-- What the Reeve decides at a safe point whose entry is `e` (R361, R403). [log 99 DEDUCED, 100 DEDUCED] -/
def decideSave (s : State) (idx : Nat) (e : Option Saving) : State :=
  let grow := growth s
  match s.g.request with
  | some r =>
    match e with
    | none =>
      let va := ((sptOf s).1.toNat + 64 * idx) % 2 ^ 64
      beginSave (recordG s 0x08 0 [idx, va]) (fullSaving s.g.pc .leave)
    | some h =>
      if r.saves || r.held then beginSave s h
      else if h.resizes && keptSections s ≠ [] then beginSave s { h with goal := .stay (keptSections s) }
      else beginSave s (fullSaving s.g.pc .leave)
  | none =>
    match e with
    | some h =>
      if h.resizes && grow ≠ [] then beginSave s { h with goal := .stay (ownedSections s s.g ++ grow) }
      else { s with g := { s.g with atSpt := none } }
    | none => { s with g := { s.g with atSpt := none } }

/-- SAFE_POINT_SAVE (R361, R403): the safe point of the message's group, once every instruction and every engine
operation of its batches has completed. It is none when a VP has become independent or stopped meanwhile (R312). -/
def execSafePointSave (s : State) : Res :=
  onMsgGroup s fun s =>
    match s.g.atSpt with
    | none => s
    | some (idx, pc) =>
      if s.g.vps.any (fun v => v.st != .lockstep) then { s with g := { s.g with atSpt := none, external := false } }
      else if !saveQuiet s || s.g.fldv.isSome || s.g.saving.isSome then s
      else
        match readEntry s idx pc with
        | (none, s) => { s with g := { s.g with external := true } }
        | (some e, s) => decideSave { s with g := { s.g with external := false } } idx e

/-- The deadline of the current group's request has passed, and the request is carried out as a full save once the
instruction that declares rations or closes a scope has completed, or whose future load has returned. A safe point that
is being taken goes on (R426, R436). -/
def fullSaveDue (s : State) : Bool :=
  let loaded := s.futs.any (fun f => f.who == .group s.g.gid && (match f.st with
    | .answered _ _ => true
    | _ => false))
  (s.g.request.bind Request.deadline).any (fun d => decide (d ≤ s.cycle.toNat))
    && s.g.saving.isNone && s.g.halt.isNone && s.g.atSpt.isNone && !s.g.waits.rclose && s.g.waits.rdecl.isNone && !loaded

/-- FULL_SAVE_DEADLINE (R426, R436): the deadline of the message's group has passed. -/
def execFullSaveDeadline (s : State) : Res :=
  onMsgGroup s fun s => if fullSaveDue s then beginSave (dropWaits s) (fullSaving s.g.pc .leave) else s

/-! ### RESTORE (R403, R432, R433) -/

/-- Slots of a core that no group occupies, ascending. [log 97 DESIGN CHOICE] -/
def freeSlots (s : State) (core : Nat) : List Nat :=
  let used := (allGroups s).filter (fun g => g.pl.core == core)
  (List.range 16).filter (fun i => !used.any (fun g => g.pl.slot == i))

/-- A saved group may be placed on a core: its team's, or for a detached group one that holds any team (R432). -/
def teamCore (s : State) (g : Group) (core : Nat) : Bool :=
  if g.pl.det then s.teams.any (fun t => t.core == core && !t.exited) else g.pl.core == core

/-- The die of a core is open to groups (R444). [log 98 DEDUCED] -/
def dieOpen (s : State) (core : Nat) : Bool := s.io.maintOpen != some (dieOf core) && !s.io.testing.contains (dieOf core)

/-- Sections for a saved group on a core: how many are asked for at a resizable safe point; none where the Reeve cannot
grant a share that R403 and R433 allow. [log 97 DESIGN CHOICE] -/
def restoreSections (s : State) (v : Saved) (core asked : Nat) : Option (List Nat) :=
  let k := coreOf s core
  let free := if reservedCore s core then [] else grantable s core
  if v.how.resizes then
    match findLaunch s v.group.launch with
    | some l => if l.secMin ≤ asked ∧ asked ≤ l.secMax ∧ asked ≤ free.length then some (free.take asked) else none
    | none => none
  else
    let n := v.lanes / 8
    if n ≤ free.length then some (free.take n)
    else if k.lanemod < v.lanes ∧ free ≠ [] then some free
    else none

/-- A saved group restored to a core (R432). [log 24 DESIGN CHOICE, 97 DESIGN CHOICE] -/
def restore (s : State) (i : Nat) (v : Saved) (core asked : Nat) : State :=
  match restoreSections s v core asked with
  | none => s
  | some secs =>
    match (freeSlots s core).filter (fun j => secs = [] || j != 15) with
    | [] => s
    | slot :: _ =>
      let me := s.g
      let old := v.group.gid
      let g := { v.group with pl := { v.group.pl with core := core, slot := slot } }
      let (v', s1) := readBack { s with saved := s.saved.eraseIdx i, g := g } v (frameParts { s with g := g } v.how)
      let s1 := setSections (renameGid s1 old g.gid) core slot secs
      let clash := v.strips.any (fun q => (stripOf s core q.q).isSome)
      let hold (s : State) : State := { s with saved := s.saved ++ [v] }
      match (if clash then none else (resumeHere s1 v').bind (fun s2 => takeGranules (hold s2) (spillNeed s2 s2.g))) with
      | none => s
      | some s2 =>
        let s2 := { s2 with saved := s2.saved.dropLast }
        if me.live then { s2 with g := me, others := s2.others ++ [s2.g] } else { s2 with stalled := false }

/-- The saved group may resume at all: it is not held, not halted, and its launch runs.
[log 97 DESIGN CHOICE, 98 DEDUCED] -/
def mayResume (s : State) (v : Saved) : Bool :=
  !v.held && (match v.how.goal with
    | .halt _ _ _ => false
    | _ => true)
  && (findLaunch s v.group.launch).isSome

/-- RESTORE (R403, R432): the saved group of the message's index, on its core with its number of sections. -/
def execRestore (s : State) : Res :=
  let m := s.msg
  match s.saved[m.idx]? with
  | none => .fault .noSuchUnit
  | some v =>
    .next (if mayResume s v && decide (m.core < 256) && teamCore s v.group m.core && dieOpen s m.core then
        restore s m.idx v m.core m.sections
      else s)

/-! ### Context commands (R427, R428) -/

/-- A context command accepted, which acts on the resident groups of its address space. -/
def acceptCtx (s : State) (op asid : Nat) : State :=
  let left := ((allGroups s).filter (fun g => g.asid == asid)).map Group.gid
  { s with io := { s.io with ctxacc := (s.io.ctxacc + 1) % 2 ^ 32, ctx := s.io.ctx ++ [⟨op, asid, left⟩] } }

/-- Address space of a launch (R398). -/
def Launch.asid (l : Launch) : Nat := bits (l.words.toList.getD 0 0).toNat 31 16

/-- Clusters of a launch that are not placed (R398). -/
def Launch.unplaced (l : Launch) : Nat := bits (l.words.toList.getD 9 0).toNat 15 0 - l.placed

/-- Launches that satisfy `p` changed. -/
def updLaunches (s : State) (p : Launch → Bool) (f : Launch → Launch) : State :=
  { s with launches := s.launches.map (fun l => if p l then f l else l) }

/-- CTX_HOLD (R428): every group of the address space is asked to be saved and is held, and its launches place
nothing. [log 102 DEDUCED] -/
def execCtxHold (s : State) : Res :=
  let a := s.msg.asid
  let s := acceptCtx s 0 a
  let by_ := if s.msg.wait = 0 then none else some (s.cycle.toNat + s.msg.wait)
  let s := updGroups s (fun g => g.asid == a) (fun g => { g with request := some { (Request.save g.request by_) with held := true } })
  let s := { s with saved := s.saved.map (fun v => if v.group.asid = a then { v with held := true } else v) }
  .next (updLaunches s (fun l => l.asid == a && decide (0 < l.unplaced)) (fun l => { l with held := true }))

/-- CTX_RELEASE (R428). -/
def execCtxRelease (s : State) : Res :=
  let a := s.msg.asid
  let s := acceptCtx s 1 a
  let s := updGroups s (fun g => g.asid == a) (fun g => { g with request := g.request.map (fun r => { r with held := false }) })
  let s := { s with saved := s.saved.map (fun v => if v.group.asid = a then { v with held := false } else v) }
  .next (updLaunches s (fun l => l.asid == a) (fun l => { l with held := false }))

/-- A resident group begins to be killed: its future loads are cancelled, and it goes once the operations that the
engines have accepted are complete; what no engine has accepted is discarded (R323, R428). [log 102 DEDUCED] -/
def killResident (s : State) : State :=
  let me := s.g.gid
  let s := cancelFuts s me
  let s := { s with
    futs := s.futs.filter (fun f => waiterGid f.who != some me)
    eng := { s.eng with
      mats := s.eng.mats.filter (fun o => o.gid != me || o.phase == .running)
      xfers := s.eng.xfers.filter (fun x => x.gid != me || x.phase == .running || x.phase == .done) }
    g := { s.g with halt := none, fldv := none, aib := none, vps := [], vq := [], appends := [], external := false } }
  beginSave (dropLeaves s (fun l => l.gid == me && !l.granted)) (fullSaving s.g.pc .kill)

/-- A saved group killed: it leaves its team and its frame is freed (R428). [log 102 DEDUCED] -/
def killSaved (s : State) (v : Saved) : State :=
  let me := s.g
  let old := v.group.gid
  let s := { s with saved := s.saved.filter (fun w => w.granule != v.granule), g := v.group }
  let s := match v.how.goal with
    | .halt _ _ _ => s
    | _ => leaveTeam s
  { s with
    eng := { s.eng with xfers := s.eng.xfers.filter (fun x => x.gid != old) }
    futs := s.futs.filter (fun f => waiterGid f.who != some old)
    g := me }

/-- A launch's reservation ended, and with it the requests to yield that it made (R402). -/
def endReservation (s : State) (id : Nat) : State :=
  updGroups (updLaunch s id (fun l => { l with reserved := none })) (fun _ => true) (fun g =>
    { g with request := g.request.bind (fun r => { r with yields := r.yields.filter (· != id) }.left) })

/-- CTX_KILL (R428). [log 102 DEDUCED] -/
def execCtxKill (s : State) : Res :=
  let a := s.msg.asid
  let s := acceptCtx s 2 a
  let s := ((allGroups s).filter (fun g => g.asid == a)).foldl (fun s g => onGroup s g.gid killResident) s
  let s := (s.saved.filter (fun v => v.group.asid = a)).foldl killSaved s
  let s := (s.launches.filter (fun l => l.asid == a && l.reserved.isSome)).foldl (fun s l => endReservation s l.id) s
  .next (updLaunches s (fun l => l.asid == a) (fun l => { l with killed := true, tasks := [] }))

/-- CTX_IGNORED (R427): OP 3 does nothing. -/
def execCtxIgnored (s : State) : Res := .next s

/-- The oldest context command is complete (R428). [log 102 DEDUCED] -/
def ctxDone (c : CtxCmd) : Bool :=
  match c.op with
  | 0 | 2 => decide (c.left = [])
  | _ => true

/-- CTX_COMMAND_COMPLETE (R427, R428): commands complete in order. -/
def execCtxCommandComplete (s : State) : Res :=
  .next (match s.io.ctx with
    | [] => s
    | c :: rest =>
      if ctxDone c then { s with io := { s.io with ctx := rest, ctxdone := (s.io.ctxdone + 1) % 2 ^ 32 } } else s)

end Sys2Proof.Machine
end

