-- ==== Sys2Proof/Machine/Repair.lean ====
section
/-!
DEFINITION. Repair: units retired in the field, maintenance windows and self-test, error recovery, patrol scrub
and retraining (R18, R34, R38, R58, R136, R442 to R445).
-/

namespace Sys2Proof.Machine

/-! ### The fuse store and REPAIR records (R440, R443) -/

/-- Unit code, index and place of a repair (R440). [log 90 DESIGN CHOICE] -/
def repairCode (u : RepairUnit) : Nat × Nat × Nat :=
  match u with
  | .lane core phys => (0, phys, core)
  | .l2way slice set => (1, set, slice)
  | .hbmRow stack row => (2, row, stack / 2)
  | .pseudoChannel stack pc => (3, pc, stack / 2)
  | .serdes port lane => (4, lane, port)

/-- A repair entered in the fuse store, unless it is full, with its REPAIR record: whether a spare is installed and
whether capacity is lost. [log 90 DESIGN CHOICE] -/
def recordRepair (s : State) (u : RepairUnit) (spare : Bool) : State :=
  let room := decide (s.io.fuses.length < 1024)
  let s := if room then { s with io := { s.io with fuses := s.io.fuses ++ [u] } } else s
  let (unit, idx, place) := repairCode u
  recordDev s 0x0E [unit + idx % 65536 * 2 ^ 8 + place % 256 * 2 ^ 24,
    b2n spare + b2n room * 2 + b2n (!spare) * 4]

/-- Asks every group that satisfies `p` to be saved, within some cycles or with no deadline for 0 (R426). -/
def askSaves (s : State) (p : Group → Bool) (wait : Nat) : State :=
  let by_ := if wait = 0 then none else some (s.cycle.toNat + wait)
  updGroups s p (fun g => { g with request := some (Request.save g.request by_) })

/-- The line that a lost way holds: the one that the error named, where it lies in the set, or one of the device's
choice, the ways that hold none among them. [log 90 DESIGN CHOICE] -/
def wayLine (s : State) (mine : List Line) : Option Line :=
  match s.msg.err with
  | .line l => mine.find? (fun x => x.addr == l)
  | _ => mine[Config.choice s.freeCtr % 17]?

/-- A way of a set lost (R38, R442): its line is written back, with its poison where it is unreadable; a live one
goes on in another way, any other leaves; then lines leave until the ways in service hold the rest, their host copies
recalled. [log 90 DESIGN CHOICE] -/
def loseWay (s : State) (slice set : Nat) : State :=
  let key := slice * 768 + set
  let mine := s.pm.lines.filter (fun x => nodeOf (x.addr * 128) == s.io.nodeid
    && sliceOf (x.addr * 128) == slice && setOf (x.addr * 128) == set)
  let m := { s.pm with waysLost := tabPut s.pm.waysLost key (min 16 (tabGet s.pm.waysLost key 0 + 1)) }
  let m := match wayLine s mine with
    | some x => if x.ration.st = .live then m.writeBack x.addr else m.evict x
    | none => m
  let m := match mine with
    | [] => m
    | x :: _ => m.evictMany (x.addr * 128) s.freeCtr ((m.setLines (x.addr * 128)).length - m.ways (x.addr * 128))
  let gone := mine.filter (fun x => m.lines.all (fun y => y.addr != x.addr))
  { takeBack s (mustRecall s true (gone.flatMap (fun x => bothHalves x.addr))) with pm := m, freeCtr := s.freeCtr + 1 }

/-- SerDes lanes in use with `lost` of the nine lost (R442, R490). -/
def serdesLanes (lost : Nat) : Nat := min 8 (9 - min 9 lost)

/-- A unit repaired or, where that waits for a window or a save, listed (R442, R443). -/
def retireUnit (s : State) (u : RepairUnit) : State :=
  match u with
  | .lane core phys =>
    let k := coreOf s core
    if 256 ≤ core ∨ 68 ≤ phys ∨ k.retired.contains phys then s
    else
      let spare := (spareLane { k with retired := setAdd k.retired phys }).isSome || (servedLane k phys).isNone
      let slots := affectedSlots k phys
      let s := recordRepair { s with io := { s.io with repairs := s.io.repairs ++ [u] } } u spare
      settleLanes (askSaves s (fun g => g.pl.core == core && slots.contains g.pl.slot) (2 ^ 20)) core
  | .l2way slice set =>
    let spare := tabGet s.pm.waysLost (slice * 768 + set) 0 == 0
    if 256 ≤ slice ∨ 768 ≤ set then s else loseWay (recordRepair s u spare) slice set
  | .serdes port _ =>
    let p := portOf s port
    if 16 ≤ port then s
    else
      let s := recordRepair s u (p.lost == 0)
      let lost := p.lost + 1
      let s := setPort s port { p with lost := lost, held := Vector.replicate 8 true, up := p.up && decide (7 ≤ serdesLanes lost) }
      { s with io := { s.io with repairs := s.io.repairs ++ [u] } }
  | .hbmRow _ _ => { s with io := { s.io with repairs := s.io.repairs ++ [u] } }
  | .pseudoChannel _ _ => { s with io := { s.io with repairs := s.io.repairs ++ [u] } }

/-- A POISON record of lane storage or of a register, in the queue of the group that it belongs to (R424, R440, R441):
storage, core, physical lane, row, word or register, and granule. -/
def storageRecord (s : State) (owner : Option Group) (storage core lane row gran : Nat) : State :=
  let w := storage + core % 256 * 2 ^ 8 + lane % 128 * 2 ^ 16 + row % 1024 * 2 ^ 23 + gran % 8 * 2 ^ 33
  match owner with
  | some g => writeRecord s (some g.launch) 0x06 0 core g.pl.slot g.asid [w]
  | none => recordDev s 0x06 [w]

/-- A POISON record of a line, in the device's queue (R440, R441): storage 6 an L2 line, 7 HBM. -/
def linePoisonRecord (s : State) (storage l : Nat) : State :=
  recordDev s 0x06 [storage + sliceOf (l * 128) * 2 ^ 8, l * 128]

/-- The group that owns the section of a logical lane. -/
def laneOwner (s : State) (core l : Nat) : Option Group :=
  ((coreOf s core).lanepart.toList.getD (l / 8) none).bind (fun slot => findGroup s (core * 16 + slot))

/-- The pairs of a sparse register that lie in a granule of its row `k` in share lane `lam` (R130, R132): coordinates
first, then values. -/
def pairsIn (r : QReg) (lanes lam k gran : Nat) : List Nat :=
  let first := ceilDiv (ceilDiv r.pairs.length (max 1 lanes) * 32) 512
  (List.range r.pairs.length).filter (fun i =>
    let t := i / max 1 lanes
    i % max 1 lanes == lam
      && ((t * 32 / 512 == k && t * 32 % 512 / 64 == gran)
        || (first + t * cw r.tag / 512 == k && t * cw r.tag % 512 / 64 == gran)))

/-- The pairs of the owner's sparse registers that an error in a granule of a row poisons (R132, R338, R424). -/
def poisonPairs (s : State) (g : Group) (l row pass gran : Nat) : State :=
  match g.rowMap.find? (fun kv => kv.2 == row && decide (32 * 128 ≤ kv.1)) with
  | none => s
  | some kv =>
    let secs := ownedSections s g
    let lam := 8 * secs.idxOf (l / 8) + l % 8 + pass * (8 * secs.length)
    updGroup s g.gid (fun g =>
      let q := kv.1 / 128 - 32
      let r := g.q.toList.getD q QReg.reset
      let bad := pairsIn r (sideLanes s g false) lam (kv.1 % 128) gran
      { g with q := g.q.setIfInBounds q { r with poison := bad.foldl setAdd r.poison } })

/-- What an uncorrectable error poisons, with its POISON record (R39, R424): `phys` is the physical lane of a row, a mask
or an accumulator. [log 116 DEDUCED] -/
def poisonAt (s : State) (core phys : Nat) (e : ErrorAt) : State :=
  match e with
  | .none => s
  | .row row pass gran =>
    match servedLane (coreOf s core) phys with
    | none => s
    | some l =>
      let row := row % 1024
      let gran := gran % 9
      let owner := laneOwner s core l
      let s := { s with granules := setAdd s.granules (granKey core l row pass gran) }
      let s := match owner with
        | some g => poisonPairs s g l row pass gran
        | none => s
      storageRecord s owner (if gran = 8 then 1 else 0) core phys row gran
  | .mask m gran =>
    match servedLane (coreOf s core) phys with
    | none => s
    | some l =>
      storageRecord { s with granules := setAdd s.granules (maskKey core l (m % 8) (gran % 1024)) } (laneOwner s core l)
        2 core phys (m % 8) gran
  | .acc gid z i j =>
    match s.eng.regions.find? (fun r => r.gid == gid && r.z == z), findGroup s gid with
    | some r, some g =>
      let h := g.z.toList.getD z 0
      let lm := max 1 (coreOf s r.core).lanemod
      let word := r.base + i / lm * ceilDiv ((bits h.toNat 29 20 + 1) * 32) 512 + j / 16
      let bad (r : Region) : Region := { r with poison := setAdd r.poison (accKey i j) }
      let rs := updFirst s.eng.regions (fun r => r.gid == gid && r.z == z) bad
      let s := { s with eng := { s.eng with regions := rs } }
      storageRecord s (some g) 3 r.core phys word (j % 16 / 2)
    | _, _ => s
  | .x gid r =>
    match findGroup s gid with
    | none => s
    | some g =>
      let s := updGroup s gid (fun g => (if r % 32 = 0 then g else { g with xPoison := setAdd g.xPoison (r % 32) }))
      storageRecord s (some g) 4 g.pl.core 0 (r % 32) 0
  | .h gid r =>
    match findGroup s gid with
    | none => s
    | some g =>
      storageRecord (updGroup s gid (fun g => { g with hPoison := setAdd g.hPoison (r % 16) })) (some g) 5 g.pl.core 0 (r % 16) 0
  | .line l => if s.pm.present l then linePoisonRecord (poisonLine s l) 6 l else s

/-- A unit that retires in the field on its count of errors, and lies within the device (R443). -/
def countsErrors (u : RepairUnit) : Bool :=
  match u with
  | .lane core phys => decide (core < 256) && decide (phys < 68)
  | .l2way slice set => decide (slice < 256) && decide (set < 768)
  | .serdes port lane => decide (port < 16) && decide (lane < 9)
  | _ => false

/-- The errors of the last 2^32 cycles (R443). -/
def recentErrors (s : State) : List UnitError := s.io.errors.filter (fun e => decide ((s.cycle - e.cycle).toNat < 2 ^ 32))

/-- With one more error the unit has had its second uncorrectable or its 256th corrected one (R443). -/
def errorDue (s : State) (u : RepairUnit) (way : Nat) (bad : Bool) : Bool :=
  decide ((if bad then 1 else 255)
    ≤ ((recentErrors s).filter (fun e => e.unit == u && e.way == way && e.bad == bad)).length)

/-- An error of a unit counted; the unit retires when its count is full (R443). [log 116 DEDUCED] -/
def countError (s : State) (u : RepairUnit) (way : Nat) (bad : Bool) : State :=
  let put (es : List UnitError) : State := { s with io := { s.io with errors := es } }
  if !countsErrors u then s
  else if errorDue s u way bad then
    retireUnit (put ((recentErrors s).filter (fun e => !(e.unit == u && e.way == way)))) u
  else put (recentErrors s ++ [⟨u, way, s.cycle, bad⟩])

/-- The core and the physical lane of a lane; 0 for another unit. -/
def unitLane (u : RepairUnit) : Nat × Nat :=
  match u with
  | .lane core phys => (core, phys)
  | _ => (0, 0)

/-- An error lies in a register of a group, which is no part of a unit that retires. -/
def inRegister (e : ErrorAt) : Bool :=
  match e with
  | .x _ _ | .h _ _ => true
  | _ => false

/-- UNIT_RETIRE (R136, R424, R442, R443): an error of the message's unit, corrected where `ok` says so. One that is not
poisons what it lies in; the unit's count grows, and the unit retires when it is full. A row or pseudo-channel of HBM4 is
listed for the next window. [log 116 DEDUCED] -/
def execUnitRetire (s : State) : Res :=
  let u := s.msg.repair
  let (core, phys) := unitLane u
  let s := if s.msg.ok then s else poisonAt s core phys s.msg.err
  .next (if inRegister s.msg.err then s
    else
      match u with
      | .hbmRow _ _ | .pseudoChannel _ _ => retireUnit s u
      | _ => countError s u s.msg.num (!s.msg.ok))

/-- RETRAINED_ON_SPARE (R442): the port's link runs again on the lanes it has. -/
def execRetrainedOnSpare (s : State) : Res :=
  let port := s.msg.port
  let waits := s.io.repairs.any (fun u => match u with
    | .serdes p _ => p == port
    | _ => false)
  .next (if !waits then s
    else
      let p := portOf s port
      let s := setPort s port { p with lanes := serdesLanes p.lost, held := Vector.replicate 8 false }
      { s with io := { s.io with repairs := s.io.repairs.filter (fun u => match u with
          | .serdes p _ => p != port
          | _ => true) } })

/-! ### Maintenance windows and self-test (R444) -/

/-- MAINT_WINDOW_OPEN (R444): every group of the die is asked to be saved; an empty die begins its test.
[log 88 DEDUCED] -/
def execMaintWindowOpen (s : State) : Res :=
  let d := s.msg.die
  .next (if 8 ≤ d ∨ s.io.maintOpen.isSome then s
    else
      let s := { s with io := { s.io with maintOpen := some d, maintDie := d } }
      beginTest (askSaves s (fun g => dieOf g.pl.core == d) s.io.maintWait))

/-- A repair concerns a die. -/
def onDie (u : RepairUnit) (die : Nat) : Bool :=
  match u with
  | .lane core _ => dieOf core == die
  | .l2way slice _ => slice / 32 == die
  | .hbmRow stack _ => stack / 2 == die
  | .pseudoChannel stack _ => stack / 2 == die
  | .serdes _ _ => false

/-- A repair that an empty die allows, performed: a row is replaced as its stack provides, and one pseudo-channel of a
stack by its spare (R34, R442). -/
def replaceUnit (s : State) (u : RepairUnit) : State :=
  match u with
  | .hbmRow _ _ => recordRepair s u true
  | .pseudoChannel stack _ =>
    recordRepair s u (!s.io.fuses.any (fun f => match f with
      | .pseudoChannel st _ => st == stack
      | _ => false))
  | u => retireUnit s u

/-- SELF_TEST_COMPLETE (R58, R444): the die's test ends; what it found and what waited for it is repaired, and the die
leaves deferral mode. [log 91 DEDUCED] -/
def execSelfTestComplete (s : State) : Res :=
  let d := s.msg.die
  .next (if s.io.testing.contains d then
      let isRow (u : RepairUnit) : Bool := onDie u d && (match u with
        | .hbmRow _ _ | .pseudoChannel _ _ => true
        | _ => false)
      let rows := s.io.repairs.filter isRow
      let s := { s with io := { s.io with repairs := s.io.repairs.filter (fun u => !isRow u) } }
      let s := (rows ++ s.msg.found.filter (fun u => onDie u d)).foldl replaceUnit s
      { s with io := { s.io with
          testing := setDel s.io.testing d
          maintOpen := if s.io.maintOpen = some d then none else s.io.maintOpen } }
    else s)

/-! ### Errors (R39, R442, R445) -/

/-- Every waiter of a word receives poison (R445). -/
def poisonWaiters (s : State) (pa : Nat) : State :=
  { s with futs := s.futs.map (fun f =>
      if f.pa = pa then
        match f.st with
        | .parked _ _ => { f with st := .waking 0 true }
        | .deferred _ => { f with st := .answering 0 true }
        | _ => f
      else f) }

/-- What an error in a slice's own state loses of a line that the slice holds, settled, with its POISON record (R445). -/
def settleLost (s : State) (l : Nat) (lost : LostState) : State :=
  if (s.pm.line? l).isNone then s
  else
    match lost with
    | .nothing => s
    | .data => linePoisonRecord (poisonLine s l) 6 l
    | .feBit w =>
      let pa := l * 128 + w % 16 * 8
      linePoisonRecord (poisonWaiters (setFull (poisonLine s l) pa true) pa) 6 l
    | .ration =>
      let r := rationOf s (.line l)
      let (la, asid) := scopeLaunch s r.scope
      let s := residueRecord s la asid (r.scope / 16 % 256) (.line l) 0 r.scope
      let s := setRation s (.line l) RationRec.reset
      linePoisonRecord (admitHeld s s.ra.held.length) 6 l

/-- ERROR_RECOVERY (R58, R443, R445): the die of the message's line, which names the slice, enters deferral mode, what the
error lost is settled, the die leaves it, and the error is counted for its way. [log 116 DEDUCED] -/
def execErrorRecovery (s : State) : Res :=
  let l := pa52 (s.msg.line * 128) / 128
  let slice := sliceOf (l * 128)
  if nodeOf (l * 128) ≠ s.io.nodeid then .fault .noSuchUnit
  else
    let s := if deferring s (slice / 32) then s else deferAll s (slice / 32)
    .next (countError (settleLost s l s.msg.lost) (.l2way slice (setOf (l * 128))) s.msg.num true)

/-- PATROL_SCRUB (R39, R442): a line of HBM4 that is beyond correction (`ok` false) is poisoned where it is stored,
and its row waits for the next window. [log 116 DEDUCED] -/
def execPatrolScrub (s : State) : Res :=
  let l := pa52 (s.msg.line * 128) / 128
  .next (if s.msg.ok || nodeOf (l * 128) != s.io.nodeid || paKind s (l * 128) != .hbm then s
    else
      let s := { s with pm := { s.pm with poisoned := setAdd s.pm.poisoned l } }
      linePoisonRecord { s with io := { s.io with repairs := s.io.repairs ++ [.hbmRow (stackOf (l * 128)) s.msg.num] } } 7 l)

end Sys2Proof.Machine
end

