-- ==== Sys2Proof/Machine/HostPort.lean ====
section
/-!
DEFINITION. The host port: CXL.mem and CXL.cache at the home slices, futures filled by the host, MSI-X, and writes of
the register space (R7, R30, R32, R61, R482 to R487, R493).
-/

namespace Sys2Proof.Machine

/-- CXL.mem and CXL.cache are answered (R491). -/
def hostReady (s : State) : Bool := s.io.bootStage == 5

/-! ### CXL.mem (R484, R485) -/

/-- The half line that the message names lies in this node's HBM4. [log 26 DESIGN CHOICE] -/
def ownHalf (s : State) (half : Nat) : Bool :=
  nodeOf (half * 64) == s.io.nodeid && paKind s (half * 64) == .hbm

/-- The outside state of a half set. [log 26 DESIGN CHOICE] -/
def putHalf (s : State) (half v : Nat) : State :=
  { s with pm := s.pm.setLine (half / 2) (fun x => { x with outside := setHalf x.outside half v }) }

/-- A host read of a half line, whose state becomes `v`: a shared read recalls an exclusive copy and an exclusive read
a shared one, and the read waits for the answer (R484, R485). [log 85 DESIGN CHOICE] -/
def hostRead (s : State) (half v : Nat) : State :=
  if hostReady s && ownHalf s half then
    let s := touchLine s (half / 2)
    let s := behindHeld (takeBack s (if (hostCopy s half = 2 ∧ v = 1) ∨ (hostCopy s half = 1 ∧ v = 2) then [half] else [])) (half / 2)
    reply (putHalf s half v) (s.pm.word (half * 64) 64) 64 (s.pm.linePoison (half / 2))
  else s

/-- The host reads a register over CXL.io: the 64 GiB of BAR 0 are the register space (R7, R482).
[log 123 DESIGN CHOICE] -/
def hostRegister (s : State) (off : Nat) : State :=
  reply s (ioRead s true (Config.ioBase + off % 2 ^ 36 / 8 * 8)) 8 false

/-- HOST_SHARED_READ (R484). -/
def execHostSharedRead (s : State) : Res := .next (hostRead s (s.msg.half % 2 ^ 46) 1)

/-- HOST_EXCLUSIVE_READ (R484). -/
def execHostExclusiveRead (s : State) : Res := .next (hostRead s (s.msg.half % 2 ^ 46) 2)

/-- Bytes of a half line written for the host: pairs of offset and value. -/
def hostBytes (s : State) (half : Nat) (bs : List (Nat × Nat)) : State :=
  { s with pm := bs.foldl (fun m b => m.putBytes (half * 64 + b.1 % 64) 1 b.2) s.pm }

/-- HOST_WRITE (R61, R483, R484): a write, or the writeback (`wr`) of an exclusive copy, which ends it; the answer is
its completion, given once it has been performed. [log 85 DESIGN CHOICE] -/
def execHostWrite (s : State) : Res :=
  let pa := pa52 s.msg.pa
  let half := pa / 64
  .next (if hostReady s && ownHalf s half then
      let s := behindHeld (touchLine s (half / 2)) (half / 2)
      let n := min s.msg.n (64 - pa % 64)
      let s := reply { s with pm := s.pm.putBytes pa n s.msg.val } 0 0 false
      if s.msg.wr && halfState (((s.pm.line? (half / 2)).map Line.outside).getD 0) half == 2 then putHalf s half 0 else s
    else s)

/-- BACK_INVALIDATE_RESPONSE (R484, R485): the host gives up its copy of a half line; a dirty one is merged.
[log 26 DESIGN CHOICE] -/
def execBackInvalidateResponse (s : State) : Res :=
  let half := s.msg.half % 2 ^ 46
  let st := halfState (((s.pm.line? (half / 2)).map Line.outside).getD 0) half
  let s := { s with snoops := setDel s.snoops half }
  .next (if ownHalf s half && st != 0 then
      putHalf (if st = 2 then hostBytes s half s.msg.bytes else s) half 0
    else s)

/-! ### CXL.cache (R61, R484, R485) -/

/-- HOST_SNP_INV (R36, R484, R485): the line is written back and invalidated; a live one keeps its ration state; a front
end gives up its copy. -/
def execHostSnpInv (s : State) : Res :=
  let l := pa52 (s.msg.line * 128) / 128
  .next (if hostReady s then giveUpTail (if holdsHost s l then { s with pm := s.pm.snpInv l } else s) l else s)

/-- HOST_SNP_DATA (R36, R484, R485): the line is written back and stays held shared; a front end gives up its copy. -/
def execHostSnpData (s : State) : Res :=
  let l := pa52 (s.msg.line * 128) / 128
  .next (if hostReady s then giveUpTail (if holdsHost s l then { s with pm := s.pm.snpData l } else s) l else s)

/-- HOST_WINDOW_FILL_RETURN (R61, R485): both halves of a host-window line arrive, shared or exclusive (`wr`), with
the bytes that the host has changed. -/
def execHostWindowFillReturn (s : State) : Res :=
  let l := pa52 (s.msg.line * 128) / 128
  .next (if hostReady s && paKind s (l * 128) == .host then
      let s := if holdsHost s l then s
        else { s with pm := { s.pm.overwritten (l * 128) 128 with
          cells := s.msg.bytes.foldl (fun c b => tabSet c (l * 128 + b.1 % 128) (BitVec.ofNat 8 b.2) 0) s.pm.cells } }
      let s := touchLine s l
      let o := ((s.pm.line? l).map Line.outside).getD 0
      { s with pm := s.pm.setLine l (fun x => { x with outside := if s.msg.wr || o == 15 then 15 else 5 }) }
    else s)

/-- HOST_FUTURE_FILL (R486): the word filled with VAL as it stood at the write; another node's address, or one
outside HBM4, is discarded with a record. -/
def execHostFutureFill (s : State) : Res :=
  let pa := pa52 s.msg.pa / 8 * 8
  .next (if nodeOf pa == s.io.nodeid && paKind s pa == .hbm then
      let s := futFill s pa (BitVec.ofNat 64 s.msg.val)
      { s with io := { s.io with hfutdone := (s.io.hfutdone + 1) % 2 ^ 32 } }
    else recordDev s 0x02 [pa, 1])

/-! ### MSI-X and registers (R7, R487, R493) -/

/-- MSIX_UNMASK (R487): a vector, or from 64 on the function, is unmasked, and the messages that waited go.
[log 7 PRESUMED] -/
def execMsixUnmask (s : State) : Res :=
  let v := s.msg.num
  let m := s.io.msix
  let m := if v < 64 then { m with mask := tabPut m.mask v false } else { m with fnMask := false }
  let go (p : Nat) : Bool := !m.fnMask && !tabGet m.mask p true
  .next { s with io := { s.io with msix := { m with
    sent := m.sent ++ m.pending.filter go, pending := m.pending.filter (fun p => !go p) } } }

/-- REGISTER_WRITE (R3, R7): the host writes 64 bits of the register space, at an offset within it. -/
def execRegisterWrite (s : State) : Res :=
  .next (ioWrite s true (Config.ioBase + s.msg.off % 2 ^ 36 / 8 * 8) (s.msg.val % 2 ^ 64))

end Sys2Proof.Machine
end

