-- ==== Sys2Proof/Machine/Boot.lean ====
section
/-!
DEFINITION. Boot, attestation, power and the Krovino links (R18, R40, R135, R411, R488 to R496).
-/

namespace Sys2Proof.Machine

/-! ### Boot (R491 to R493) -/

/-- BOOTSTS changed, with its interrupt (R487). [log 91 DEDUCED] -/
def setStage (s : State) (stage code : Nat) : State :=
  raiseMsix { s with io := { s.io with bootStage := stage, bootCode := code } } 2

/-- The host's own memory, which no reset of the device clears. -/
def hostCells (s : State) : List Host.Cell :=
  s.pm.cells.filter (fun kv => decide (2 ^ 52 ≤ kv.1) || paKind s kv.1 == .host)

/-- The device at reset: the fuse store, the module flash and the host's memory stay, and the model's own counters run on. The host's
memory is seen again through the window of node 0. [log 92 DESIGN CHOICE, 134 DESIGN CHOICE] -/
def powerOn (s : State) (stage : Nat) : State :=
  let r := State.reset
  { r with
    pm := { r.pm with cells := renodeTable (hostCells s) 1 s.io.nodeid 0 }
    io := { r.io with fuses := s.io.fuses, flash := s.io.flash, bootStage := stage }
    clock := s.clock
    freeCtr := s.freeCtr
    inputs := s.inputs }

/-- POWER_GOOD (R491): the device begins at stage 1. [log 92 DESIGN CHOICE] -/
def execPowerGood (s : State) : Res := .next (powerOn s 1)

/-- Repairs of the fuse store applied as firmware loads them at reset (R18, R135, R442). -/
def loadFuses (s0 : State) : State :=
  let s : State := { s0 with
    pm := { s0.pm with waysLost := [] }
    io := { s0.io with ports := s0.io.ports.map (fun p => (p.1, { p.2 with lost := 0 })) } }
  s.io.fuses.foldl (fun s u =>
    match u with
    | .lane core phys => setCore s core (retireLane (coreOf s core) phys)
    | .l2way slice set =>
      let key := slice * 768 + set
      { s with pm := { s.pm with waysLost := tabPut s.pm.waysLost key (min 16 (tabGet s.pm.waysLost key 0 + 1)) } }
    | .serdes port _ => let p := portOf s port; setPort s port { p with lost := p.lost + 1 }
    | _ => s) s

/-- Ports trained: each is in service with the lanes it has, unless fewer than 7 remain (R489, R491).
[log 91 DEDUCED] -/
def trainPorts (s : State) : State :=
  (List.range 16).foldl (fun s i =>
    let p := portOf s i
    setPort s i { p with lanes := serdesLanes p.lost, up := decide (7 ≤ serdesLanes p.lost) }) s

/-- Stage 3 begins: the fuse store is loaded and self-test runs on every die (R444). -/
def enterStage3 (s : State) : State :=
  let s := loadFuses s
  setStage { s with io := { s.io with testing := List.range 8 } } 3 0

/-- The first check of R492 that an image fails, as BOOTSTS.CODE names it; 0 where it passes them all.
[log 25 DESIGN CHOICE, 94 DEDUCED] -/
def imageCheck (image : List Nat) : Nat :=
  if Config.imageKeyHash 0 image ≠ Config.fuseKeyHash 0 ∨ Config.imageKeyHash 1 image ≠ Config.fuseKeyHash 1 then 1
  else if Config.imageSigned 0 image = false then 2
  else if Config.imageSigned 1 image = false then 3
  else if Config.imageVersion image < Config.fuseVersion then 4
  else 0

/-- Firmware that has verified runs, from stage 3 (R491, R493). -/
def runFirmware (s : State) (image : List Nat) : State :=
  enterStage3 { s with io := { s.io with firmware := image } }

/-- BOOT_STAGE_COMPLETE (R491, R492): the work of a stage ends; an image in flash that fails its check, or a self-test
that the message says has failed, leaves the device waiting for recovery. With stage 4 the other nodes of the domain
are known, as the message lists them. [log 25 DESIGN CHOICE] -/
def execBootStageComplete (s : State) : Res :=
  .next (match s.io.bootStage with
    | 1 => setStage s 2 0
    | 2 =>
      let c := imageCheck s.io.flash
      if c = 0 then runFirmware s s.io.flash else setStage s 0xE c
    | 3 =>
      if s.io.testing ≠ [] then s
      else if s.msg.val ≠ 0 then setStage s 0xE 6
      else setStage { s with pm := { s.pm with full := [], feDirty := [] } } 4 0
    | 4 =>
      if s.io.nodeidSet && s.io.pounden == 255 then
        let s := trainPorts s
        setStage { s with io := { s.io with peers := s.msg.vals } } 5 0
      else s
    | _ => s)

/-- The recovery image in the host's memory: RCVLEN bytes from RCVADDR (R493). -/
def recoveryImage (s : State) : List Nat :=
  (List.range s.io.rcvlen).map (fun i => (s.pm.byte (hostPa s (s.io.rcvaddr.toNat + i))).toNat)

/-- RECOVERY_GO (R493): in stage 0xE the image at RCVADDR is checked; one that verifies runs, and replaces the image in
flash. [log 94 DEDUCED] -/
def execRecoveryGo (s : State) : Res :=
  .next (if s.io.bootStage ≠ 0xE then s
    else if 2 ^ 24 < s.io.rcvlen ∨ s.io.rcvaddr.toNat % 4096 ≠ 0 then setStage s 0xE 5
    else
      let image := recoveryImage s
      let c := imageCheck image
      if c = 0 then runFirmware { s with io := { s.io with flash := image } } image else setStage s 0xE c)

/-- A report over the message's nonce, with a firmware hash and a security version (R494). -/
def attested (s : State) (hash version : Nat) : Report :=
  let words := [s.msg.val % 2 ^ 256, hash, version, s.io.nodeid, s.io.fuses.length]
  ⟨s.msg.val % 2 ^ 256, hash, version, s.io.nodeid, s.io.fuses.length,
    Config.signature 0 words, Config.signature 1 words⟩

/-- ATTEST_REQUEST (R494): a report, in stage 5 or 0xE only; in stage 0xE the hash is 0, and the version is not said.
[log 25 DESIGN CHOICE, 134 DESIGN CHOICE] -/
def execAttestRequest (s : State) : Res :=
  let give (s : State) (r : Report) : State := { s with io := { s.io with reports := s.io.reports ++ [r] } }
  .next (if s.io.bootStage = 5 then give s (attested s (Config.sha384 s.io.firmware) (Config.imageVersion s.io.firmware))
    else if s.io.bootStage = 0xE then
      give { s with freeCtr := s.freeCtr + 1 } (attested s 0 (Config.freeWord s.freeCtr).toNat)
    else s)

/-! ### Temperature and power (R411, R495, R496) -/

/-- Power removed at 115 °C: nothing is saved, and the device waits for power (stage 0). [log 92 DESIGN CHOICE] -/
def tripped (ts : List Nat) : Bool := ts.any (fun t => decide (115 ≤ t))

/-- The budget of a die after a sample of its temperature. [log 94 DEDUCED] -/
def budgetAfter (budget set t : Nat) : Nat :=
  if 100 ≤ t then max 8 (budget - 8) else if t < 95 then max budget (min set (budget + 8)) else budget

/-- THERMAL_SAMPLE (R496): the temperatures of the dies, lowest die first. [log 94 DEDUCED] -/
def execThermalSample (s : State) : Res :=
  let ts := s.msg.vals
  .next (if tripped ts then powerOn s 0
    else
      let b := s.io.pwbudget.zipIdx.map (fun x => budgetAfter x.1 (s.io.pwset.toList.getD x.2 64) (ts.getD x.2 97))
      if b = s.io.pwbudget then s else raiseMsix { s with io := { s.io with pwbudget := b } } 3)

/-- POWER_CAP_SET (R496): a cap of the module, mapped to every die's PWBUDGET. [log 93 DESIGN CHOICE] -/
def execPowerCapSet (s : State) : Res :=
  let u := max 8 (Config.capUnits s.msg.n % 256)
  .next (if tripped s.msg.vals then powerOn s 0
    else raiseMsix { s with io := { s.io with pwbudget := Vector.replicate 8 u, pwset := Vector.replicate 8 u } } 3)

/-! ### Krovino links (R488, R489) -/

/-- FLIT_RECEIVE (R488): a flit on a lane of a port; a good one in sequence takes a buffer place, and any other is
refused. [log 87 DESIGN CHOICE] -/
def execFlitReceive (s : State) : Res :=
  let m := s.msg
  let p := portOf s m.port
  let lane := m.num % 8
  .next (if 16 ≤ m.port ∨ p.up = false then s
    else if m.ok && m.seq == p.expect then
      let n := min 96 (p.buffered.toList.getD lane 0 + 1)
      setPort s m.port { p with
        expect := p.expect + 1
        refused := 0
        replay := false
        buffered := p.buffered.setIfInBounds lane n
        held := p.held.setIfInBounds lane (decide (64 ≤ n)) }
    else setPort s m.port { p with replay := true })

/-- FLIT_REPLAY (R488 to R490): a refused flit is sent again; the sixteenth time in a row takes the port out of
service. [log 87 DESIGN CHOICE] -/
def execFlitReplay (s : State) : Res :=
  let m := s.msg
  let p := portOf s m.port
  .next (if p.replay = false then s
    else
      let n := p.refused + 1
      setPort s m.port { p with
        replays := min (p.replays + 1) 0xFFFFFFFF
        refused := n
        replay := false
        up := p.up && decide (n < 16) })

end Sys2Proof.Machine
end

