-- ==== Sys2Proof/Machine/Launch.lean ====
section
/-!
DEFINITION. The launch unit: host queues, start records and their checks, code objects, placement, reservation, the
start of groups, completion, and the Watchman (R24, R92, R346, R395 to R406, R412, R413, R471 to R478).
-/

namespace Sys2Proof.Machine

/-! ### Accesses of the I/O die -/

/-- A unit of the I/O die as a requester in an address space: its own walk, at task level or at steward level.
[log 103 DEDUCED] -/
def whoIo (launch asid : Nat) (steward : Bool) : Who := ⟨launch, 511, 0, asid, steward, none, 0, false, false, false, .exact⟩

/-- An access through the I/O die's own walk, which fills no buffer of a compute die (R446). [log 103 DEDUCED] -/
def ownWalk {α : Type} (s : State) (f : State → α × State) : α × State :=
  let (r, s') := f s
  (r, { s' with xl := s.xl })

/-- `n` bytes at a virtual address, as a little-endian number. -/
def readVa (s : State) (w : Who) (va n : Nat) : Option Nat × State :=
  ownWalk s fun s =>
    let (bs, s) := sectionBytes s w kRead va n
    (bs.map (fun l => l.foldr (fun b a => b % 256 + 256 * a) 0), s)

/-- Words of 64 bits of a number. -/
def word64 (v i : Nat) : Nat := v / 2 ^ (64 * i) % 2 ^ 64

/-! ### Host queues (R395 to R397) -/

/-- The tail word read again over CXL.cache, an acquire at dom scope: the copy is the front end's own, and a slice that
holds the line exclusive gives up its changes and holds it shared (R36, R396, R397). -/
def readTail (s : State) (q : Nat) : State :=
  let h := hqOf s q
  let pa := hostPa s (h.tail * 8)
  let s := if holdsHost s (lineOf pa) then { s with pm := s.pm.snpData (lineOf pa) } else s
  let seen := s.pm.word pa 8 % 2 ^ 32
  let far := decide (2 ^ (h.size + 4) < (seen + 2 ^ 32 - h.head) % 2 ^ 32)
  setHq s q { h with seen := seen, reread := false, err := h.err || far, stopped := h.stopped || far }

/-- HQ_ENABLE (R395, R396): the queue begins to be read. -/
def execHqEnable (s : State) : Res :=
  let q := s.msg.queue
  if 128 ≤ q then .fault .noSuchUnit
  else
    .next (setHq s q (hqOf s q).enable)

/-- HQ_TAIL_SNOOP (R36, R396): the host writes the message's tail word, which takes the line away from the slice that
holds it and from the front end. -/
def execHqTailSnoop (s : State) : Res :=
  let q := s.msg.queue
  let h := hqOf s q
  let pa := hostPa s (h.tail * 8)
  if 128 ≤ q then .fault .noSuchUnit
  else
    let s := if holdsHost s (lineOf pa) then { s with pm := s.pm.snpInv (lineOf pa) } else s
    let m := s.pm.overwritten pa 8
    let s := { s with pm := { m with cells := (List.range 8).foldl (fun c i =>
      tabSet c (pa + i) (BitVec.ofNat 8 (s.msg.val / 256 ^ i)) 0) m.cells } }
    .next (giveUpTail (if h.en then setHq s q { h with reread := true } else s) (lineOf pa))

/-- HQ_TAIL_REREAD (R396). -/
def execHqTailReread (s : State) : Res :=
  let q := s.msg.queue
  let h := hqOf s q
  if 128 ≤ q then .fault .noSuchUnit
  else .next (if h.en && h.reread && !h.stopped && s.io.bootStage == 5 then readTail s q else s)

/-! ### Code objects (R471 to R476) -/

/-- An image as its descriptor and tables give it. -/
structure HeadImage where
  rev     : Nat
  d       : Nat
  secs    : List (Bool × Nat × Nat × Nat × Nat × Nat)
  entries : List Nat
  deriving DecidableEq, Repr

/-- Low 40 bits of word `i` of a descriptor. -/
def off40 (d i : Nat) : Nat := word64 d i % 2 ^ 40

/-- A section's 32 bytes (R472): START, KIND, OFF, LEN, ARRIVE, CRC; none where the rule is broken.
[log 105 DEDUCED] -/
def readSection (v objlen : Nat) : Option (Bool × Nat × Nat × Nat × Nat × Nat) :=
  let w0 := word64 v 0
  let kind := bits w0 47 40
  let off := w0 % 2 ^ 40
  let len := off40 v 1
  let arr := off40 v 2
  if bits w0 63 49 ≠ 0 ∨ 2 < kind ∨ off % 4096 ≠ 0 ∨ len = 0 ∨ 2 ^ 32 < len ∨ arr % 8 ≠ 0 ∨ objlen < off + len then none
  else some (bit w0 48, kind, off, len, arr, word64 v 3 % 2 ^ 32)

/-- Bytes `lo` to `hi` are covered by sections of a kind; each of at most `n` rounds moves past one section. -/
def covered (secs : List (Bool × Nat × Nat × Nat × Nat × Nat)) (kind lo hi : Nat) : Nat → Bool
  | 0 => decide (hi ≤ lo)
  | n + 1 =>
    decide (hi ≤ lo) || (match secs.find? (fun x => x.2.1 == kind && decide (x.2.2.1 ≤ lo) && decide (lo < x.2.2.1 + x.2.2.2.1)) with
      | some x => covered secs kind (x.2.2.1 + x.2.2.2.1) hi n
      | none => false)

/-- No two sections share a byte. [log 105 DEDUCED] -/
def disjoint : List (Bool × Nat × Nat × Nat × Nat × Nat) → Bool
  | [] => true
  | x :: rest =>
    rest.all (fun y => decide (x.2.2.1 + x.2.2.2.1 ≤ y.2.2.1) || decide (y.2.2.1 + y.2.2.2.1 ≤ x.2.2.1)) && disjoint rest

/-- An image's descriptor breaks R471. [log 105 DEDUCED] -/
def headDescBad (d : Nat) : Bool :=
  let w (i : Nat) : Nat := word64 d i
  bits (w 0) 63 32 != 0 || bits (w 0) 31 24 == 0 || bits (w 0) 23 16 == 0 || decide (64 < bits (w 0) 23 16)
    || [1, 2, 3, 5, 7].any (fun i => bits (w i) 63 40 != 0) || bits (w 4) 62 40 != 0
    || bits (w 6) 63 42 != 0 || bits (w 6) 31 29 != 0 || bits (w 6) 23 18 != 0
    || off40 d 2 % 4 != 0 || off40 d 3 % 4 != 0 || off40 d 4 % 4 != 0 || off40 d 5 % 64 != 0

/-- The image of a descriptor, with its tables read; none where R471 or R472 is broken. -/
def readImage (s : State) (w : Who) (obj objlen d : Nat) : Option HeadImage × State :=
  if headDescBad d then (none, s)
  else
    let nent := bits (word64 d 0) 31 24
    let nsec := bits (word64 d 0) 23 16
    match readVa s w (obj + off40 d 1) (32 * nsec) with
    | (none, s) => (none, s)
    | (some st, s) =>
      match readVa s w (obj + off40 d 7) (4 * nent) with
      | (none, s) => (none, s)
      | (some et, s) =>
        let secs := (List.range nsec).map (fun i => readSection (st / 2 ^ (256 * i) % 2 ^ 256) objlen)
        if secs.any Option.isNone then (none, s)
        else
          let secs := secs.filterMap id
          let spt := off40 d 5
          if disjoint secs && covered secs 0 (off40 d 2) (off40 d 2 + off40 d 3) nsec
              && covered secs 2 spt (spt + 64 * bits (word64 d 6) 17 0) nsec then
            (some ⟨bits (word64 d 0) 15 0, d, secs, (List.range nent).map (fun i => et / 2 ^ (32 * i) % 2 ^ 32)⟩, s)
          else (none, s)

/-- The images of a container, all of them read. [log 105 DEDUCED] -/
def readImages (s : State) (w : Who) (obj objlen ds : Nat) : Nat → Option (List HeadImage) × State
  | 0 => (some [], s)
  | n + 1 =>
    match readImages s w obj objlen ds n with
    | (none, s) => (none, s)
    | (some l, s) =>
      match readImage s w obj objlen (ds / 2 ^ (512 * n) % 2 ^ 512) with
      | (none, s) => (none, s)
      | (some i, s) => (some (l ++ [i]), s)

/-- The head of a code object (R471): its images; none where it is refused. -/
def readHead (s : State) (w : Who) (obj : Nat) : Option (List HeadImage) × State :=
  match readVa s w obj 64 with
  | (none, s) => (none, s)
  | (some hd, s) =>
    let w0 := word64 hd 0
    let n := w0 % 256
    let objlen := off40 hd 1
    if bits w0 63 32 ≠ 0x43583401 ∨ bits w0 31 24 ≠ 1 ∨ bits w0 23 8 ≠ 0 ∨ n = 0 ∨ 16 < n
        ∨ bits (word64 hd 1) 63 40 ≠ 0 ∨ objlen % 4096 ≠ 0 ∨ hd / 2 ^ 128 ≠ 0 then (none, s)
    else
      match readVa s w (obj + 64) (64 * n) with
      | (none, s) => (none, s)
      | (some ds, s) =>
        match readImages s w obj objlen ds n with
        | (none, s) => (none, s)
        | (some imgs, s) =>
          let first := (imgs.flatMap (fun i => i.secs.map (fun x => x.2.2.1))).foldl min objlen
          let top := imgs.foldl (fun a i => max a (max (off40 i.d 1 + 32 * i.secs.length) (off40 i.d 7 + 4 * i.entries.length)))
            (64 + 64 * n)
          let revs := imgs.map HeadImage.rev
          if top ≤ first ∧ revs.eraseDups.length = revs.length then (some imgs, s) else (none, s)

/-- Cledezil revision of this part (R474); no COMPAT bit is set. -/
def clRev : Nat := 1
def clCompat : Nat := 0

/-- The image chosen for a launch (R475). -/
def chooseImage (imgs : List HeadImage) : Option HeadImage :=
  match imgs.find? (fun i => i.rev == clRev) with
  | some i => some i
  | none =>
    let old := imgs.filter (fun i => decide (i.rev < clRev) && bit clCompat i.rev)
    match old.foldl (fun a i => match a with
        | some b => if b.rev < i.rev then some i else some b
        | none => some i) none with
    | some i => some i
    | none => imgs.find? (fun i => i.rev == 0xFFFF)

/-! ### Start records (R398, R399, R476) -/

/-- Word `i` of a start record. -/
def recWord (ws : Vector Word 16) (i : Nat) : Nat := (ws.toList.getD i 0).toNat

/-- The shape of c columns by r rows is legal (R24). -/
def shapeLegal (c r : Nat) : Bool :=
  decide (1 ≤ c) && decide (1 ≤ r)
    && ((decide (c ≤ 4) && decide (r ≤ 3)) || (decide (c ≤ 3) && decide (r ≤ 4)) || (decide (c ≤ 6) && decide (r ≤ 2))
      || (decide (c ≤ 8) && decide (r ≤ 1)))

def recGroups (ws : Vector Word 16) : Nat := bits (recWord ws 7) 12 8
def recSpblk (ws : Vector Word 16) : Nat := bits (recWord ws 7) 25 16
def recSecmin (ws : Vector Word 16) : Nat := bits (recWord ws 7) 7 4
def recSecs (ws : Vector Word 16) : Nat := bits (recWord ws 7) 3 0
def recRows (ws : Vector Word 16) : Nat := bits (recWord ws 7) 39 36
def recCols (ws : Vector Word 16) : Nat := bits (recWord ws 7) 35 32
def recAsid (ws : Vector Word 16) : Nat := bits (recWord ws 0) 31 16
def recGrid (ws : Vector Word 16) : Nat := bits (recWord ws 9) 15 0
def recChans (ws : Vector Word 16) : Nat := bits (recWord ws 9) 31 16

/-- FORMAT or a reserved field is wrong (code 0x01). -/
def formatBad (ws : Vector Word 16) : Bool :=
  let w := recWord ws
  bits (w 0) 63 56 != 1 || bits (w 0) 55 40 != 0 || bits (w 0) 38 35 != 0 || bits (w 4) 63 18 != 0
    || bits (w 7) 63 40 != 0 || bits (w 7) 31 26 != 0 || bits (w 7) 15 13 != 0 || bits (w 8) 63 19 != 0
    || bits (w 9) 63 32 != 0 || bits (w 10) 63 20 != 0 || (range 11 16).any (fun i => w i != 0)

/-- Codes 0x01 to 0x06 in order; 0 where none applies. [log 104 DEDUCED] -/
def recordCode (s : State) (ws : Vector Word 16) : Nat :=
  let g := recGroups ws
  let ent := sliceRead s (s.io.astbase * 2 ^ 19 + recAsid ws * 8) 8
  let readable := match paKind s (s.io.astbase * 2 ^ 19 + recAsid ws * 8) with
    | .hole | .noNode | .io => false
    | _ => !ent.2.1
  if formatBad ws then 1
  else if !shapeLegal (recCols ws) (recRows ws) then 2
  else if g = 0 ∨ 16 < g ∨ 8 < recSecs ws ∨ recSecs ws < recSecmin ws ∨ 512 < recSpblk ws ∨ (g = 16 ∧ 1 ≤ recSecmin ws) then 3
  else if bits (recWord ws 8) 18 0 = 0 ∨ recGrid ws = 0 ∨ 262144 < bits (recWord ws 8) 18 0 ∨ 131072 < bits (recWord ws 4) 17 0 then 4
  else if !readable || !bit ent.1 0 || bits ent.1 63 52 != 0 || bits ent.1 11 1 != 0 then 5
  else if recWord ws 1 % 4096 ≠ 0 ∨ recWord ws 3 % 64 ≠ 0 ∨ recWord ws 5 % 8 ≠ 0 then 6
  else 0

/-- The image of a record (R475, R476); none refuses it with code 0x07. -/
def recordImage (s : State) (ws : Vector Word 16) : Option Image × State :=
  let obj := recWord ws 1
  let (imgs, s) := readHead s (whoIo s.nextLaunch (recAsid ws) false) obj
  match imgs.bind chooseImage with
  | none => (none, s)
  | some i =>
    let d6 := word64 i.d 6
    let groups := bits d6 28 24
    let entry := recWord ws 0 % 2 ^ 16
    let spawn := bits (recWord ws 10) 15 0
    let sptCount := bits (recWord ws 4) 17 0
    let own := decide (recWord ws 3 = 0)
    if i.entries.length ≤ entry ∨ (bits (recWord ws 10) 19 16 ≠ 0 ∧ i.entries.length ≤ spawn)
        ∨ (groups ≠ 0 ∧ recGroups ws ≠ groups) ∨ recSpblk ws < bits d6 41 32
        ∨ (own ∧ bits d6 17 0 < sptCount) then (none, s)
    else
      let base := BitVec.ofNat 64 (obj + off40 i.d 2)
      (some {
        portable := i.rev == 0xFFFF
        codeBase := base
        codeLen := off40 i.d 3
        entries := i.entries
        tvec := if bit (word64 i.d 4) 63 then base + BitVec.ofNat 64 (off40 i.d 4) else 0
        sptBase := if own then BitVec.ofNat 64 (obj + off40 i.d 5) else BitVec.ofNat 64 (recWord ws 3)
        sptCount := sptCount
        sections := i.secs }, s)

/-! ### Placing (R24, R400 to R402) -/

/-- A core can ever hold a team of the record: online, with the sections it needs (R399). [log 107 DEDUCED] -/
def couldHold (s : State) (ws : Vector Word 16) (core : Nat) : Bool :=
  let lm := (coreOf s core).lanemod
  decide (8 ≤ lm) && decide (recGroups ws * recSecmin ws ≤ lm / 8)

/-- The corners at which a shape of c columns by r rows is legal, by ascending core index (R24). -/
def legalCorners (c r : Nat) : List Nat :=
  (List.range 256).filter (fun k => decide (k % 8 + c ≤ 8) && decide (k / 8 % 4 + r ≤ 4))

/-- The cores of a rectangle, by ascending team index (R90). -/
def rectCores (corner c r : Nat) : List Nat := (List.range (c * r)).map (fun j => corner + j / c * 8 + j % c)

/-- Some rectangle of the device could ever hold a cluster of the record. -/
def everFits (s : State) (ws : Vector Word 16) : Bool :=
  (legalCorners (recCols ws) (recRows ws)).any (fun k => (rectCores k (recCols ws) (recRows ws)).all (couldHold s ws))

/-- A reservation of another launch than `id` covers the core (R402). [log 98 DEDUCED] -/
def reservedFrom (s : State) (id core : Nat) : Bool := reservedCore { s with launches := s.launches.filter (fun l => l.id != id) } core

/-- Sections of a core that a cluster of launch `id` may have. -/
def openSections (s : State) (id core : Nat) : List Nat :=
  if reservedFrom s id core then [] else grantable s core

/-- The first of the lowest run of free scratchpad blocks (R92, R400). -/
def freeBlocks (s : State) (core n : Nat) : Option Nat :=
  let parts := (s.teams.filter (fun t => t.core == core)).map (fun t => (t.spBase, t.spSize))
  let free (b : Nat) : Bool := parts.all (fun p => decide (b + n ≤ p.1) || decide (p.1 + p.2 ≤ b))
  if n = 0 then some 0
  else ((0 :: parts.map (fun p => p.1 + p.2)).filter (fun b => decide (b + n ≤ 512) && free b)).min?

/-- The lowest team number free on a core. -/
def freeTeam (s : State) (core : Nat) : Option Nat :=
  (List.range 16).find? (fun n => !s.teams.any (fun t => t.core == core && t.num == n))

/-- Slots for the groups of a record on a core; none where there are not enough (R400). -/
def teamSlots (s : State) (ws : Vector Word 16) (core : Nat) : Option (List Nat) :=
  let free := (freeSlots s core).filter (fun i => recSecmin ws == 0 || i != 15)
  if recGroups ws ≤ free.length then some (free.take (recGroups ws)) else none

/-- Every channel of the record is free on a die, or held by the launch itself. [log 106 DEDUCED] -/
def chansFree (s : State) (id : Nat) (ws : Vector Word 16) (die : Nat) : Bool :=
  !s.channels.any (fun c => c.die == die && c.launch != id && bit (recChans ws) c.ch)

/-- A core meets the conditions of R400 for a cluster of launch `id`. -/
def coreFits (s : State) (id : Nat) (ws : Vector Word 16) (core : Nat) : Bool :=
  decide (8 ≤ (coreOf s core).lanemod) && dieOpen s core && (teamSlots s ws core).isSome
    && (freeBlocks s core (recSpblk ws)).isSome && (freeTeam s core).isSome
    && decide (recGroups ws * recSecmin ws ≤ (openSections s id core).length) && chansFree s id ws (dieOf core)

/-- The lowest corner at which a launch's next cluster fits (R401). -/
def fitCorner (s : State) (l : Launch) : Option Nat :=
  let c := recCols l.words
  let r := recRows l.words
  (legalCorners c r).find? (fun k => (rectCores k c r).all (coreFits s l.id l.words))

/-- Every section of the start set has arrived good (R477). -/
def startSetGood (l : Launch) : Bool :=
  (sectionsOfImage l).all (fun x => !x.start || tabGet l.secs x.idx .waiting == .good)

/-- An earlier record of the launch's queue has an unplaced cluster (R401). -/
def earlierWaits (s : State) (l : Launch) : Bool :=
  s.launches.any (fun e => e.queue == l.queue && decide (e.id < l.id) && decide (0 < e.unplaced) && !e.killed)

/-- The launch's next cluster may be placed now. -/
def mayPlace (s : State) (l : Launch) : Bool :=
  decide (0 < l.unplaced) && !l.held && !l.killed && startSetGood l
    && (bit (recWord l.words 0) 39 || !earlierWaits s l)

/-- A saved group of the same priority could resume now (R403). [log 107 DEDUCED] -/
def savedFirst (s : State) (prio : Nat) : Bool :=
  s.saved.any (fun v => mayResume s v && ((findLaunch s v.group.launch).map Launch.prio == some prio)
    && (List.range 256).any (fun c => teamCore s v.group c && dieOpen s c
      && (List.range 9).any (fun n => match restoreSections s v c n with
        | some secs => (freeSlots s c).any (fun j => secs == [] || j != 15)
        | none => false)))

/-- The launch whose cluster is placed next, and its corner (R401): by descending priority, then acceptance.
[log 107 DEDUCED] -/
def nextPlacement (s : State) : Option (Launch × Nat) :=
  [7, 6, 5, 4, 3, 2, 1, 0].findSome? (fun p =>
    if s.launches.any (fun l => l.prio == p && mayPlace s l) && !savedFirst s p then
      s.launches.findSome? (fun l => if l.prio = p ∧ mayPlace s l then (fitCorner s l).map (fun k => (l, k)) else none)
    else none)

/-- Sections for slots (R402): SECMIN each, then one at a time in turn up to `most`; slot 15 has none. -/
def shareOut (slots : List Nat) (least most : Nat) (free : List Nat) : List (Nat × List Nat) :=
  let (first, rest) := slots.foldl (fun a j => (a.1 ++ [(j, a.2.take least)], a.2.drop least)) (([] : List (Nat × List Nat)), free)
  let round (a : List (Nat × List Nat) × List Nat) (_ : Nat) : List (Nat × List Nat) × List Nat :=
    a.1.foldl (fun b x =>
      match b.2 with
      | sec :: more => if x.1 ≠ 15 ∧ x.2.length < most then (b.1 ++ [(x.1, x.2 ++ [sec])], more) else (b.1 ++ [x], b.2)
      | [] => (b.1 ++ [x], [])) ([], a.2)
  ((List.range 8).foldl round (first, rest)).1

/-- A launched group, not yet begun (R404). [log 4 DEDUCED, 5 DEDUCED] -/
def newGroup (s : State) (l : Launch) (pl : Place) (entry : Nat) (x11 : Word) : Group :=
  let f := s.freeCtr
  { Group.reset with
    live := true
    launch := l.id
    acq := s.clock
    pl := pl
    pc := l.image.codeBase + BitVec.ofNat 64 (l.image.entries.getD entry 0)
    x := (Group.reset.x.setIfInBounds 10 (l.words.toList.getD 2 0)).setIfInBounds 11 x11
    v := Group.reset.v.mapIdx (fun i v => { v with seed := f + i })
    m := Group.reset.m.mapIdx (fun i m => { m with seed := f + 32 + i })
    tr := { TrapRegs.reset with tvec := l.image.tvec }
    asid := recAsid l.words
    codeBase := l.image.codeBase
    codeLen := l.image.codeLen
    portable := l.image.portable }

/-- A group that takes its slot. -/
def addGroup (s : State) (g : Group) (secs : List Nat) : State :=
  let s := { s with others := s.others ++ [g], freeCtr := s.freeCtr + 40 }
  setSections s g.pl.core g.pl.slot secs

/-- A team's partition emptied: bytes and stamps 0, no ration state, no poison (R92). [log 132 DEDUCED] -/
def zeroPartition (s : State) (core base n : Nat) : State :=
  let lo := core * 2 ^ 21 + base * 4096
  let block (k : Nat) : Bool := decide (core * 512 + base ≤ k) && decide (k < core * 512 + base + n)
  { s with
    sp := { s.sp with
      cells := s.sp.cells.filter (fun c => decide (c.1 < lo) || decide (lo + n * 4096 ≤ c.1))
      stamps := tabDrop s.sp.stamps block
      poison := s.sp.poison.filter (fun w => decide (w < lo / 64) || decide (lo / 64 + n * 64 ≤ w)) }
    ra := { s.ra with blocks := tabDrop s.ra.blocks block } }

/-- A team formed on a core of a cluster, with its groups (R402). -/
def formTeam (s : State) (l : Launch) (cl : Cluster) (core teamix : Nat) : State :=
  match teamSlots s l.words core, freeBlocks s core (recSpblk l.words), freeTeam s core with
  | some slots, some base, some num =>
    let n := recGroups l.words
    let gids := slots.map (fun j => core * 16 + j)
    let t : Team := ⟨core, num, recAsid l.words, l.id, cl.idx, base, recSpblk l.words, teamix, gids,
      Vector.replicate 16 ⟨n, 0, 0, false, []⟩, false⟩
    let share := shareOut slots (recSecmin l.words) (recSecs l.words) (openSections s l.id core)
    let s := zeroPartition s core base (recSpblk l.words)
    let s := { s with
      teams := s.teams ++ [t]
      eng := { s.eng with jointCount := tabDrop s.eng.jointCount (fun k => k / 4 == core * 16 + num) } }
    share.zipIdx.foldl (fun s x =>
      let pl : Place := ⟨core, x.1.1, false, x.2, num, base, recSpblk l.words, cl.origin, cl.rows, cl.cols, teamix⟩
      addGroup s (newGroup s l pl (recWord l.words 0 % 2 ^ 16) 0) x.1.2) s
  | _, _, _ => s


/-- A cluster granted at a corner, in one step (R402). [log 106 DEDUCED] -/
def grant (s : State) (l : Launch) (corner : Nat) : State :=
  let c := recCols l.words
  let r := recRows l.words
  let cl : Cluster := ⟨l.id, l.placed, corner, r, c, Vector.replicate 8 ⟨recGroups l.words * (c * r), 0, 0, false, []⟩⟩
  let s := { s with clusters := s.clusters ++ [cl] }
  let s := (rectCores corner c r).zipIdx.foldl (fun s k => formTeam s l cl k.1 k.2) s
  let die := dieOf corner
  let new := (List.range 16).filter (fun k => bit (recChans l.words) k && !s.channels.any (fun x => x.die == die && x.ch == k))
  let s := { s with channels := s.channels ++ new.map (fun k => ⟨die, k, l.id, 0⟩) }
  let s := updLaunch s l.id (fun l => { l with placed := l.placed + 1, started := l.started + recGroups l.words * (c * r) })
  if l.reserved.isSome then endReservation s l.id else s

/-- PLACE_NEXT (R401, R402). -/
def execPlaceNext (s : State) : Res :=
  .next (match nextPlacement s with
    | some (l, k) => grant s l k
    | none => s)

/-- GROUP_START (R402, R404): the message's group begins. -/
def execGroupStart (s : State) : Res := onMsgGroup s fun s => { s with g := { s.g with begun := true } }

/-! ### Reservation (R402) -/

/-- Sections of a core that groups of priority `p` or more hold. -/
def heldAtLeast (s : State) (p core : Nat) : Nat :=
  (((allGroups s).filter (fun g => g.pl.core == core && decide (p ≤ ((findLaunch s g.launch).map Launch.prio).getD 0))).map
    (fun g => (ownedSections s g).length)).foldl (· + ·) 0

/-- Priority of a group: its launch's. -/
def prioOf (s : State) (g : Group) : Nat := ((findLaunch s g.launch).map Launch.prio).getD 0

/-- A cluster of the launch has stayed unplaced for 65,536 cycles since its acceptance, while some legal rectangle holds
sections of groups of lower priority (R402). [log 107 DEDUCED] -/
def reservationDue (s : State) (l : Launch) : Bool :=
  let c := recCols l.words
  let r := recRows l.words
  l.unplaced != 0 && l.reserved.isNone && !l.killed && !l.held && decide (65536 ≤ (s.cycle - l.since).toNat)
    && (legalCorners c r).any (fun k => (rectCores k c r).any (fun core =>
      (allGroups s).any (fun g => g.pl.core == core && decide (prioOf s g < l.prio) && ownedSections s g != [])))

/-- RESERVATION (R402): a rectangle reserved for the next cluster of the message's launch, which has waited its time,
and its groups of lower priority asked to yield. [log 107 DEDUCED] -/
def execReservation (s : State) : Res :=
  .next (match findLaunch s s.msg.launch with
    | none => s
    | some l =>
      let c := recCols l.words
      let r := recRows l.words
      let cost (k : Nat) : Nat := ((rectCores k c r).map (heldAtLeast s l.prio)).foldl (· + ·) 0
      if !reservationDue s l then s
      else
        match (legalCorners c r).foldl (fun a k => match a with
            | some b => if cost k < cost b then some k else some b
            | none => some k) none with
        | none => s
        | some k =>
          let cs := rectCores k c r
          let s := updLaunch s l.id (fun l => { l with reserved := some k })
          updGroups s (fun g => cs.contains g.pl.core && decide (prioOf s g < l.prio))
            (fun g => { g with request := some (Request.yield g.request l.id) }))

/-! ### Completion futures and refusals (R399, R406) -/

/-- A completion future filled, or the record of its failure written (R406). -/
def fillDone (s : State) (ws : Vector Word 16) (v : Nat) : State :=
  let va := recWord ws 5
  if va = 0 then s
  else
    let w := whoIo s.nextLaunch (recAsid ws) false
    let (r, s) := ownWalk s (fun s => checkFuture s w kWrite va)
    match r with
    | .ok pa => busFill s w pa (BitVec.ofNat 64 v)
    | .error f =>
      match f.x with
      | some (x, va) => xfaultRecordTo s (errQueue s (ws.toList.getD 6 0)) w kWrite va x
      | none => s

/-- A record refused (R399). [log 109 DEDUCED] -/
def refuse (s : State) (ws : Vector Word 16) (queue number code : Nat) : State :=
  let s := fillDone s ws (2 ^ 63 + code)
  writeRecordTo s (errQueue s (ws.toList.getD 6 0)) 0x09 0 0xFF 0 (recAsid ws) [code + queue * 2 ^ 8, number]

/-- A start record accepted from a queue, or refused (R399); one that cannot be read fails as its format does.
[log 104 DEDUCED] -/
def acceptRecord (s : State) (queue number : Nat) (r : Option Nat) : State :=
  let v := r.getD 0
  let ws : Vector Word 16 := Vector.ofFn (fun i => BitVec.ofNat 64 (word64 v i.val))
  let code := recordCode s ws
  if code ≠ 0 then refuse s ws queue number code
  else
    match recordImage s ws with
    | (none, s) => refuse s ws queue number 7
    | (some img, s) =>
      if !everFits s ws then refuse s ws queue number 8
      else
        let l : Launch := {
          id := s.nextLaunch, queue := queue, number := number, words := ws, image := img
          placed := 0, started := 0, exited := 0, haltCause := none, tasks := [], spawned := 0
          wdlimit := 0x100000000, wdcount := 0, wdseen := 0, since := s.cycle, errq := errqOf (recWord ws 6), secs := [], reserved := none, held := false, killed := false }
        { s with launches := s.launches ++ [l], nextLaunch := s.nextLaunch + 1 }

/-- The launch unit has room for a record (R397). -/
def launchRoom (s : State) : Bool := decide (s.launches.length < 1024)

/-- A host queue has a record to accept. [log 112 DEDUCED] -/
def hqReady (s : State) (q : Nat) : Bool :=
  let h := hqOf s q
  h.en && !h.stopped && h.head != h.seen && launchRoom s && s.io.bootStage == 5

/-- 128 bytes by physical address; none where they cannot be read. [log 104 DEDUCED] -/
def readRecord (s : State) (pa : Nat) : Option Nat × State :=
  let (v, bad, s) := busRead s (whoIo s.nextLaunch 0 false) pa 128
  (if bad then none else some v, s)

/-- START_RECORD_ACCEPT (R396, R397, R399): the next record of the message's queue. -/
def execStartRecordAccept (s : State) : Res :=
  let q := s.msg.queue
  if 128 ≤ q then .fault .noSuchUnit
  else
    .next (if hqReady s q then
      let h := hqOf s q
      let (r, s) := readRecord s (h.base * 128 + h.head % 2 ^ (h.size + 4) * 128)
      acceptRecord (setHq s q { h with head := (h.head + 1) % 2 ^ 32 }) q h.head r
    else s)

/-! ### Sections (R477, R478) -/

/-- The section of a launch that the message names, when it is still to be checked and has arrived.
[log 112 DEDUCED] -/
def sectionDue (s : State) (l : Launch) (x : Section) : Bool :=
  tabGet l.secs x.idx .waiting == .waiting && sectionArrived s (whoIo l.id (recAsid l.words) false) l x

/-- A section checked by the I/O die's own walk. -/
def checkOwn (s : State) (l : Launch) (x : Section) : State :=
  let r := ownWalk s (fun s => ((), checkSection s (whoIo l.id (recAsid l.words) false) l x))
  r.2

/-- A launch refused after its acceptance: nothing of it has been placed (R477). -/
def dropLaunch (s : State) (l : Launch) (code : Nat) : State :=
  refuse { s with pm := s.pm.unwatch l.id, launches := s.launches.filter (fun x => x.id != l.id) } l.words l.queue l.number code

/-- SECTION_ARRIVE_START_SET (R477): a start section of the message's launch, once its future is filled.
[log 112 DEDUCED] -/
def execSectionArriveStartSet (s : State) : Res :=
  .next (match findLaunch s s.msg.launch with
    | none => s
    | some l =>
      match (sectionsOfImage l).find? (fun x => x.idx == s.msg.sec && x.start) with
      | none => s
      | some x =>
        if l.placed = 0 && sectionDue s l x then
          let s := checkOwn s l x
          if (findLaunch s l.id).map (fun l => tabGet l.secs x.idx .waiting) = some SecState.bad then dropLaunch s l 7 else s
        else s)

/-- SECTION_FIRST_USE (R478): another section of the message's launch, once it has arrived and a group waits for it. -/
def execSectionFirstUse (s : State) : Res :=
  .next (match findLaunch s s.msg.launch with
    | none => s
    | some l =>
      match (sectionsOfImage l).find? (fun x => x.idx == s.msg.sec) with
      | none => s
      | some x =>
        if sectionDue s l x && (allGroups s).any (fun g => g.launch == l.id && (g.external || vpFetching g)) then checkOwn s l x else s)

/-! ### Spawned groups (R405) -/

/-- A core for a spawned group of a launch: the lowest that holds a running team of it and has room. -/
def spawnCore (s : State) (l : Launch) : Option (Nat × Nat × List Nat) :=
  let cores := (s.teams.filter (fun t => t.launch == l.id && !t.exited)).map Team.core
  (List.range 256).findSome? (fun c =>
    if cores.contains c && dieOpen s c then
      let free := if reservedCore s c then [] else grantable s c
      match (freeSlots s c).find? (fun j => recSecmin l.words == 0 || j != 15) with
      | some slot =>
        if recSecmin l.words ≤ free.length then some (c, slot, if slot = 15 then [] else free.take (recSecs l.words)) else none
      | none => none
    else none)

/-- SPAWN_GROUP_START (R405): a detached group starts for the first entry of the message's launch's list.
[log 109 DEDUCED] -/
def execSpawnGroupStart (s : State) : Res :=
  .next (match findLaunch s s.msg.launch with
    | none => s
    | some l =>
      match l.tasks with
      | [] => s
      | a :: rest =>
        match spawnCore s l with
        | none => s
        | some (core, slot, secs) =>
          let pl := { Place.reset.detached with core := core, slot := slot, gix := l.spawned }
          let g := { newGroup s l pl (bits (recWord l.words 10) 15 0) a with begun := true }
          let last := l.spawnGrp ≤ l.spawned + 1
          updLaunch (addGroup s g secs) l.id (fun l =>
            { l with
              started := l.started + 1
              spawned := if last then 0 else l.spawned + 1
              tasks := if last then rest else l.tasks }))

/-! ### Completion (R406, R422, R428) -/

/-- A killed launch has no group left. [log 80 DEDUCED] -/
def launchGone (s : State) (l : Launch) : Bool :=
  l.killed && !(allGroups s).any (fun g => g.launch == l.id) && !s.saved.any (fun v => v.group.launch == l.id)

/-- The launch completes now, its closes done. [log 108 DEDUCED] -/
def launchDone (s : State) (l : Launch) : Bool :=
  !(s.ra.closes.any (fun c => c.launch == some l.id))
    && (launchGone s l || (!l.killed && l.unplaced == 0 && l.started == l.exited && decide (l.tasks = [])))

/-- What DONEF is filled with. -/
def doneValue (l : Launch) : Nat :=
  if l.killed then 2 ^ 63 + 0x10000
  else
    match l.haltCause with
    | some c => 2 ^ 63 + 0x20000 + c
    | none => 1

/-- LAUNCH_COMPLETE (R406). [log 108 DEDUCED] -/
def execLaunchComplete (s : State) : Res :=
  .next (match findLaunch s s.msg.launch with
    | none => s
    | some l =>
      if launchDone s l then
        let mine (d c : Nat) : Bool := s.channels.any (fun x => x.die == d && x.ch == c && x.launch == l.id)
        let s := { s with
          posts := s.posts.filter (fun p => !mine p.1 p.2.1)
          channels := s.channels.filter (fun c => c.launch != l.id)
          teams := s.teams.filter (fun t => t.launch != l.id)
          clusters := s.clusters.filter (fun c => c.launch != l.id)
          pm := s.pm.unwatch l.id
          launches := s.launches.filter (fun x => x.id != l.id) }
        fillDone s l.words (doneValue l)
      else s)

/-! ### The Watchman (R412, R413) -/

/-- Engine work of a group is in flight, or a request of it waits for leave. -/
def engineWork (s : State) (g : Group) : Bool :=
  s.eng.xfers.any (fun x => x.gid == g.gid && x.phase != .done) || s.eng.mats.any (fun o => o.gid == g.gid && o.phase != .join)
    || s.eng.leaves.any (fun l => l.gid == g.gid && !l.granted)

/-- A future load keeps the Watchman from counting: it is external, a request to another node, or has returned, so that
its instruction retires (R412). [log 110 DEDUCED] -/
def FutWait.busy (f : FutWait) (node : Nat) : Bool :=
  f.external || nodeOf f.pa != node || (match f.st with
    | .answered _ _ => true
    | _ => false)

/-- Instructions that the groups of a launch have retired. -/
def retiredSum (s : State) (id : Nat) : Nat :=
  (((allGroups s).filter (fun g => g.launch == id)).map (fun g => g.retired.toNat)).foldl (· + ·) 0

/-- Every group of the launch is resident and none of the three conditions of R412 fails now: none has retired an
instruction since the counter was last looked at. [log 110 DEDUCED] -/
def watchmanCounts (s : State) (l : Launch) : Bool :=
  let gs := (allGroups s).filter (fun g => g.launch == l.id)
  decide (gs ≠ []) && decide (retiredSum s l.id = l.wdseen) && !s.saved.any (fun v => v.group.launch == l.id)
    && gs.all (fun g => g.begun && !g.external && !vpFetching g && !engineWork s g && g.saving.isNone && g.halt.isNone
      && !s.futs.any (fun f => waiterGid f.who == some g.gid && f.busy s.io.nodeid))
    && !(portAdditions s).any (fun a => a.launch == l.id)

/-- The Watchman's counter of a launch after `d` cycles (R412). [log 110 DEDUCED] -/
def watch (s : State) (d : Nat) (l : Launch) : Launch :=
  if watchmanCounts s l then { l with wdcount := l.wdcount + d } else { l with wdcount := 0, wdseen := retiredSum s l.id }

/-- The counter has reached the limit (R413). -/
def watchmanDue (s : State) (l : Launch) : Bool :=
  l.wdlimit != 0 && decide (l.wdlimit ≤ l.wdcount) && watchmanCounts s l

/-- The current group's wait cancelled, before it has performed anything (R413): a joint operation that it had queued
leaves it, and an arrival at a team barrier stays. [log 110 DEDUCED] -/
def cancelWait (s : State) : State :=
  let me := s.g.gid
  let joins := s.eng.mats.filter (fun o => o.gid == me && o.phase == .join)
  let count := joins.foldl (fun t o =>
    match o.kind with
    | .mjoin lead _ pos => tabSet t (lead * 4 + pos) (tabGet t (lead * 4 + pos) 0 - 1) 0
    | _ => t) s.eng.jointCount
  let s := abandon s false
  { s with
    eng := { s.eng with mats := s.eng.mats.filter (fun o => !(o.gid == me && o.phase == .join)), jointCount := count }
    g := { s.g with waits := Waits.none, atSpt := none } }

/-- WATCHDOG_FIRE (R413): the counter of the message's launch has reached its limit, and is set to 0.
[log 109 DEDUCED, 110 DEDUCED] -/
def execWatchdogFire (s : State) : Res :=
  .next (match findLaunch s s.msg.launch with
    | none => s
    | some l =>
      if watchmanDue s l then
        let gs := ((allGroups s).filter (fun g => g.launch == l.id)).map Group.gid
        let s := updLaunch s l.id (fun l => { l with wdcount := 0 })
        let s := writeRecord s (some l.id) 0x0A 0 0xFF 0 (recAsid l.words) [l.wdlimit]
        gs.foldl (fun s gid => onGroup s gid fun s => trap (cancelWait s) cWatchdog (BitVec.ofNat 64 l.wdlimit)) s
      else s)

end Sys2Proof.Machine
end

