-- ==== Sys2Proof/Machine/Clerk.lean ====
section
/-!
DEFINITION. The Clerk (R414): the command at PC, performed by the step that its operation code names.
-/

namespace Sys2Proof.Machine

def setClerk (s : State) (c : Clerk) : State := { s with io := { s.io with clerk := c } }

/-- The Clerk stops on an error in the command of operation code `op`. [log 111 DEDUCED] -/
def clerkError (s : State) (op : Nat) : State :=
  let c := s.io.clerk
  setClerk s { c with run := false, err := true, errop := op, wait := false }

/-- An access at `pa` fails: a hole has its record, and the Clerk stops (R31, R414). -/
def clerkFail (s : State) (op pa : Nat) (wr : Bool) : State :=
  let s := match paKind s pa with
    | .hole | .noNode => holeRecord s (whoIo s.nextLaunch 0 false) pa wr
    | _ => s
  clerkError s op

/-- A place of a command is one that the Clerk can access: 64-bit words and records aligned in memory.
[log 111 DEDUCED] -/
def clerkPlace (s : State) (pa n : Nat) : Bool :=
  decide (pa % n = 0) && decide (pa < 2 ^ 52) && (match paKind s pa with
    | .hole | .noNode => false
    | _ => true)

/-- The Clerk as a requester at registers: they answer it as they answer steward code (R7). [log 111 DEDUCED] -/
def whoClerk (s : State) : Who := whoIo s.nextLaunch 0 true

/-- `n` bytes at `pa` as the Clerk reads them: memory, or the registers of the I/O space, 8 bytes each (R414). -/
def clerkGet (s : State) (pa n : Nat) : Nat × Bool × State :=
  match paKind s pa with
  | .io => (List.range (n / 8)).foldl (fun r i =>
      let (v, bad, s) := busRead r.2.2 (whoClerk s) (pa + 8 * i) 8
      (r.1 + v * 2 ^ (64 * i), r.2.1 || bad, s)) (0, false, s)
  | _ => sliceRead s pa n

/-- The 32 bytes at PC; none where they cannot be read. [log 111 DEDUCED] -/
def clerkCommand (s : State) : Option Nat :=
  let pa := s.io.clerk.pc * 32
  if clerkPlace s pa 32 then
    let (v, bad, _) := clerkGet s pa 32
    if bad then none else some v
  else none

/-- OP of a command. -/
def cmdOp (v : Nat) : Nat := bits v 63 56

/-- The operation code of the next step: that of the command at PC, or one beyond 0x0B for a command that stops it. -/
def clerkOp (s : State) : Nat :=
  match clerkCommand s with
  | some v => if v % 2 ^ 48 = 0 then cmdOp v else 0x100 + cmdOp v
  | none => 0x200

/-- The next command in order. -/
def clerkNext (s : State) : State :=
  let c := s.io.clerk
  setClerk s { c with pc := (c.pc + 1) % 2 ^ 47, wait := false }

/-- PC := T; bits of T that PC does not hold are dropped. -/
def clerkJump (s : State) (t : Nat) : State :=
  let c := s.io.clerk
  setClerk s { c with pc := bits t 51 5, wait := false }

/-- The command at PC performed by the step of operation code `op`: A, B, T and K go to `f`. A step whose code is not
that of the command does nothing. -/
def onCommand (s : State) (op : Nat) (f : Nat → Nat → Nat → Nat → State) : Res :=
  .next (if !s.io.clerk.run then s
    else
      match clerkCommand s with
      | some v => if v % 2 ^ 48 = 0 ∧ cmdOp v = op then f (word64 v 1) (word64 v 2) (word64 v 3) (bits v 55 48) else s
      | none => s)

/-- The 64-bit word at A read; `k` on it, or the Clerk stops. -/
def clerkRead (s : State) (op a : Nat) (k : State → Nat → State) : State :=
  if clerkPlace s a 8 then
    let (v, bad, s) := clerkGet s a 8
    if bad then clerkError s op else k s v
  else clerkFail s op a false

/-- CLERK_RUN (R414): RUN is set; and a command that is none of R414's, or whose bytes cannot be read, stops it.
[log 111 DEDUCED] -/
def execClerkRun (s : State) : Res :=
  let c := s.io.clerk
  .next (if !c.run then setClerk s { c with run := true, wait := false }
    else
      let op := clerkOp s
      if 0x0B < op then clerkError s (op % 256) else s)

/-- CLERK_HALT. -/
def execClerkHalt (s : State) : Res :=
  onCommand s 0x00 fun _ _ _ _ =>
    let s := clerkNext s
    setClerk s { s.io.clerk with run := false }

/-- A start record accepted as a record of queue 128, its GRID replaced when `grid` gives one; it waits while the launch
unit is full. -/
def clerkLaunch (s : State) (op a : Nat) (grid : Option Nat) : State :=
  if !launchRoom s then s
  else if clerkPlace s a 128 then
    let (v, bad, s) := clerkGet s a 128
    if bad then clerkError s op
    else
      let v := match grid with
        | some g => v - bits v (64 * 9 + 15) (64 * 9) * 2 ^ (64 * 9) + g % 2 ^ 16 * 2 ^ (64 * 9)
        | none => v
      let n := s.io.clerk.count
      let s := setClerk s { s.io.clerk with count := n + 1 }
      clerkNext (acceptRecord s 128 n (some v))
  else clerkFail s op a false

/-- CLERK_LAUNCH. -/
def execClerkLaunch (s : State) : Res := onCommand s 0x01 fun a _ _ _ => clerkLaunch s 0x01 a none

/-- CLERK_LAUNCHI. -/
def execClerkLaunchi (s : State) : Res :=
  onCommand s 0x02 fun a b _ _ =>
    if launchRoom s then clerkRead s 0x02 b fun s v => clerkLaunch s 0x02 a (some v) else s

/-- A WAITGE's word looked at. -/
def waitGe (s : State) (a b : Nat) : State :=
  clerkRead s 0x03 a fun s v => if b ≤ v then clerkNext s else setClerk s { s.io.clerk with wait := true }

/-- CLERK_WAITGE: the first look at its word. -/
def execClerkWaitge (s : State) : Res :=
  onCommand s 0x03 fun a b _ _ => if s.io.clerk.wait then s else waitGe s a b

/-- CLERK_WAITGE_POLL: a later look, by time or at a snoop of the line. -/
def execClerkWaitgePoll (s : State) : Res :=
  onCommand s 0x03 fun a b _ _ => if s.io.clerk.wait then waitGe s a b else s

/-- A word written by a command. The PC has advanced by then, so that a write of CLKPC gives the next command. -/
def clerkPut (s : State) (a v : Nat) : State := busWrite (clerkNext s) (whoClerk s) a 8 v

/-- CLERK_STORE. -/
def execClerkStore (s : State) : Res :=
  onCommand s 0x04 fun a b _ _ => if clerkPlace s a 8 then clerkPut s a b else clerkFail s 0x04 a true

/-- CLERK_ADD. -/
def execClerkAdd (s : State) : Res :=
  onCommand s 0x05 fun a b _ _ => clerkRead s 0x05 a fun s v => clerkPut s a ((v + b) % 2 ^ 64)

def setCnt (s : State) (k : Nat) (v : Word) : State :=
  let c := s.io.clerk
  setClerk s { c with cnt := c.cnt.setIfInBounds (k % 8) v }

/-- CLERK_SETC. -/
def execClerkSetc (s : State) : Res := onCommand s 0x06 fun _ b _ k => clerkNext (setCnt s k (BitVec.ofNat 64 b))

/-- CLERK_LOOP. -/
def execClerkLoop (s : State) : Res :=
  onCommand s 0x07 fun _ _ t k =>
    let v := s.io.clerk.cnt.toList.getD (k % 8) 0 - 1
    let s := setCnt s k v
    if v = 0 then clerkNext s else clerkJump s t

/-- CLERK_JGE. -/
def execClerkJge (s : State) : Res :=
  onCommand s 0x08 fun a b t _ => clerkRead s 0x08 a fun s v => if b ≤ v then clerkJump s t else clerkNext s

/-- CLERK_JLT. -/
def execClerkJlt (s : State) : Res :=
  onCommand s 0x09 fun a b t _ => clerkRead s 0x09 a fun s v => if v < b then clerkJump s t else clerkNext s

/-- CLERK_IRQ: vectors 32 to 63 are the Clerk's, K mod 32 among them (R487). -/
def execClerkIrq (s : State) : Res := onCommand s 0x0A fun _ _ _ k => clerkNext (raiseMsix s (32 + k % 32))

/-- CLERK_JUMP. -/
def execClerkJump (s : State) : Res := onCommand s 0x0B fun _ _ t _ => clerkJump s t

end Sys2Proof.Machine
end

