-- ==== Sys2Proof/Machine/Queue.lean ====
section
/-!
DEFINITION. A group's vector queue (R17, R23): what enters it, the control thread that runs ahead of it, and the
dispatch of the convoy at its head (R116, R210, R297, R300, R306, R408, R420).
-/

namespace Sys2Proof.Machine

/-- The instruction passes through the vector queue. [log 130 DEDUCED] -/
def queued (i : Instr) : Bool :=
  convoyable i || match i with
  | .vcfg _ _ | .vgrant _ _ _ _ | .mshape _ _ | .vfetch _ _ | .sbindM _ _ | .sbindQR _ _ | .sbindQW _ _ | .sunbind _
  | .fldv _ _ _ _ | .fldvX _ _ _ _ | .vffill _ _ _ | .cpy _ _ _ _ _ | .cpyG _ _ _ _ _ | .mma _ _ _ _ _ _ _
  | .mmas _ _ _ _ _ | .mjoin _ _ _ _ _ | .mfence | .mzero _ | .mput _ _ _ | .mext _ _ _ | .sld _ _ | .sst _ _
  | .sadd _ _ _ | .smul _ _ _ | .sdot _ _ _ | .sfromv _ _ _ | .stov _ _ _ | .slen _ _ => true
  | _ => false

/-- The x registers that a scalar instruction with no effect beyond the control thread names: its writes are
provisional (R420); none for every other instruction. [log 130 DEDUCED] -/
def provisional (s : State) (i : Instr) : Option (List Nat) :=
  match i with
  | .add d a b | .sub d a b | .and d a b | .or d a b | .xor d a b | .sll d a b | .srl d a b | .sra d a b
  | .slt d a b | .sltu d a b | .mul d a b | .mulh d a b | .mulhu d a b | .div d a b | .divu d a b | .rem d a b
  | .remu d a b | .min d a b | .max d a b | .minu d a b | .maxu d a b => some [d, a, b]
  | .clz d a | .ctz d a | .popc d a => some [d, a]
  | .addi d a _ | .andi d a _ | .ori d a _ | .xori d a _ | .slti d a _ => some [d, a]
  | .slli d a _ | .srli d a _ | .srai d a _ => some [d, a]
  | .ldhi d _ | .adpc d _ => some [d]
  | .beq a b _ | .bne a b _ | .blt a b _ | .bge a b _ | .bltu a b _ | .bgeu a b _ => some [a, b]
  | .jl _ => some [1]
  | .jlr d a _ => some [d, a]
  | .zget d _ => some [d]
  | .gsr d n => if readWaits s n then none else some [d]
  | .hint _ => some []
  | _ => none

/-- An access or a wait of the control thread outside itself, which begins once every earlier instruction of the queue
has cleared (R420). What changes the queue's own setting waits until the queue is empty. [log 130 DEDUCED] -/
def beginsAfter (i : Instr) : Bool :=
  match i with
  | .ldB _ _ _ | .ldH _ _ _ | .ldW _ _ _ | .ldD _ _ _ | .ldBu _ _ _ | .ldHu _ _ _ | .ldWu _ _ _
  | .stB _ _ _ | .stH _ _ _ | .stW _ _ _ | .stD _ _ _
  | .amoSwap _ _ _ _ _ _ | .amoAdd _ _ _ _ _ _ | .amoAnd _ _ _ _ _ _ | .amoOr _ _ _ _ _ _ | .amoXor _ _ _ _ _ _
  | .amoMin _ _ _ _ _ _ | .amoMax _ _ _ _ _ _ | .amoMinu _ _ _ _ _ _ | .amoMaxu _ _ _ _ _ _ | .amoCas _ _ _ _ _ _
  | .amoLd _ _ _ _ _ | .amoSt _ _ _ _ _ | .fenceSv | .fenceVs | .fenceSvW | .fenceAcq _ | .fenceRel _ | .fenceAr _
  | .pwlease _ | .fld _ _ | .fldE _ _ | .fldx _ _ | .fldxE _ _ | .ffill _ _ | .tbar _ _ | .carrive _ _ | .cwait _ _
  | .ipost _ _ | .iwait _ _ _ | .sgrab _ _ | .sspawn _ _ | .xqsendCt _ | .xqrecvCt _ | .bse _ _ | .bwait _ _
  | .bwaitm _ | .rdecl _ _ | .rchk _ _ _ => true
  | _ => false

/-- x registers that instructions in the queue are to write (R297, R343). -/
def awaited (g : Group) : List Nat := g.vq.flatMap (fun e => e.words.flatMap (fun i => (regsOf i).xdst))

/-- Scalar operands that an instruction takes as it enters the queue (R116); the registers of a word that R298 does not
class are all x registers that it can name. -/
def entryX (i : Instr) : List Nat :=
  match i with
  | .vcfg _ a | .sbindM _ a | .cpy a _ _ _ _ | .cpyG a _ _ _ _ | .sld _ a | .sst _ a => [a]
  | .vgrant d a _ _ | .mshape d a => [d, a]
  | .mma a b y x _ _ _ => (if x then [a.val, (a.val + 1) % 32] else []) ++ (if y then [b.val, (b.val + 1) % 32] else [])
  | .mmas a b _ _ _ | .mjoin a b _ _ _ => [a.val, (a.val + 1) % 32, b.val, (b.val + 1) % 32]
  | i => (regsOf i).xsrc ++ (regsOf i).xdst

/-- The group as it stood when an entry entered the queue. -/
def QueueEntry.enter (e : QueueEntry) (g : Group) : Group :=
  { g with
    pc := e.pc, flow := e.flow, x := e.x, xPoison := e.xPoison, tr := e.tr, retired := e.retired, spcount := e.spcount
    convoyLen := e.convoyLen, waits := e.waits, relFence := e.relFence, vq := [] }

/-- What an entry has made of the group, with the control thread that ran ahead. -/
def Group.under (t ct : Group) : Group :=
  { t with
    pc := ct.pc, flow := ct.flow, x := ct.x, xPoison := ct.xPoison, tr := ct.tr, retired := ct.retired
    spcount := ct.spcount, convoyLen := ct.convoyLen, waits := ct.waits, relFence := ct.relFence, vq := ct.vq
    halt := ct.halt }

/-- Instructions in the queue, at most 32 (R23). -/
def queueLength (g : Group) : Nat := (g.vq.map (fun e => e.words.length)).foldl (· + ·) 0

/-- The words at the pc enter the queue and the control thread runs on; none where they wait to enter: for room, for an
x register that the queue is to write, which a member of the same convoy does not wait for (R297), or for the test of
SPCOUNT, which is made with what stands before it complete (R359, R420). [log 130 DEDUCED] -/
def enqueue (s : State) (words : List Instr) (begun : Bool) : Option State :=
  let g := s.g
  let n := words.length
  let counted := (words.filter counts).length
  if 32 < queueLength g + n || words.any (fun i => (entryX i).any (awaited g).contains)
    || (!g.tr.lev && decide (g.splimit < g.spcount + counted)) then none
  else some { s with
    g := { g with
      vq := g.vq ++ [entryHere g words begun]
      pc := g.pc + BitVec.ofNat 64 (4 * n)
      flow := .seq (words.any convoyable)
      retired := g.retired + BitVec.ofNat 64 n
      spcount := if g.tr.lev then g.spcount else g.spcount + counted
      convoyLen := 0 }
    stalled := false }

/-- The oldest convoy of the current group's queue is examined and dispatched: it raises CONVOY_CONFLICT, waits for
leave, or begins (R210, R300, R409). -/
def dispatchHead (s : State) : State :=
  match s.g.vq with
  | e :: rest =>
    if e.begun || queueBusy s then s
    else
      match convoyConflict s.g e.words with
      | some k => trap { s with g := e.enter s.g } cConvoy (BitVec.ofNat 64 k)
      | none =>
        match convoyLeave s e.words with
        | some s => s
        | none => { s with g := { s.g with vq := { e with begun := true } :: rest }
                           seqServed := tabPut s.seqServed s.g.pl.core s.g.pl.slot }
  | [] => s

/-- CONVOY_DISPATCH (R300, R408): the toll of the message's group is charged to its purse, and the convoy at the head
of its queue is dispatched. [log 36 DEDUCED] -/
def execConvoyDispatch (s : State) : Res := onMsgGroup s fun s => dispatchHead (chargeToll s)

end Sys2Proof.Machine
end

