-- ==== Sys2Proof/Machine/Release.lean ====
section
/-!
DEFINITION. The release queues (R415 to R418).
-/

namespace Sys2Proof.Machine

/-- A release queue as a requester: steward level in its own address space (R417). [log 103 DEDUCED] -/
def whoRq (s : State) (r : Nat) : Who := whoIo s.nextLaunch (rqOf s r).asid true

/-- Address of entry `n` of a queue (R416). -/
def rqEntry (q : RelQueue) (n : Nat) : Nat := (q.ring.toNat + n % 2 ^ (q.size + 4) * 32) % 2 ^ 64

/-- A RELEASE_ENTRY record: queue, entry number and verdict (R440, R441). [log 67 DESIGN CHOICE] -/
def rqRecord (s : State) (r n : Nat) (verdict : Word) : State := recordDev s 0x0B [r, n, verdict.toNat]

/-- A failure at entry `n` stops the queue (R417): the record carries the verdict, or 0 where it has not been taken. -/
def rqStopAt (s : State) (r n : Nat) (verdict : Word) : State :=
  let q := rqOf s r
  let s := setRq s r { q with en := false, entry := none, ready := false }
  rqRecord (futDrop s (.queue r)) r n verdict

/-- A failure at the entry at HEAD. [log 67 DESIGN CHOICE] -/
def rqStop (s : State) (r : Nat) (verdict : Word) : State := rqStopAt s r (rqOf s r).head verdict

/-- `n` bytes read by a queue; `k` on them, or it stops. [log 67 DESIGN CHOICE] -/
def rqRead (s : State) (r va n : Nat) (verdict : Word) (k : State → List Nat → State) : State :=
  let w := whoRq s r
  let (res, s') := ownWalk s (fun s => checkLoc s w kRead (.va va) 1 1)
  match res with
  | .error _ => rqStop s' r verdict
  | .ok _ =>
    match ownWalk s (fun s => sectionBytes s w kRead va n) with
    | (some bs, s) => k s bs
    | (none, s) => rqStop s r verdict

/-- An emptying load of a queue (R417): sent once; the value when it is there. [log 67 DESIGN CHOICE] -/
def rqLoad (s : State) (r va : Nat) (k : State → Word → State) : State :=
  let me := Waiter.queue r
  let look (s : State) : State :=
    match (futOf s me).map FutWait.st with
    | some (.answered v bad) => if bad then rqStop s r 0 else k (futDrop s me) v
    | _ => s
  match futOf s me with
  | some _ => look s
  | none =>
    let w := whoRq s r
    let (res, s) := ownWalk s (fun s => checkFuture s w kReadWrite va)
    match res with
    | .ok pa => look (futSend s ⟨me, pa, true, true, (rqOf s r).asid, .backoff, 64, false⟩)
    | .error _ => rqStop s r 0

/-- RQ_ENABLE (R415). -/
def execRqEnable (s : State) : Res :=
  let r := s.msg.queue
  if 16 ≤ r then .fault .noSuchUnit
  else
    .next (enableRq s r (rqOf s r))

/-- RELEASE_READY_TAKEN (R417): READY of the next entry is taken, and words 0 to 2 are read. -/
def execReleaseReadyTaken (s : State) : Res :=
  let r := s.msg.queue
  let q := rqOf s r
  if 16 ≤ r then .fault .noSuchUnit
  else
    .next (if !q.en || q.entry.isSome then s
      else
        let e := rqEntry q q.head
        rqLoad s r (e + 24) fun s _ =>
          rqRead s r e 24 0 fun s bs =>
            let v := bs.foldr (fun b a => b % 256 + 256 * a) 0
            let w (i : Nat) : Word := BitVec.ofNat 64 (word64 v i)
            setRq s r { rqOf s r with entry := some (w 0, w 1, w 2), ready := false })

/-- The entry is retired: HEAD rises, and is written to the head word as a release at dom scope (R417). -/
def rqRetire (s : State) (r : Nat) (verdict : Word) : State :=
  let q := rqOf s r
  let head := (q.head + 1) % 2 ^ 32
  let w := whoRq s r
  let s := setRq s r { q with head := head, entry := none, ready := false }
  let (res, s) := ownWalk s (fun s => checkLoc s w kWrite (.va q.hw.toNat) 8 8)
  match res with
  | .error _ => rqStopAt s r q.head verdict
  | .ok l => plWrite s w l 8 head

/-- LEN of an entry, and whether word 1 allows it (R416). -/
def entryLen (w1 : Word) : Nat := w1.toNat % 2 ^ 12
def entryGood (w1 : Word) : Bool := decide (1 ≤ entryLen w1) && decide (entryLen w1 ≤ 4088) && decide (w1.toNat < 2 ^ 12)

/-- RELEASE_VERDICT_TAKEN (R417): the verdict allows the entry, or discards it. -/
def execReleaseVerdictTaken (s : State) : Res :=
  let r := s.msg.queue
  let q := rqOf s r
  if 16 ≤ r then .fault .noSuchUnit
  else
    .next (match q.entry with
      | none => s
      | some (_, w1, w2) =>
        if !q.en || q.ready then s
        else
          rqLoad s r w2.toNat fun s v =>
            let q := rqOf s r
            if v = 1 ∧ entryGood w1 then setRq s r { q with ready := true }
            else
              let s := setRq s r { q with drop := (q.drop + 1) % 2 ^ 32 }
              let s := if v ≠ 2 ∨ !entryGood w1 then rqRecord s r q.head v else s
              rqRetire s r v)

/-- The queue's item can be delivered: the host ring has room (R417). -/
def rqRoom (q : RelQueue) : Bool := decide ((q.prod + 2 ^ 32 - q.cons) % 2 ^ 32 < 2 ^ q.hsize)

/-- RELEASE_ITEM_DELIVER (R417, R418): the item's bytes, then the slot's last word, go to the host ring. -/
def execReleaseItemDeliver (s : State) : Res :=
  let r := s.msg.queue
  let q := rqOf s r
  if 16 ≤ r then .fault .noSuchUnit
  else
    .next (match q.entry with
      | none => s
      | some (w0, w1, _) =>
        if !q.en || !q.ready || !rqRoom q then s
        else
          let len := entryLen w1
          rqRead s r w0.toNat len 1 fun s bs =>
            let q := rqOf s r
            let slot := q.hbase * 4096 + q.prod % 2 ^ q.hsize * 4096
            let s := bs.zipIdx.foldl (fun s b => sliceWrite s (hostPa s (slot + b.2)) 1 b.1) s
            let s := sliceWrite s (hostPa s (slot + 4088)) 8 (len + q.head * 2 ^ 32)
            rqRetire (setRq s r { q with prod := (q.prod + 1) % 2 ^ 32 }) r 1)

end Sys2Proof.Machine
end

