-- ==== Sys2Proof/Machine/Scalar.lean ====
section
/-!
DEFINITION. ALU, immediate, branch and jump instructions of the control thread (R149, R229 to R233).
-/

namespace Sys2Proof.Machine

/-! ### Arithmetic (R149, R230) -/

/-- Signed quotient, truncated toward zero; a divisor of 0 gives all ones, and the most negative number by −1
itself. -/
def sdivX (a b : Word) : Word := if b = 0 then BitVec.allOnes 64 else BitVec.ofInt 64 (a.toInt.tdiv b.toInt)

/-- Signed remainder of `sdivX`. -/
def sremX (a b : Word) : Word := if b = 0 then a else BitVec.ofInt 64 (a.toInt.tmod b.toInt)

/-- Unsigned quotient; a divisor of 0 gives all ones. -/
def udivX (a b : Word) : Word := if b = 0 then BitVec.allOnes 64 else BitVec.ofNat 64 (a.toNat / b.toNat)

/-- Unsigned remainder of `udivX`. -/
def uremX (a b : Word) : Word := if b = 0 then a else BitVec.ofNat 64 (a.toNat % b.toNat)

/-- Zero bits above the highest 1; 64 for zero. -/
def clzX (a : Word) : Word := if a = 0 then 64 else BitVec.ofNat 64 (63 - Nat.log2 a.toNat)

/-- Zero bits below the lowest 1; 64 for zero. -/
def ctzX (a : Word) : Word := BitVec.ofNat 64 (((List.range 64).find? (fun i => bit a.toNat i)).getD 64)

/-- Count of 1 bits. -/
def popcX (a : Word) : Word := BitVec.ofNat 64 ((List.range 64).filter (fun i => bit a.toNat i)).length

/-! ### The shared forms -/

/-- A form with two sources and a destination (R229, R230, R425). -/
def aluRR (s : State) (d a b : Nat) (f : Word → Word → Word) : Res :=
  .next (readingX s [a, b] fun s => retire (setX s d (f (getX s a) (getX s b))))

/-- A form with one source and a destination (R230, R231). -/
def aluR (s : State) (d a : Nat) (f : Word → Word) : Res :=
  .next (readingX s [a] fun s => retire (setX s d (f (getX s a))))

/-- A conditional branch (R232, R233). -/
def branch (s : State) (a b : Nat) (off : Nat) (taken : Word → Word → Bool) : Res :=
  .next (readingX s [a, b] fun s =>
    if taken (getX s a) (getX s b) then transfer s (s.g.pc + sext64 off 16 * 4) id else retire s)

/-! ### R230 -/

/-- Sum (R230). -/
def execAdd (d a b : Fin 32) (s : State) : Res := aluRR s d a b fun a b => a + b

/-- Difference (R230). -/
def execSub (d a b : Fin 32) (s : State) : Res := aluRR s d a b fun a b => a - b

/-- And (R230). -/
def execAnd (d a b : Fin 32) (s : State) : Res := aluRR s d a b fun a b => a &&& b

/-- Or (R230). -/
def execOr (d a b : Fin 32) (s : State) : Res := aluRR s d a b fun a b => a ||| b

/-- Exclusive or (R230). -/
def execXor (d a b : Fin 32) (s : State) : Res := aluRR s d a b fun a b => a ^^^ b

/-- Left shift (R230). -/
def execSll (d a b : Fin 32) (s : State) : Res := aluRR s d a b fun a b => a <<< (b.toNat % 64)

/-- Logical right shift (R230). -/
def execSrl (d a b : Fin 32) (s : State) : Res := aluRR s d a b fun a b => a >>> (b.toNat % 64)

/-- Arithmetic right shift (R230). -/
def execSra (d a b : Fin 32) (s : State) : Res := aluRR s d a b fun a b => a.sshiftRight (b.toNat % 64)

/-- Signed less than (R230). -/
def execSlt (d a b : Fin 32) (s : State) : Res := aluRR s d a b fun a b => if a.slt b then 1 else 0

/-- Unsigned less than (R230). -/
def execSltu (d a b : Fin 32) (s : State) : Res := aluRR s d a b fun a b => if a.ult b then 1 else 0

/-- Low product (R230). -/
def execMul (d a b : Fin 32) (s : State) : Res := aluRR s d a b fun a b => a * b

/-- High signed product (R230). -/
def execMulh (d a b : Fin 32) (s : State) : Res := aluRR s d a b fun a b => BitVec.ofInt 64 (a.toInt * b.toInt / 2 ^ 64)

/-- High unsigned product (R230). -/
def execMulhu (d a b : Fin 32) (s : State) : Res := aluRR s d a b fun a b => BitVec.ofNat 64 (a.toNat * b.toNat / 2 ^ 64)

/-- Signed quotient (R230). -/
def execDiv (d a b : Fin 32) (s : State) : Res := aluRR s d a b fun a b => sdivX a b

/-- Unsigned quotient (R230). -/
def execDivu (d a b : Fin 32) (s : State) : Res := aluRR s d a b fun a b => udivX a b

/-- Signed remainder (R230). -/
def execRem (d a b : Fin 32) (s : State) : Res := aluRR s d a b fun a b => sremX a b

/-- Unsigned remainder (R230). -/
def execRemu (d a b : Fin 32) (s : State) : Res := aluRR s d a b fun a b => uremX a b

/-- Signed lesser (R230). -/
def execMin (d a b : Fin 32) (s : State) : Res := aluRR s d a b fun a b => if a.slt b then a else b

/-- Signed greater (R230). -/
def execMax (d a b : Fin 32) (s : State) : Res := aluRR s d a b fun a b => if a.slt b then b else a

/-- Unsigned lesser (R230). -/
def execMinu (d a b : Fin 32) (s : State) : Res := aluRR s d a b fun a b => if a.ult b then a else b

/-- Unsigned greater (R230). -/
def execMaxu (d a b : Fin 32) (s : State) : Res := aluRR s d a b fun a b => if a.ult b then b else a

/-- clz (R230). -/
def execClz (d a : Fin 32) (s : State) : Res := aluR s d a clzX

/-- ctz (R230). -/
def execCtz (d a : Fin 32) (s : State) : Res := aluR s d a ctzX

/-- popc (R230). -/
def execPopc (d a : Fin 32) (s : State) : Res := aluR s d a popcX

/-! ### R231 -/

/-- Sum with a sign-extended immediate (R231). -/
def execAddi (d a : Fin 32) (i : Fin 65536) (s : State) : Res := aluR s d a fun a => a + sext64 i 16

/-- And with a zero-extended immediate (R231). -/
def execAndi (d a : Fin 32) (i : Fin 65536) (s : State) : Res := aluR s d a fun a => a &&& zext64 i 16

/-- Or with a zero-extended immediate (R231). -/
def execOri (d a : Fin 32) (i : Fin 65536) (s : State) : Res := aluR s d a fun a => a ||| zext64 i 16

/-- Exclusive or with a zero-extended immediate (R231). -/
def execXori (d a : Fin 32) (i : Fin 65536) (s : State) : Res := aluR s d a fun a => a ^^^ zext64 i 16

/-- Left shift by an immediate (R231). -/
def execSlli (d a : Fin 32) (n : Fin 64) (s : State) : Res := aluR s d a fun a => a <<< n.val

/-- Logical right shift by an immediate (R231). -/
def execSrli (d a : Fin 32) (n : Fin 64) (s : State) : Res := aluR s d a fun a => a >>> n.val

/-- Arithmetic right shift by an immediate (R231). -/
def execSrai (d a : Fin 32) (n : Fin 64) (s : State) : Res := aluR s d a fun a => a.sshiftRight n.val

/-- Signed comparison with an immediate (R231). -/
def execSlti (d a : Fin 32) (i : Fin 65536) (s : State) : Res :=
  aluR s d a fun a => if a.slt (sext64 i 16) then 1 else 0

/-- Upper immediate (R231). -/
def execLdhi (d : Fin 32) (i : Fin 2097152) (s : State) : Res := .next (retire (setX s d (sext64 i 21 * 65536)))

/-- The pc with an upper immediate added (R231). -/
def execAdpc (d : Fin 32) (i : Fin 2097152) (s : State) : Res :=
  .next (retire (setX s d (s.g.pc + sext64 i 21 * 65536)))

/-! ### R232, R233 -/

/-- Branch on equality (R232). -/
def execBeq (a b : Fin 32) (o : Fin 65536) (s : State) : Res := branch s a b o fun x y => x == y

/-- Branch on inequality (R232). -/
def execBne (a b : Fin 32) (o : Fin 65536) (s : State) : Res := branch s a b o fun x y => x != y

/-- Branch on signed less than (R232). -/
def execBlt (a b : Fin 32) (o : Fin 65536) (s : State) : Res := branch s a b o fun x y => x.slt y

/-- Branch on signed greater or equal (R232). -/
def execBge (a b : Fin 32) (o : Fin 65536) (s : State) : Res := branch s a b o fun x y => !x.slt y

/-- Branch on unsigned less than (R232). -/
def execBltu (a b : Fin 32) (o : Fin 65536) (s : State) : Res := branch s a b o fun x y => x.ult y

/-- Branch on unsigned greater or equal (R232). -/
def execBgeu (a b : Fin 32) (o : Fin 65536) (s : State) : Res := branch s a b o fun x y => !x.ult y

/-- Jump with the link in x1 (R232). -/
def execJl (o : Fin 67108864) (s : State) : Res :=
  .next (transfer s (s.g.pc + sext64 o 26 * 4) fun s => setX s 1 (s.g.pc + 4))

/-- Jump to a register's address (R232): alignment, then the extent, and the link last. -/
def execJlr (d a : Fin 32) (i : Fin 65536) (s : State) : Res :=
  .next (readingX s [a] fun s =>
    let t := getX s a + sext64 i 16
    if t.toNat % 4 ≠ 0 then trap s cMisaligned t
    else transfer s t fun s => setX s d (s.g.pc + 4))

end Sys2Proof.Machine
end

