-- ==== Sys2Proof/Machine/ScalarMem.lean ====
section
/-!
DEFINITION. Scalar loads, stores, atomics and fences (R234 to R240).
-/

namespace Sys2Proof.Machine

/-- A scalar load of `n` bytes, `ext` giving the register's value (R234, R235). -/
def scalarLoad (s : State) (d a off n : Nat) (ext : Nat → Word) : Res :=
  .next (readingX s [a] fun s =>
    let ea := getX s a + sext64 off 13
    scalarAccess s kRead ea n fun s pa =>
      let (v, bad, s) := busRead s (whoG s) pa n
      if bad then trap s cPoison ea else retire (setX s d (ext v)))

/-- A scalar store of `n` bytes (R234, R235). -/
def scalarStore (s : State) (r a off n : Nat) : Res :=
  .next (readingX s [a, r] fun s =>
    scalarAccess s kWrite (getX s a + sext64 off 13) n fun s pa =>
      released s none fun s => retire (busWrite s (whoG s) pa n ((getX s r).toNat % 256 ^ n)))

/-- Load of 1 byte (R234). -/
def execLdB (d a : Fin 32) (o : Fin 8192) (s : State) : Res := scalarLoad s d a o 1 (fun v => sext64 v 8)

/-- Load of 2 bytes (R234). -/
def execLdH (d a : Fin 32) (o : Fin 8192) (s : State) : Res := scalarLoad s d a o 2 (fun v => sext64 v 16)

/-- Load of 4 bytes (R234). -/
def execLdW (d a : Fin 32) (o : Fin 8192) (s : State) : Res := scalarLoad s d a o 4 (fun v => sext64 v 32)

/-- Load of 8 bytes (R234). -/
def execLdD (d a : Fin 32) (o : Fin 8192) (s : State) : Res := scalarLoad s d a o 8 (BitVec.ofNat 64)

/-- Load of 1 byte (R234). -/
def execLdBu (d a : Fin 32) (o : Fin 8192) (s : State) : Res := scalarLoad s d a o 1 (fun v => zext64 v 8)

/-- Load of 2 bytes (R234). -/
def execLdHu (d a : Fin 32) (o : Fin 8192) (s : State) : Res := scalarLoad s d a o 2 (fun v => zext64 v 16)

/-- Load of 4 bytes (R234). -/
def execLdWu (d a : Fin 32) (o : Fin 8192) (s : State) : Res := scalarLoad s d a o 4 (fun v => zext64 v 32)

/-- Store of 1 byte (R234). -/
def execStB (r a : Fin 32) (o : Fin 8192) (s : State) : Res := scalarStore s r a o 1

/-- Store of 2 bytes (R234). -/
def execStH (r a : Fin 32) (o : Fin 8192) (s : State) : Res := scalarStore s r a o 2

/-- Store of 4 bytes (R234). -/
def execStW (r a : Fin 32) (o : Fin 8192) (s : State) : Res := scalarStore s r a o 4

/-- Store of 8 bytes (R234). -/
def execStD (r a : Fin 32) (o : Fin 8192) (s : State) : Res := scalarStore s r a o 8

/-! ### Atomics (R236 to R238) -/

/-- An AMO on `n` bytes: one read-modify-write at the home of x[a]; `ret` says that x[d] receives the old value.
Poison and holes stop it before any write (R236). Order 1 or 3 makes the read an acquire, and 2 or 3 the write a release at the
scope (R182). -/
def amo (s : State) (op : AtomOp) (d a b scope order : Nat) (wide ret : Bool) : Res :=
  let n := if wide then 8 else 4
  .next (readingX s ([a, b] ++ if op = .cas then [d] else []) fun s =>
    let ea := getX s a
    scalarAccess s kReadWrite ea n fun s pa =>
      released s (if 2 ≤ order ∧ op ≠ .ld then some scope else none) fun s =>
      let (old, bad, s) := busAtomic s (whoG s) op pa n ((getX s b).toNat % 256 ^ n) ((getX s d).toNat % 256 ^ n)
      if bad then trap s cPoison ea
      else
        let s := if order % 2 = 1 ∧ op ≠ .st then acquired s else s
        retire (if ret then setX s d (sext64 old (8 * n)) else s))

/-- amo.swap (R236). -/
def execAmoSwap (d a b : Fin 32) (c : Fin 8) (o : Fin 4) (w : Bool) (s : State) : Res := amo s .swap d a b c o w true

/-- amo.add (R236). -/
def execAmoAdd (d a b : Fin 32) (c : Fin 8) (o : Fin 4) (w : Bool) (s : State) : Res := amo s .add d a b c o w true

/-- amo.and (R236). -/
def execAmoAnd (d a b : Fin 32) (c : Fin 8) (o : Fin 4) (w : Bool) (s : State) : Res := amo s .and d a b c o w true

/-- amo.or (R236). -/
def execAmoOr (d a b : Fin 32) (c : Fin 8) (o : Fin 4) (w : Bool) (s : State) : Res := amo s .or d a b c o w true

/-- amo.xor (R236). -/
def execAmoXor (d a b : Fin 32) (c : Fin 8) (o : Fin 4) (w : Bool) (s : State) : Res := amo s .xor d a b c o w true

/-- amo.min (R236). -/
def execAmoMin (d a b : Fin 32) (c : Fin 8) (o : Fin 4) (w : Bool) (s : State) : Res := amo s .min d a b c o w true

/-- amo.max (R236). -/
def execAmoMax (d a b : Fin 32) (c : Fin 8) (o : Fin 4) (w : Bool) (s : State) : Res := amo s .max d a b c o w true

/-- amo.minu (R236). -/
def execAmoMinu (d a b : Fin 32) (c : Fin 8) (o : Fin 4) (w : Bool) (s : State) : Res := amo s .minu d a b c o w true

/-- amo.maxu (R236). -/
def execAmoMaxu (d a b : Fin 32) (c : Fin 8) (o : Fin 4) (w : Bool) (s : State) : Res := amo s .maxu d a b c o w true

/-- amo.cas (R236). -/
def execAmoCas (d a b : Fin 32) (c : Fin 8) (o : Fin 4) (w : Bool) (s : State) : Res := amo s .cas d a b c o w true

/-- amo.ld (R236): the read half only. -/
def execAmoLd (d a : Fin 32) (c : Fin 8) (o : Fin 4) (w : Bool) (s : State) : Res := amo s .ld d a 0 c o w true

/-- amo.st (R236): no register is written. -/
def execAmoSt (a b : Fin 32) (c : Fin 8) (o : Fin 4) (w : Bool) (s : State) : Res := amo s .st 0 a b c o w false

/-! ### Fences (R239, R240) -/

/-- The vector queue may hold accesses that have not been performed: VPs have not rejoined, a vector future
wait has not ended, or instructions wait in it (R240, R306). -/
def vecStreamBusy (s : State) : Bool := s.g.vps.length != 0 || s.g.fldv.isSome || decide (s.g.vq ≠ [])

/-- fence.sv: it retires without waiting; vector-stream accesses after it see the writes of the scalar stream before it
(R179, R240). -/
def execFenceSv (s : State) : Res := .next (retire (orderStreams s (· == .scalar)))

/-- fence.vs: it waits for the vector stream, whose writes the scalar stream sees after it (R179, R240). -/
def execFenceVs (s : State) : Res :=
  .next (if vecStreamBusy s then waitHere s else retire (orderStreams s (· == .vector)))

/-- fence.sv.w: as fence.sv for the scalar stream's writes (R179, R240). -/
def execFenceSvW (s : State) : Res := .next (retire (orderStreams s (· == .scalar)))

/-- fence.acq (R184, R240). -/
def execFenceAcq (_ : Fin 8) (s : State) : Res := .next (retire (acquired s))

/-- A release fence: it retires at once, later writes of the scalar stream wait for what it covers, and what is written is
visible at its scope (R183). -/
def fenceRel (s : State) (scope : Nat) : State :=
  releaseAt { s with g := { s.g with relFence := vecAccesses s } } scope

/-- fence.rel (R183, R240). -/
def execFenceRel (c : Fin 8) (s : State) : Res := .next (retire (fenceRel s c))

/-- fence.ar (R184, R240). -/
def execFenceAr (c : Fin 8) (s : State) : Res := .next (retire (fenceRel (acquired s) c))

end Sys2Proof.Machine
end

