-- ==== Sys2Proof/Machine/Dispatch.lean ====
section
/-!
DEFINITION. One arm for every constructor of `Instr`.
-/

namespace Sys2Proof.Machine

def exec (i : Instr) (s : State) : Host.Outcome State Fault Refusal :=
  match i with
  | .add d a b => Sys2Proof.Machine.execAdd d a b s
  | .sub d a b => Sys2Proof.Machine.execSub d a b s
  | .and d a b => Sys2Proof.Machine.execAnd d a b s
  | .or d a b => Sys2Proof.Machine.execOr d a b s
  | .xor d a b => Sys2Proof.Machine.execXor d a b s
  | .sll d a b => Sys2Proof.Machine.execSll d a b s
  | .srl d a b => Sys2Proof.Machine.execSrl d a b s
  | .sra d a b => Sys2Proof.Machine.execSra d a b s
  | .slt d a b => Sys2Proof.Machine.execSlt d a b s
  | .sltu d a b => Sys2Proof.Machine.execSltu d a b s
  | .mul d a b => Sys2Proof.Machine.execMul d a b s
  | .mulh d a b => Sys2Proof.Machine.execMulh d a b s
  | .mulhu d a b => Sys2Proof.Machine.execMulhu d a b s
  | .div d a b => Sys2Proof.Machine.execDiv d a b s
  | .divu d a b => Sys2Proof.Machine.execDivu d a b s
  | .rem d a b => Sys2Proof.Machine.execRem d a b s
  | .remu d a b => Sys2Proof.Machine.execRemu d a b s
  | .min d a b => Sys2Proof.Machine.execMin d a b s
  | .max d a b => Sys2Proof.Machine.execMax d a b s
  | .minu d a b => Sys2Proof.Machine.execMinu d a b s
  | .maxu d a b => Sys2Proof.Machine.execMaxu d a b s
  | .clz d a => Sys2Proof.Machine.execClz d a s
  | .ctz d a => Sys2Proof.Machine.execCtz d a s
  | .popc d a => Sys2Proof.Machine.execPopc d a s
  | .addi d a ix => Sys2Proof.Machine.execAddi d a ix s
  | .andi d a ix => Sys2Proof.Machine.execAndi d a ix s
  | .ori d a ix => Sys2Proof.Machine.execOri d a ix s
  | .xori d a ix => Sys2Proof.Machine.execXori d a ix s
  | .slli d a st => Sys2Proof.Machine.execSlli d a st s
  | .srli d a st => Sys2Proof.Machine.execSrli d a st s
  | .srai d a st => Sys2Proof.Machine.execSrai d a st s
  | .slti d a ix => Sys2Proof.Machine.execSlti d a ix s
  | .ldhi d ix => Sys2Proof.Machine.execLdhi d ix s
  | .adpc d ix => Sys2Proof.Machine.execAdpc d ix s
  | .beq a b o => Sys2Proof.Machine.execBeq a b o s
  | .bne a b o => Sys2Proof.Machine.execBne a b o s
  | .blt a b o => Sys2Proof.Machine.execBlt a b o s
  | .bge a b o => Sys2Proof.Machine.execBge a b o s
  | .bltu a b o => Sys2Proof.Machine.execBltu a b o s
  | .bgeu a b o => Sys2Proof.Machine.execBgeu a b o s
  | .jl o => Sys2Proof.Machine.execJl o s
  | .jlr d a ix => Sys2Proof.Machine.execJlr d a ix s
  | .ldB d a o => Sys2Proof.Machine.execLdB d a o s
  | .ldH d a o => Sys2Proof.Machine.execLdH d a o s
  | .ldW d a o => Sys2Proof.Machine.execLdW d a o s
  | .ldD d a o => Sys2Proof.Machine.execLdD d a o s
  | .ldBu d a o => Sys2Proof.Machine.execLdBu d a o s
  | .ldHu d a o => Sys2Proof.Machine.execLdHu d a o s
  | .ldWu d a o => Sys2Proof.Machine.execLdWu d a o s
  | .stB st a o => Sys2Proof.Machine.execStB st a o s
  | .stH st a o => Sys2Proof.Machine.execStH st a o s
  | .stW st a o => Sys2Proof.Machine.execStW st a o s
  | .stD st a o => Sys2Proof.Machine.execStD st a o s
  | .amoSwap d a b st o w => Sys2Proof.Machine.execAmoSwap d a b st o w s
  | .amoAdd d a b st o w => Sys2Proof.Machine.execAmoAdd d a b st o w s
  | .amoAnd d a b st o w => Sys2Proof.Machine.execAmoAnd d a b st o w s
  | .amoOr d a b st o w => Sys2Proof.Machine.execAmoOr d a b st o w s
  | .amoXor d a b st o w => Sys2Proof.Machine.execAmoXor d a b st o w s
  | .amoMin d a b st o w => Sys2Proof.Machine.execAmoMin d a b st o w s
  | .amoMax d a b st o w => Sys2Proof.Machine.execAmoMax d a b st o w s
  | .amoMinu d a b st o w => Sys2Proof.Machine.execAmoMinu d a b st o w s
  | .amoMaxu d a b st o w => Sys2Proof.Machine.execAmoMaxu d a b st o w s
  | .amoCas d a b st o w => Sys2Proof.Machine.execAmoCas d a b st o w s
  | .amoLd d a st o w => Sys2Proof.Machine.execAmoLd d a st o w s
  | .amoSt a b st o w => Sys2Proof.Machine.execAmoSt a b st o w s
  | .fenceSv => Sys2Proof.Machine.execFenceSv s
  | .fenceVs => Sys2Proof.Machine.execFenceVs s
  | .fenceSvW => Sys2Proof.Machine.execFenceSvW s
  | .fenceAcq st => Sys2Proof.Machine.execFenceAcq st s
  | .fenceRel st => Sys2Proof.Machine.execFenceRel st s
  | .fenceAr st => Sys2Proof.Machine.execFenceAr st s
  | .gsr d n => Sys2Proof.Machine.execGsr d n s
  | .ssr a n => Sys2Proof.Machine.execSsr a n s
  | .trap c => Sys2Proof.Machine.execTrap c s
  | .tret => Sys2Proof.Machine.execTret s
  | .gexit => Sys2Proof.Machine.execGexit s
  | .yield => Sys2Proof.Machine.execYield s
  | .spt ix => Sys2Proof.Machine.execSpt ix s
  | .pwlease a => Sys2Proof.Machine.execPwlease a s
  | .fld d a => Sys2Proof.Machine.execFld d a s
  | .fldE d a => Sys2Proof.Machine.execFldE d a s
  | .fldx d a => Sys2Proof.Machine.execFldx d a s
  | .fldxE d a => Sys2Proof.Machine.execFldxE d a s
  | .ffill a b => Sys2Proof.Machine.execFfill a b s
  | .tbar d a => Sys2Proof.Machine.execTbar d a s
  | .carrive d a => Sys2Proof.Machine.execCarrive d a s
  | .cwait a b => Sys2Proof.Machine.execCwait a b s
  | .tattach d a => Sys2Proof.Machine.execTattach d a s
  | .tdetach => Sys2Proof.Machine.execTdetach s
  | .ipost a b => Sys2Proof.Machine.execIpost a b s
  | .iwait d a b => Sys2Proof.Machine.execIwait d a b s
  | .sgrab d a => Sys2Proof.Machine.execSgrab d a s
  | .sspawn a b => Sys2Proof.Machine.execSspawn a b s
  | .vcfg d a => Sys2Proof.Machine.execVcfg d a s
  | .vgrant d a g w => Sys2Proof.Machine.execVgrant d a g w s
  | .mshape d a => Sys2Proof.Machine.execMshape d a s
  | .vadd d a b m c k => Sys2Proof.Machine.execVadd d a b m c k s
  | .vsub d a b m c k => Sys2Proof.Machine.execVsub d a b m c k s
  | .vrsub d a b m c k => Sys2Proof.Machine.execVrsub d a b m c k s
  | .vmul d a b m c k => Sys2Proof.Machine.execVmul d a b m c k s
  | .vmulh d a b m c k => Sys2Proof.Machine.execVmulh d a b m c k s
  | .vdiv d a b m c k => Sys2Proof.Machine.execVdiv d a b m c k s
  | .vrem d a b m c k => Sys2Proof.Machine.execVrem d a b m c k s
  | .vmin d a b m c k => Sys2Proof.Machine.execVmin d a b m c k s
  | .vmax d a b m c k => Sys2Proof.Machine.execVmax d a b m c k s
  | .vfma d a b m c k => Sys2Proof.Machine.execVfma d a b m c k s
  | .vfms d a b m c k => Sys2Proof.Machine.execVfms d a b m c k s
  | .vfnma d a b m c k => Sys2Proof.Machine.execVfnma d a b m c k s
  | .vsadd d a b m c k => Sys2Proof.Machine.execVsadd d a b m c k s
  | .vssub d a b m c k => Sys2Proof.Machine.execVssub d a b m c k s
  | .vabs d b m c => Sys2Proof.Machine.execVabs d b m c s
  | .vneg d b m c => Sys2Proof.Machine.execVneg d b m c s
  | .vabsd d a b m c k => Sys2Proof.Machine.execVabsd d a b m c k s
  | .vand d a b m c k => Sys2Proof.Machine.execVand d a b m c k s
  | .vor d a b m c k => Sys2Proof.Machine.execVor d a b m c k s
  | .vxor d a b m c k => Sys2Proof.Machine.execVxor d a b m c k s
  | .vandn d a b m c k => Sys2Proof.Machine.execVandn d a b m c k s
  | .vnot d b m c => Sys2Proof.Machine.execVnot d b m c s
  | .vsll d a b m c k => Sys2Proof.Machine.execVsll d a b m c k s
  | .vsrl d a b m c k => Sys2Proof.Machine.execVsrl d a b m c k s
  | .vsra d a b m c k => Sys2Proof.Machine.execVsra d a b m c k s
  | .vclz d b m c => Sys2Proof.Machine.execVclz d b m c s
  | .vpopc d b m c => Sys2Proof.Machine.execVpopc d b m c s
  | .vceq d a b m c k => Sys2Proof.Machine.execVceq d a b m c k s
  | .vcne d a b m c k => Sys2Proof.Machine.execVcne d a b m c k s
  | .vclt d a b m c k => Sys2Proof.Machine.execVclt d a b m c k s
  | .vcle d a b m c k => Sys2Proof.Machine.execVcle d a b m c k s
  | .vcgt d a b m c k => Sys2Proof.Machine.execVcgt d a b m c k s
  | .vcge d a b m c k => Sys2Proof.Machine.execVcge d a b m c k s
  | .vcun d a b m c k => Sys2Proof.Machine.execVcun d a b m c k s
  | .vcvt d t b m c => Sys2Proof.Machine.execVcvt d t b m c s
  | .vcvtSat d t b m c => Sys2Proof.Machine.execVcvtSat d t b m c s
  | .vretag d t b m c => Sys2Proof.Machine.execVretag d t b m c s
  | .vredsum d a b m c => Sys2Proof.Machine.execVredsum d a b m c s
  | .vredsumU d a b m c => Sys2Proof.Machine.execVredsumU d a b m c s
  | .vredmin d a b m c => Sys2Proof.Machine.execVredmin d a b m c s
  | .vredmax d a b m c => Sys2Proof.Machine.execVredmax d a b m c s
  | .vredand d a b m c => Sys2Proof.Machine.execVredand d a b m c s
  | .vredor d a b m c => Sys2Proof.Machine.execVredor d a b m c s
  | .vredxor d a b m c => Sys2Proof.Machine.execVredxor d a b m c s
  | .vscan d a b m c => Sys2Proof.Machine.execVscan d a b m c s
  | .vmv d b m c k => Sys2Proof.Machine.execVmv d b m c k s
  | .vmvX d b c => Sys2Proof.Machine.execVmvX d b c s
  | .vslup d a b m c k => Sys2Proof.Machine.execVslup d a b m c k s
  | .vsldn d a b m c k => Sys2Proof.Machine.execVsldn d a b m c k s
  | .vgath d a b m c => Sys2Proof.Machine.execVgath d a b m c s
  | .vcompr d b m c => Sys2Proof.Machine.execVcompr d b m c s
  | .vexpd d b m c => Sys2Proof.Machine.execVexpd d b m c s
  | .vrev d b m c => Sys2Proof.Machine.execVrev d b m c s
  | .vrcp d b m c => Sys2Proof.Machine.execVrcp d b m c s
  | .vrsqrt d b m c => Sys2Proof.Machine.execVrsqrt d b m c s
  | .vsqrt d b m c => Sys2Proof.Machine.execVsqrt d b m c s
  | .vexp2 d b m c => Sys2Proof.Machine.execVexp2 d b m c s
  | .vlog2 d b m c => Sys2Proof.Machine.execVlog2 d b m c s
  | .vsin d b m c => Sys2Proof.Machine.execVsin d b m c s
  | .vcos d b m c => Sys2Proof.Machine.execVcos d b m c s
  | .vtanh d b m c => Sys2Proof.Machine.execVtanh d b m c s
  | .vidx d st m c p => Sys2Proof.Machine.execVidx d st m c p s
  | .mand d a b m c => Sys2Proof.Machine.execMand d a b m c s
  | .mor d a b m c => Sys2Proof.Machine.execMor d a b m c s
  | .mxor d a b m c => Sys2Proof.Machine.execMxor d a b m c s
  | .mandn d a b m c => Sys2Proof.Machine.execMandn d a b m c s
  | .mnot d b m c => Sys2Proof.Machine.execMnot d b m c s
  | .mset d m c => Sys2Proof.Machine.execMset d m c s
  | .mclr d m c => Sys2Proof.Machine.execMclr d m c s
  | .mpopc d b m c => Sys2Proof.Machine.execMpopc d b m c s
  | .mfirst d b m c => Sys2Proof.Machine.execMfirst d b m c s
  | .vfetch b m => Sys2Proof.Machine.execVfetch b m s
  | .tfetch b m k => Sys2Proof.Machine.execTfetch b m k s
  | .vsync => Sys2Proof.Machine.execVsync s
  | .xqsend a m => Sys2Proof.Machine.execXqsend a m s
  | .xqrecv d m => Sys2Proof.Machine.execXqrecv d m s
  | .xqsendCt a => Sys2Proof.Machine.execXqsendCt a s
  | .xqrecvCt d => Sys2Proof.Machine.execXqrecvCt d s
  | .vpid d m => Sys2Proof.Machine.execVpid d m s
  | .vld d a m c p => Sys2Proof.Machine.execVld d a m c p s
  | .vldS d a st m c p => Sys2Proof.Machine.execVldS d a st m c p s
  | .vldX d a ix m c p e => Sys2Proof.Machine.execVldX d a ix m c p e s
  | .vldFf d a m c => Sys2Proof.Machine.execVldFf d a m c s
  | .vldSeg d a m c => Sys2Proof.Machine.execVldSeg d a m c s
  | .vldC d a m c p => Sys2Proof.Machine.execVldC d a m c p s
  | .vldCs d a st m c p => Sys2Proof.Machine.execVldCs d a st m c p s
  | .vldCx d a ix m c p e => Sys2Proof.Machine.execVldCx d a ix m c p e s
  | .vst v a m c p => Sys2Proof.Machine.execVst v a m c p s
  | .vstS v a st m c p => Sys2Proof.Machine.execVstS v a st m c p s
  | .vstX v a ix m c p e => Sys2Proof.Machine.execVstX v a ix m c p e s
  | .vstU v a m c p => Sys2Proof.Machine.execVstU v a m c p s
  | .vstSeg v a m c => Sys2Proof.Machine.execVstSeg v a m c s
  | .vstSu v a st m c p => Sys2Proof.Machine.execVstSu v a st m c p s
  | .vstXu v a ix m c p e => Sys2Proof.Machine.execVstXu v a ix m c p e s
  | .vamoSwap v st o a m c => Sys2Proof.Machine.execVamoSwap v st o a m c s
  | .vamoAdd v st o a m c => Sys2Proof.Machine.execVamoAdd v st o a m c s
  | .vamoAnd v st o a m c => Sys2Proof.Machine.execVamoAnd v st o a m c s
  | .vamoOr v st o a m c => Sys2Proof.Machine.execVamoOr v st o a m c s
  | .vamoXor v st o a m c => Sys2Proof.Machine.execVamoXor v st o a m c s
  | .vamoMin v st o a m c => Sys2Proof.Machine.execVamoMin v st o a m c s
  | .vamoMax v st o a m c => Sys2Proof.Machine.execVamoMax v st o a m c s
  | .samo v a m c => Sys2Proof.Machine.execSamo v a m c s
  | .samoO v a m c => Sys2Proof.Machine.execSamoO v a m c s
  | .sbindM d a => Sys2Proof.Machine.execSbindM d a s
  | .sbindQR d q => Sys2Proof.Machine.execSbindQR d q s
  | .sbindQW d q => Sys2Proof.Machine.execSbindQW d q s
  | .sunbind d => Sys2Proof.Machine.execSunbind d s
  | .bse d o => Sys2Proof.Machine.execBse d o s
  | .fldv d t u m => Sys2Proof.Machine.execFldv d t u m s
  | .fldvX d t u m => Sys2Proof.Machine.execFldvX d t u m s
  | .vffill v a m => Sys2Proof.Machine.execVffill v a m s
  | .cpy a m c t f => Sys2Proof.Machine.execCpy a m c t f s
  | .cpyG a v m t f => Sys2Proof.Machine.execCpyG a v m t f s
  | .bclose a t => Sys2Proof.Machine.execBclose a t s
  | .bwait a t => Sys2Proof.Machine.execBwait a t s
  | .bwaitm a => Sys2Proof.Machine.execBwaitm a s
  | .rdecl a c => Sys2Proof.Machine.execRdecl a c s
  | .rcloseTeam => Sys2Proof.Machine.execRcloseTeam s
  | .rcloseClu => Sys2Proof.Machine.execRcloseClu s
  | .rchk a p c => Sys2Proof.Machine.execRchk a p c s
  | .mma a b y x z t f => Sys2Proof.Machine.execMma a b y x z t f s
  | .mmas a b z t f => Sys2Proof.Machine.execMmas a b z t f s
  | .mjoin a b z t f => Sys2Proof.Machine.execMjoin a b z t f s
  | .mfence => Sys2Proof.Machine.execMfence s
  | .mzero z => Sys2Proof.Machine.execMzero z s
  | .mput st p z => Sys2Proof.Machine.execMput st p z s
  | .mext st p z => Sys2Proof.Machine.execMext st p z s
  | .zset st z => Sys2Proof.Machine.execZset st z s
  | .zget st z => Sys2Proof.Machine.execZget st z s
  | .sld q a => Sys2Proof.Machine.execSld q a s
  | .sst q a => Sys2Proof.Machine.execSst q a s
  | .sadd d a b => Sys2Proof.Machine.execSadd d a b s
  | .smul d a b => Sys2Proof.Machine.execSmul d a b s
  | .sdot d a b => Sys2Proof.Machine.execSdot d a b s
  | .sfromv d st k => Sys2Proof.Machine.execSfromv d st k s
  | .stov d st k => Sys2Proof.Machine.execStov d st k s
  | .slen d st => Sys2Proof.Machine.execSlen d st s
  | .hint h => Sys2Proof.Machine.execHint h s
  | .illegalInstruction => Sys2Proof.Machine.execIllegalInstruction s
  | .msixUnmask => Sys2Proof.Machine.execMsixUnmask s
  | .l2Read => Sys2Proof.Machine.execL2Read s
  | .l2Write => Sys2Proof.Machine.execL2Write s
  | .l2Atomic => Sys2Proof.Machine.execL2Atomic s
  | .hbmFillReturn => Sys2Proof.Machine.execHbmFillReturn s
  | .millAddition => Sys2Proof.Machine.execMillAddition s
  | .consumingReadReserve => Sys2Proof.Machine.execConsumingReadReserve s
  | .consumingReadCommit => Sys2Proof.Machine.execConsumingReadCommit s
  | .rationDeclaration => Sys2Proof.Machine.execRationDeclaration s
  | .lineSpentEvent => Sys2Proof.Machine.execLineSpentEvent s
  | .scopeCloseScan => Sys2Proof.Machine.execScopeCloseScan s
  | .scopeCloseAck => Sys2Proof.Machine.execScopeCloseAck s
  | .futureLoadArrival => Sys2Proof.Machine.execFutureLoadArrival s
  | .futureFillArrival => Sys2Proof.Machine.execFutureFillArrival s
  | .poundWakeup => Sys2Proof.Machine.execPoundWakeup s
  | .deferredAnswer => Sys2Proof.Machine.execDeferredAnswer s
  | .futureNack => Sys2Proof.Machine.execFutureNack s
  | .nackReplay => Sys2Proof.Machine.execNackReplay s
  | .memcfgWrite => Sys2Proof.Machine.execMemcfgWrite s
  | .krovinoRequestArrival => Sys2Proof.Machine.execKrovinoRequestArrival s
  | .pageWalkRead => Sys2Proof.Machine.execPageWalkRead s
  | .xinvPage => Sys2Proof.Machine.execXinvPage s
  | .xinvAsid => Sys2Proof.Machine.execXinvAsid s
  | .xinvAll => Sys2Proof.Machine.execXinvAll s
  | .xinvIgnored => Sys2Proof.Machine.execXinvIgnored s
  | .xinvComplete => Sys2Proof.Machine.execXinvComplete s
  | .scratchpadRemoteAccess => Sys2Proof.Machine.execScratchpadRemoteAccess s
  | .carterAccept => Sys2Proof.Machine.execCarterAccept s
  | .carterTransferBegin => Sys2Proof.Machine.execCarterTransferBegin s
  | .carterUnit => Sys2Proof.Machine.execCarterUnit s
  | .carterComplete => Sys2Proof.Machine.execCarterComplete s
  | .seedWrite => Sys2Proof.Machine.execSeedWrite s
  | .secroleWrite => Sys2Proof.Machine.execSecroleWrite s
  | .asidWrite => Sys2Proof.Machine.execAsidWrite s
  | .bseqWrite => Sys2Proof.Machine.execBseqWrite s
  | .sysregDeferredWrite => Sys2Proof.Machine.execSysregDeferredWrite s
  | .stripQueueAppend => Sys2Proof.Machine.execStripQueueAppend s
  | .stripQueueConsume => Sys2Proof.Machine.execStripQueueConsume s
  | .streamReadAhead => Sys2Proof.Machine.execStreamReadAhead s
  | .fldvTimeout => Sys2Proof.Machine.execFldvTimeout s
  | .aibWordLockstep => Sys2Proof.Machine.execAibWordLockstep s
  | .vpIssue => Sys2Proof.Machine.execVpIssue s
  | .convoyDispatch => Sys2Proof.Machine.execConvoyDispatch s
  | .accRegionClaim => Sys2Proof.Machine.execAccRegionClaim s
  | .matrixAccept => Sys2Proof.Machine.execMatrixAccept s
  | .matrixComplete => Sys2Proof.Machine.execMatrixComplete s
  | .mjoinForm => Sys2Proof.Machine.execMjoinForm s
  | .barrierArrival => Sys2Proof.Machine.execBarrierArrival s
  | .barrierReturn => Sys2Proof.Machine.execBarrierReturn s
  | .crierPostArrival => Sys2Proof.Machine.execCrierPostArrival s
  | .safePointSave => Sys2Proof.Machine.execSafePointSave s
  | .fullSaveDeadline => Sys2Proof.Machine.execFullSaveDeadline s
  | .saveFrameWrite => Sys2Proof.Machine.execSaveFrameWrite s
  | .restore => Sys2Proof.Machine.execRestore s
  | .hqEnable => Sys2Proof.Machine.execHqEnable s
  | .hqTailSnoop => Sys2Proof.Machine.execHqTailSnoop s
  | .hqTailReread => Sys2Proof.Machine.execHqTailReread s
  | .startRecordAccept => Sys2Proof.Machine.execStartRecordAccept s
  | .placeNext => Sys2Proof.Machine.execPlaceNext s
  | .reservation => Sys2Proof.Machine.execReservation s
  | .groupStart => Sys2Proof.Machine.execGroupStart s
  | .spawnGroupStart => Sys2Proof.Machine.execSpawnGroupStart s
  | .launchComplete => Sys2Proof.Machine.execLaunchComplete s
  | .epochRefill => Sys2Proof.Machine.execEpochRefill s
  | .powerLeaveGrant => Sys2Proof.Machine.execPowerLeaveGrant s
  | .leaseExpire => Sys2Proof.Machine.execLeaseExpire s
  | .watchdogFire => Sys2Proof.Machine.execWatchdogFire s
  | .clerkRun => Sys2Proof.Machine.execClerkRun s
  | .clerkHalt => Sys2Proof.Machine.execClerkHalt s
  | .clerkLaunch => Sys2Proof.Machine.execClerkLaunch s
  | .clerkLaunchi => Sys2Proof.Machine.execClerkLaunchi s
  | .clerkWaitge => Sys2Proof.Machine.execClerkWaitge s
  | .clerkWaitgePoll => Sys2Proof.Machine.execClerkWaitgePoll s
  | .clerkStore => Sys2Proof.Machine.execClerkStore s
  | .clerkAdd => Sys2Proof.Machine.execClerkAdd s
  | .clerkSetc => Sys2Proof.Machine.execClerkSetc s
  | .clerkLoop => Sys2Proof.Machine.execClerkLoop s
  | .clerkJge => Sys2Proof.Machine.execClerkJge s
  | .clerkJlt => Sys2Proof.Machine.execClerkJlt s
  | .clerkIrq => Sys2Proof.Machine.execClerkIrq s
  | .clerkJump => Sys2Proof.Machine.execClerkJump s
  | .rqEnable => Sys2Proof.Machine.execRqEnable s
  | .releaseReadyTaken => Sys2Proof.Machine.execReleaseReadyTaken s
  | .releaseVerdictTaken => Sys2Proof.Machine.execReleaseVerdictTaken s
  | .releaseItemDeliver => Sys2Proof.Machine.execReleaseItemDeliver s
  | .ctxHold => Sys2Proof.Machine.execCtxHold s
  | .ctxRelease => Sys2Proof.Machine.execCtxRelease s
  | .ctxKill => Sys2Proof.Machine.execCtxKill s
  | .ctxIgnored => Sys2Proof.Machine.execCtxIgnored s
  | .ctxCommandComplete => Sys2Proof.Machine.execCtxCommandComplete s
  | .unitRetire => Sys2Proof.Machine.execUnitRetire s
  | .maintWindowOpen => Sys2Proof.Machine.execMaintWindowOpen s
  | .selfTestComplete => Sys2Proof.Machine.execSelfTestComplete s
  | .errorRecovery => Sys2Proof.Machine.execErrorRecovery s
  | .sectionArriveStartSet => Sys2Proof.Machine.execSectionArriveStartSet s
  | .sectionFirstUse => Sys2Proof.Machine.execSectionFirstUse s
  | .hostSharedRead => Sys2Proof.Machine.execHostSharedRead s
  | .hostExclusiveRead => Sys2Proof.Machine.execHostExclusiveRead s
  | .hostWrite => Sys2Proof.Machine.execHostWrite s
  | .backInvalidateResponse => Sys2Proof.Machine.execBackInvalidateResponse s
  | .hostSnpInv => Sys2Proof.Machine.execHostSnpInv s
  | .hostSnpData => Sys2Proof.Machine.execHostSnpData s
  | .hostWindowFillReturn => Sys2Proof.Machine.execHostWindowFillReturn s
  | .hostFutureFill => Sys2Proof.Machine.execHostFutureFill s
  | .flitReceive => Sys2Proof.Machine.execFlitReceive s
  | .flitReplay => Sys2Proof.Machine.execFlitReplay s
  | .powerGood => Sys2Proof.Machine.execPowerGood s
  | .bootStageComplete => Sys2Proof.Machine.execBootStageComplete s
  | .recoveryGo => Sys2Proof.Machine.execRecoveryGo s
  | .attestRequest => Sys2Proof.Machine.execAttestRequest s
  | .thermalSample => Sys2Proof.Machine.execThermalSample s
  | .powerCapSet => Sys2Proof.Machine.execPowerCapSet s
  | .registerWrite => Sys2Proof.Machine.execRegisterWrite s
  | .patrolScrub => Sys2Proof.Machine.execPatrolScrub s
  | .retrainedOnSpare => Sys2Proof.Machine.execRetrainedOnSpare s

end Sys2Proof.Machine
end

