-- ==== Sys2Proof/Machine/Sched.lean ====
section
/-!
DEFINITION. Whose turn it is: what can happen next on the device, and the choice among it (R3, R5, R23; log
entry 2).
-/

namespace Sys2Proof.Machine

/-- The group of a slot takes the current group's place; a group that has left its slot is not kept.
[log 2 DESIGN CHOICE] -/
def focus (s : State) (gid : Nat) : State :=
  if s.g.live && s.g.gid == gid then s
  else
    match s.others.find? (fun g => g.live && g.gid == gid) with
    | some g =>
      { s with
        g := g
        others := s.others.filter (fun x => !(x.live && x.gid == gid)) ++ (if s.g.live then [s.g] else [])
        stalled := false }
    | none => s

/-- What a step does. [log 2 DESIGN CHOICE] -/
inductive Turn where
  /-- A group's next instruction. -/
  | run (gid : Nat)
  /-- The next instruction at the head of a group's vector queue. -/
  | queue (gid : Nat)
  /-- A step of a unit, acting on a message. -/
  | unit (i : Instr) (m : Msg)
  /-- A listed step that had to wait is tried again. -/
  | retry (n : Nat)
  /-- The host reads a register over CXL.io. -/
  | hostRead
  /-- Nothing can happen. -/
  | idle
  deriving DecidableEq, Repr

/-- The group can try its next instruction. -/
def Group.canRun (g : Group) : Bool := g.live && g.begun && g.halt.isNone && g.saving.isNone && g.atSpt.isNone

/-! ### The vector sequencer (R408) -/

/-- A convoy of the group is ready: it stands at the head of its queue, or is the next word while the queue is free. -/
def convoyReady (s : State) (g : Group) : Bool :=
  let s := focus s g.gid
  match g.vq with
  | e :: _ => !e.begun && !queueBusy s
  | [] =>
    g.canRun && (match fetchNext s with
      | .run i s => convoyable i && !isMember s.g i && !queueHeld s
      | .stop _ => false)

/-- Rank among the groups of a core with a convoy ready, lowest first: those with a purse above 0, then the higher
PRIO, then ascending slots after the one last served (R408). -/
def seqRank (s : State) (g : Group) : Nat :=
  let k := coreOf s g.pl.core
  let prio := ((findLaunch s g.launch).map Launch.prio).getD 0
  let last := (s.seqServed.find? (fun x => x.1 == g.pl.core)).map (·.2)
  (if 0 < tabGet k.purses g.pl.slot 0 then 0 else 128) + (7 - prio) * 16
    + (match last with
      | some l => (g.pl.slot + 31 - l) % 16
      | none => g.pl.slot)

/-- The group that the sequencer of a core chooses (R408). -/
def seqChoice (s : State) (core : Nat) : Option Nat :=
  match (allGroups s).filter (fun g => g.pl.core == core) with
  | [g] => some g.gid
  | gs =>
    let ready := (gs.filter (convoyReady s)).map (fun g => (seqRank s g, g.gid))
    let best := (ready.map (·.1)).min?
    (ready.find? (fun r => some r.1 == best)).map (·.2)

/-- A step listed when it can happen. -/
def when_ (b : Bool) (i : Instr) (m : Msg) : List (Instr × Msg) := if b then [(i, m)] else []

/-- Steps of a group's own units. -/
def groupSteps (s : State) (g : Group) : List (Instr × Msg) :=
  let m : Msg := { gid := g.gid }
  when_ (!g.begun) .groupStart m
  ++ when_ (g.aib.isSome && !g.abandoned) .aibWordLockstep m
  ++ (let lanes := (g.vps.map (fun v => laneOf { s with g := g } v.idx)).eraseDups
      lanes.flatMap (fun l => match nextVp { s with g := g } l with
        | some v => [(.vpIssue, { m with vp := v.idx })]
        | none => []))
  ++ when_ (decide (0 < g.toll) || ((match g.vq with
      | e :: _ => !e.begun && !queueBusy { s with g := g }
      | [] => false) && !g.abandoned && seqChoice s g.pl.core == some g.gid)) .convoyDispatch m
  ++ when_ (decide (g.appends ≠ [])) .stripQueueAppend m
  ++ when_ g.waits.starved.isSome .stripQueueConsume m
  ++ g.binds.flatMap (fun b => match b.tgt with
    | .stream d pos ahead => when_ (!d.write && decide (pos + ahead.length < d.count)) .streamReadAhead { m with reg := b.reg }
    | _ => [])
  ++ when_ (barrierReady s g) .barrierReturn m
  ++ when_ g.waits.zset.isSome .accRegionClaim m
  ++ when_ g.atSpt.isSome .safePointSave m
  ++ when_ (fullSaveDue { s with g := g }) .fullSaveDeadline m
  ++ when_ (g.saving.isSome || g.halt.isSome) .saveFrameWrite m

/-- Steps of the engines (R97, R323, R331). -/
def engineSteps (s : State) : List (Instr × Msg) :=
  let cores := ((s.eng.xfers.map (fun x : Xfer => x.gid / 16) ++ s.eng.mats.map MatOp.core).filter (fun c => decide (c < 256))).eraseDups
  cores.flatMap (fun c =>
    when_ (carterStep s c).isSome .carterAccept { core := c }
    ++ when_ (beginNext s c).isSome .carterTransferBegin { core := c }
    ++ when_ (matNext s c).isSome .matrixAccept { core := c })
  ++ s.eng.xfers.flatMap (fun x : Xfer =>
    when_ (x.phase == .running && unitsLeft x) .carterUnit { id := x.id }
    ++ when_ (xferReady s x) .carterComplete { id := x.id })
  ++ s.eng.mats.flatMap (fun o : MatOp =>
    when_ (o.phase == .running) .matrixComplete { id := o.id }
    ++ (match o.phase, o.jointId with
      | .join, some j => when_ (jointFull ((jointOps s j).filter (fun q => q.phase == .join))) .mjoinForm { core := j.1, num := j.2 }
      | _, _ => []))

/-- Steps of future loads (R54 to R57); the events of a slice keep their order (R200). -/
def futureSteps (s : State) : List (Instr × Msg) :=
  s.futs.flatMap (fun f => match f.st with
    | .waking _ _ => when_ (firstSent s (.fut f.who)) .poundWakeup { who := f.who }
    | .answering _ _ => when_ (firstSent s (.fut f.who)) .deferredAnswer { who := f.who }
    | .nacked => [(.futureNack, { who := f.who })]
    | .backoff => when_ (resident s f.who) .nackReplay { who := f.who }
    | _ => [])

/-- Steps of rations, Mills, invalidations and posts (R47, R48, R50, R79, R353). -/
def memorySteps (s : State) : List (Instr × Msg) :=
  s.ra.events.zipIdx.flatMap (fun e => when_ (firstSent s (.spent e.1.1 e.1.2)) .lineSpentEvent { idx := e.2 })
  ++ s.ra.closes.flatMap (fun c =>
    c.slices.map (fun u => (.scopeCloseScan, { unit := u })) ++ c.cores.map (fun u => (.scopeCloseScan, { unit := 256 + u }))
    ++ when_ (decide (c.slices = []) && decide (c.cores = [])) .scopeCloseAck {})
  ++ (millLines s).map (fun l => match paKind s (l * 128) with
    | .host => (.hostWindowFillReturn, { line := l, wr := true })
    | _ => (.hbmFillReturn, { line := l }))
  ++ s.xl.walks.map (fun w => (.pageWalkRead, { core := w.core, asid := w.asid, va := w.va }))
  ++ (match s.io.xinv with
    | c :: _ => when_ (!accessPending s c) .xinvComplete {}
    | [] => [])
  ++ s.posts.zipIdx.map (fun p => (.crierPostArrival, { idx := p.2 }))

/-- The step of the Clerk's next command (R414). -/
def clerkStep (s : State) : List (Instr × Msg) :=
  if !s.io.clerk.run then []
  else
    let i : Instr := match clerkOp s with
      | 0x00 => .clerkHalt
      | 0x01 => .clerkLaunch
      | 0x02 => .clerkLaunchi
      | 0x03 => if s.io.clerk.wait then .clerkWaitgePoll else .clerkWaitge
      | 0x04 => .clerkStore
      | 0x05 => .clerkAdd
      | 0x06 => .clerkSetc
      | 0x07 => .clerkLoop
      | 0x08 => .clerkJge
      | 0x09 => .clerkJlt
      | 0x0A => .clerkIrq
      | 0x0B => .clerkJump
      | _ => .clerkRun
    [(i, {})]

/-- Steps of the host and release queues, and of the context commands (R396, R417, R428). -/
def queueSteps (s : State) : List (Instr × Msg) :=
  s.io.hq.flatMap (fun h =>
    when_ (h.2.en && h.2.reread && !h.2.stopped && s.io.bootStage == 5) .hqTailReread { queue := h.1 }
    ++ when_ (hqReady s h.1) .startRecordAccept { queue := h.1 })
  ++ s.io.rq.flatMap (fun r =>
    if !r.2.en then []
    else
      match r.2.entry with
      | none => [(.releaseReadyTaken, { queue := r.1 })]
      | some _ => if r.2.ready then when_ (rqRoom r.2) .releaseItemDeliver { queue := r.1 } else [(.releaseVerdictTaken, { queue := r.1 })])
  ++ (match s.io.ctx with
    | c :: _ => when_ (ctxDone c) .ctxCommandComplete {}
    | [] => [])

/-- Steps of the launch unit (R401, R405, R406, R477, R478). -/
def launchSteps (s : State) : List (Instr × Msg) :=
  if s.launches = [] then []
  else
    when_ (nextPlacement s).isSome .placeNext {}
    ++ s.launches.flatMap (fun l =>
      (sectionsOfImage l).flatMap (fun x =>
        if sectionDue s l x then
          if x.start && l.placed == 0 then [(.sectionArriveStartSet, { launch := l.id, sec := x.idx })]
          else when_ ((allGroups s).any (fun g => g.launch == l.id && (g.external || vpFetching g))) .sectionFirstUse
            { launch := l.id, sec := x.idx }
        else [])
      ++ when_ (decide (l.tasks ≠ []) && (spawnCore s l).isSome) .spawnGroupStart { launch := l.id }
      ++ when_ (launchDone s l) .launchComplete { launch := l.id }
      ++ when_ (reservationDue s l) .reservation { launch := l.id }
      ++ when_ (watchmanDue s l) .watchdogFire { launch := l.id })

/-- Restorations that the Reeves can grant (R403, R432). -/
def restoreSteps (s : State) : List (Instr × Msg) :=
  s.saved.zipIdx.flatMap (fun v =>
    if mayResume s v.1 then
      let cores := if v.1.group.pl.det then
          ((s.teams.filter (fun t => !t.exited)).map Team.core).eraseDups
        else [v.1.group.pl.core]
      cores.flatMap (fun c =>
        if dieOpen s c then
          ((List.range 9).filter (fun n => (n == 0 || v.1.how.resizes) && (restoreSections s v.1 c n).isSome)).map
            (fun n => (.restore, { idx := v.2, core := c, sections := n }))
        else [])
    else [])

/-- The unit steps that can happen now. Those that time, the host, a peer or an error brings come only as listed steps
(log entry 2). [log 2 DESIGN CHOICE] -/
def enabled (s : State) : List (Instr × Msg) :=
  ((List.range 8).filter (fun d => leaveReady s d)).map (fun d => (.powerLeaveGrant, { die := d }))
  ++ (allGroups s).flatMap (groupSteps s) ++ engineSteps s ++ futureSteps s ++ memorySteps s ++ clerkStep s
  ++ queueSteps s ++ launchSteps s ++ restoreSteps s
  ++ (s.io.ports.filter (fun p => p.2.replay)).map (fun p => (.flitReplay, { port := p.1 }))

/-- The line that a listed request names; none for a step that is no request at a home slice. -/
def stepLine (i : Instr) (m : Msg) : Option Nat :=
  match i with
  | .hostSharedRead | .hostExclusiveRead => some (m.half % 2 ^ 46 / 2)
  | .rationDeclaration => some m.line
  | .hostWrite | .l2Read | .l2Write | .l2Atomic | .millAddition | .futureLoadArrival | .futureFillArrival =>
    some (m.pa % 2 ^ 52 / 128)
  | .krovinoRequestArrival => some (match m.req with
    | .read pa _ | .write pa _ _ | .atomic _ pa _ _ _ | .mill pa _ _ _ | .load pa _ | .fill pa _ => pa % 2 ^ 52 / 128)
  | _ => none

/-- An earlier listed request of the same line waits (R37). [log 119 DESIGN CHOICE] -/
def waitsBehind (waiting : List (Instr × Msg)) (i : Instr) (m : Msg) : Bool :=
  (stepLine i m).isSome && waiting.any (fun w => stepLine w.1 w.2 == stepLine i m)

/-- The listed steps that may be tried again: the oldest of each line. -/
def retries (s : State) : List Nat :=
  (List.range s.waiting.length).filter (fun n => match s.waiting[n]? with
    | some w => !waitsBehind (s.waiting.take n) w.1 w.2
    | none => false)

/-- Time passes: the cycle counter, the step count, PWHELD for every request that waits, the Watchman's counters, and
the arena granules that stretched groups hold (R5, R411, R412, R433). [log 8 DESIGN CHOICE] -/
def tick (s : State) : State :=
  let d := Config.stepCycles s.clock
  let waiting (die : Nat) : Nat := (s.eng.leaves.filter (fun l => l.die == die && !l.granted)).length
  let held := s.io.pwheld.zipIdx.map (fun h => h.1 + d * BitVec.ofNat 64 (waiting h.2))
  let s := spillAll s
  { s with
    cycle := s.cycle + d
    clock := s.clock + 1
    barred := false
    launches := s.launches.map (watch s d.toNat)
    io := if s.eng.leaves = [] then s.io else { s.io with pwheld := held } }

/-- A unit's step: every constructor that is no word of Cledezil, and not the illegal word. -/
def isUnitStep (i : Instr) : Bool := (encode i).isNone && i != .illegalInstruction

/-- The state in which a unit's step acts. -/
def withMsg (s : State) (m : Msg) : State := { s with msg := m, stalled := false }

/-- A group whose next step fetches its word: slot 0 of core 0 at steward level, its code at address 0x1000 of space 1. -/
def fetchGroup (s : State) : Group :=
  { s.g with
    live := true
    begun := true
    pl := Place.reset
    pc := 0x1000
    flow := .jumped
    codeBase := 0x1000
    codeLen := 4096
    asid := 1
    spcount := 0
    vq := []
    halt := none
    saving := none
    atSpt := none
    tr := { s.g.tr with lev := true } }

/-- A word that only a body may hold is run from one: the group's lockstep body becomes that word alone, for VP 0, and
the next step performs it (R302). -/
def placeBody (s : State) (i : Instr) : State :=
  { s with
    g := { s.g with aib := some ⟨s.g.pc.toNat, false, [i], 0, 0⟩, vps := [⟨0, .lockstep, none, 0⟩] }
    inputs := [(.aibWordLockstep, { gid := s.g.gid })] }

/-- The bytes of a word stored where the group fetches next, with the translation of its page to a local address, and
everything that makes the next step run it (log entry 2). [log 2 DESIGN CHOICE] -/
def placeWord (s : State) (w : Nat) : State :=
  let s := if s.g.canRun && !s.stalled && s.g.vq == [] && s.inputs == [] && s.others == [] && s.waiting == [] && s.hostReads == []
    then s
    else { s with g := fetchGroup s, others := [], inputs := [], waiting := [], hostReads := [], stalled := false }
  let pc := s.g.pc.toNat
  let pa := match translate s (whoG s) kFetch pc with
    | (.ok pa, _) => some pa
    | (.error _, _) => none
  let s := { s with pm := { s.pm with watch := [], codeOld := [] } }
  let s := match pa with
    | some pa => sliceWrite s pa 4 w
    | none =>
      let t : Tlb := ⟨s.g.asid, 12, bits pc 56 12, s.io.nodeid * 2 ^ 43, 7, false⟩
      let s := { s with xl := { s.xl with
        banks := []
        ctlb := tabPut s.xl.ctlb (s.g.pl.core * 256 + coreSet s.g.asid pc 12) [t] } }
      sliceWrite s (s.io.nodeid * 2 ^ 43 + pc % 4096) 4 w
  match decodeControl w with
  | some i => if bodyOnly i then placeBody s i else s
  | none => s

end Sys2Proof.Machine
end

