-- ==== Sys2Proof/Machine/Issue.lean ====
section
/-!
DEFINITION. A group's next instruction, performed at once or entered in its vector queue; the instruction at the head
of a queue; and whose turn it is at a core's control-thread issue (R3, R5, R23, R297, R374, R407, R420).
-/

namespace Sys2Proof.Machine

/-! ### The head of a vector queue -/

/-- The instruction has been performed: it has retired, where a trap retires nothing (R421). -/
def retiredFrom (s t : State) : Bool := t.g.retired != s.g.retired

/-- x registers `ds` as `t` holds them. -/
def carryX (t : Group) (ds : List Nat) (x : Vector Word 32) : Vector Word 32 :=
  ds.foldl (fun x d => x.setIfInBounds d (t.x.toList.getD d 0)) x

/-- Poison of the x registers `ds` as `t` holds it. -/
def carryPoison (t : Group) (ds : List Nat) (p : List Nat) : List Nat :=
  ds.foldl (fun p d => if t.xPoison.contains d then setAdd p d else setDel p d) p

/-- The word `i` of entry `e` has been performed, giving `t`: what it wrote to x registers reaches the control thread
and the entries behind it, with what a `vfetch` adds to SPCOUNT (R297, R359). [log 130 DEDUCED] -/
def afterHead (t : State) (ct : Group) (e : QueueEntry) (i : Instr) (more : List Instr) (rest : List QueueEntry) : State :=
  let g := t.g
  let ds := (regsOf i).xdst
  let extra := g.spcount - (e.spcount + b2n (counts i && !ct.tr.lev))
  let later (x : QueueEntry) : QueueEntry :=
    { x with x := carryX g ds x.x, xPoison := carryPoison g ds x.xPoison, spcount := x.spcount + extra }
  let e' : QueueEntry := { e with
    words := more, pc := g.pc, flow := g.flow, x := g.x, xPoison := g.xPoison, retired := g.retired, spcount := g.spcount
    convoyLen := g.convoyLen, waits := Waits.none }
  let ct : Group := { ct with
    x := carryX g ds ct.x, xPoison := carryPoison g ds ct.xPoison, spcount := ct.spcount + extra
    vq := (if more = [] then [] else [e']) ++ rest.map later }
  let s := { t with g := g.under ct }
  if more = [] then dropConvoyLeave s s.g.gid else s

/-- The instruction at the head of the current group's vector queue is performed on the control thread as it stood when
it entered (R116, R157). A trap discards what the control thread has done since, with the later entries (R420).
[log 130 DEDUCED] -/
def performHead (s : State) : Host.Outcome State Fault Refusal :=
  match s.g.vq with
  | [] => .next s
  | e :: rest =>
    match e.words with
    | [] => .next { s with g := { s.g with vq := rest } }
    | i :: more =>
      let s1 := { s with g := e.enter s.g }
      match exec i s1 with
      | .next t =>
        .next (if t.stalled then
            { t with g := t.g.under { s.g with vq := { e with waits := t.g.waits } :: rest }, stalled := s.stalled }
          else if retiredFrom s1 t then afterHead t s.g e i more rest
          else t)
      | r => r

/-- The head of the group's queue may be performed; a vector future wait that has ended with a failure is, to trap. -/
def headReady (s : State) (g : Group) : Bool :=
  (match g.vq with
    | e :: _ => e.begun
    | [] => false) && !g.abandoned
  && (!queueBusy { s with g := g } || (g.failing && (g.fldv.map FldvRun.ended) == some true))

/-! ### Running ahead of the queue (R297, R420) -/

/-- The registers that a vector future wait in the queue still writes. -/
def pendingRegs (g : Group) : List Nat × List Nat :=
  match g.fldv with
  | some r => ([r.d], [r.u])
  | none => ([], [])

/-- An instruction names none of them. -/
def clearOf (vs ms : List Nat) (i : Instr) : Bool :=
  let r := regsOf i
  !((r.src ++ r.dst).any vs.contains) && !((r.msrc ++ r.mdst).any ms.contains)

/-- The words of an entry pass every check: performed in turn, each retires. -/
def wordsClear (s : State) : List Instr → Option State
  | [] => some s
  | i :: more =>
    match exec i s with
    | .next t => if t.stalled || !retiredFrom s t then none else wordsClear t more
    | _ => none

/-- The entries pass every check that can make them trap, one after another. -/
def entriesClear (s : State) : List QueueEntry → Bool
  | [] => true
  | e :: rest =>
    (e.begun || (convoyConflict s.g e.words).isNone) &&
      (match wordsClear { s with g := e.enter s.g } e.words with
        | some t => entriesClear t rest
        | none => false)

/-- Every instruction in the current group's queue has cleared (R420): no body can change what they find, they name no
register that a vector future wait has yet to write, and they pass their checks. [log 130 DEDUCED] -/
def allClear (s : State) : Bool :=
  let (vs, ms) := pendingRegs s.g
  s.g.vps = [] && s.g.vq.all (fun e => e.words.all (clearOf vs (realMasks ms)))
    && entriesClear { s with g := { s.g with fldv := none, appends := [] } } s.g.vq

/-- A queued instruction found while the queue is held: it enters, with the other words of its convoy, or waits to
enter. A `vgrant` or `mshape` writes its x register at once (R246, R247). [log 130 DEDUCED] -/
def enterQueue (s : State) (i : Instr) : State :=
  let words := if convoyable i && !isMember s.g i then convoyHere s i else some [i]
  match words with
  | none => waitSection s
  | some ws =>
    match enqueue s ws (!convoyable i || isMember s.g i) with
    | none => waitHere s
    | some t =>
      match i with
      | .vgrant _ _ _ _ | .mshape _ _ =>
        (match exec i s with
          | .next u => if retiredFrom s u then { t with g := { t.g with x := u.g.x, xPoison := u.g.xPoison } } else waitHere s
          | _ => waitHere s)
      | _ => t

/-- An instruction of the control thread behind entries that wait in the queue: a provisional one is performed, unless
it names an x register that the queue is to write or would trap; an access or a wait begins once they have cleared;
any other waits until the queue is empty. [log 130 DEDUCED] -/
def runAhead (s : State) (i : Instr) : Host.Outcome State Fault Refusal :=
  match provisional s i with
  | some xs =>
    if xs.any (awaited s.g).contains then .next (waitHere s)
    else
      match exec i s with
      | .next t => .next (if retiredFrom s t then t else waitHere s)
      | r => r
  | none => if beginsAfter i && awaited s.g == [] && allClear s then exec i s else .next (waitHere s)

/-- The current group's next word fetched, decoded and performed (R218), or entered in its vector queue. -/
def runGroup (s : State) : Host.Outcome State Fault Refusal :=
  match fetchNext s with
  | .run i t =>
    if t.g.failing && t.g.vq == [] then exec i t
    else if queueHeld t && queued i then .next (enterQueue t i)
    else if t.g.vq = [] then exec i t
    else runAhead t i
  | .stop t => .next (if s.g.vq ≠ [] && !t.stalled && !allClear s then waitHere s else t)

/-! ### The control-thread issue of a core (R374, R407) -/

/-- The group's next instruction waits for nothing: it retires, traps, or begins something. -/
def groupReady (s : State) (gid : Nat) : Bool :=
  let s := focus s gid
  match runGroup s with
  | .next t => !t.barred && !(t.stalled && decide (t = { s with stalled := true }))
  | _ => true

/-- Whether the group's next instruction is a convoy's head that the sequencer would issue at once. -/
def headsConvoy (s : State) (g : Group) : Bool := g.vq == [] && convoyReady s g

/-- The group is passed over after a `yield`: another ready group of its core has not had a turn since, and the 16
cycles have not gone by (R407). -/
def passedOver (s : State) (ready : List Nat) (gid : Nat) : Bool :=
  s.passed.any (fun p => p.1 == gid && decide (s.cycle.toNat < p.2.2.toNat) && ready.any (fun h => h != gid && !p.2.1.contains h))

/-- The group of a core whose turn it is: the next ready one in ascending slots after the slot last served (R407). A
group alone on its core tries its instruction again after every other step. [log 2 DESIGN CHOICE] -/
def issueChoice (s : State) (core : Nat) : Option Nat :=
  match (allGroups s).filter (fun g => g.pl.core == core && g.canRun) with
  | [] => none
  | [g] => if s.g.live && s.g.gid == g.gid then (if s.stalled then none else some g.gid)
      else if groupReady s g.gid then some g.gid else none
  | gs =>
    let last := ((s.served.find? (fun x => x.1 == core)).map (·.2)).getD 15
    let order := (List.range 16).filterMap (fun i => (gs.find? (fun g => g.pl.slot == (last + 1 + i) % 16)).map Group.gid)
    let ready := order.filter (groupReady s)
    let seq := seqChoice s core
    ready.find? (fun gid => !passedOver s ready gid
      && (seq == some gid || !(gs.any (fun g => g.gid == gid && headsConvoy s g))))

/-- The group has its turn (R407). -/
def noteTurn (s : State) : State :=
  let me := s.g.gid
  { s with
    served := tabPut s.served s.g.pl.core s.g.pl.slot
    passed := (s.passed.filter (fun p => p.1 != me)).map (fun p =>
      if p.1 / 16 = me / 16 then (p.1, p.2.1 ++ [me], p.2.2) else p) }

/-- Everything that can happen now. [log 2 DESIGN CHOICE] -/
def turns (s : State) : List Turn :=
  let cores := ((allGroups s).map (fun g => g.pl.core)).eraseDups
  (cores.filterMap (issueChoice s)).map .run
    ++ ((allGroups s).filter (headReady s)).map (fun g => .queue g.gid)
    ++ (enabled s).map (fun e => .unit e.1 e.2) ++ (retries s).map .retry
    ++ (if s.hostReads = [] then [] else [.hostRead])

/-- The next turn: the only one there is, or one that the device chooses. [log 2 DESIGN CHOICE] -/
def turnOf (s : State) : Turn :=
  match turns s with
  | [] => .idle
  | [t] => t
  | ts => ts.getD (Config.choice s.clock % ts.length) .idle

end Sys2Proof.Machine
end

