-- ==== Sys2Proof/Machine/Step.lean ====
section
/-!
DEFINITION. One step of the device (R3, R5).
-/

namespace Sys2Proof.Machine

/-- A step that met a line at which it must wait is not performed, and its Back-Invalidate snoops stay out: the device is
as `wait` says (R37, R45, R484, R485). [log 119 DESIGN CHOICE] -/
def finish (wait : State) (r : Host.Outcome State Fault Refusal) : Host.Outcome State Fault Refusal :=
  match r with
  | .next t => if t.barred then .next { wait with snoops := t.snoops } else .next t
  | r => r

/-- One step of a unit. -/
def runUnit (s : State) (i : Instr) (m : Msg) : Host.Outcome State Fault Refusal :=
  if isUnitStep i then exec i (withMsg s m) else .fault .noSuchUnit

/-- One step: the first listed unit step, or what the device does next of itself. A listed step that must wait, or
whose line an earlier one waits for, is kept to be tried again. [log 2 DESIGN CHOICE] -/
def step (s : State) : Host.Outcome State Fault Refusal :=
  match s.inputs with
  | (i, m) :: rest =>
    let s := tick { s with inputs := rest }
    let kept := { s with waiting := s.waiting ++ [(i, m)] }
    if waitsBehind s.waiting i m then .next kept else finish kept (runUnit s i m)
  | [] =>
    match turnOf s with
    | .run gid =>
      let s := noteTurn (focus (tick s) gid)
      finish { s with stalled := true } (runGroup s)
    | .queue gid =>
      let s := focus (tick s) gid
      finish s (performHead s)
    | .unit i m => finish (tick s) (runUnit (tick s) i m)
    | .retry n =>
      match takeNth s.waiting n with
      | some ((i, m), rest) => finish (tick s) (runUnit { tick s with waiting := rest } i m)
      | none => .next (tick s)
    | .hostRead =>
      match s.hostReads with
      | off :: rest => .next (hostRegister { tick s with hostReads := rest } off)
      | [] => .next (tick s)
    | .idle => .next (tick s)

/-- The state with a word stored where `step` fetches its next instruction. [log 2 DESIGN CHOICE] -/
def State.withFetchWord (s : State) (_nbits w : Nat) : State := placeWord s (w % 2 ^ 32)

end Sys2Proof.Machine
end

