-- ==== Sys2Proof/Safety.lean ====
section
/-!
DEFINITION. What counts as a safe run, and the words in which claims are made: what an instruction leaves alone, how
it ends, what a trap saves, and the forms of the instruction set as the rules of the manual state them.
-/

namespace Sys2Proof.Claims

open Sys2Proof Sys2Proof.Machine

/-- The machine goes on. -/
def goesOn (s : State) : Prop := ∃ t, step s = .next t

/-! ### Frames -/

/-- Between `s` and `t` nothing differs but how far the control thread has come: its pc and how it came there, its
counts of retired instructions, what it waited for, and whether its turn is over. -/
def OnlyControl (s t : State) : Prop :=
  ∃ pc flow waits conv ret sp st,
    t = { s with
      g := { s.g with pc := pc, flow := flow, waits := waits, convoyLen := conv, retired := ret, spcount := sp }
      stalled := st }

/-- The word has retired and the next one follows (R229, R359). -/
def Retired (s t : State) : Prop :=
  t.g.pc = s.g.pc + 4 ∧ t.g.retired = s.g.retired + 1 ∧
    t.g.spcount = if s.g.tr.lev then s.g.spcount else s.g.spcount + 1

/-- The word has retired and the word at `p` follows (R232, R233). -/
def JumpedTo (s t : State) (p : Word) : Prop :=
  t.g.pc = p ∧ t.g.flow = .jumped ∧ t.g.retired = s.g.retired + 1 ∧
    t.g.spcount = if s.g.tr.lev then s.g.spcount else s.g.spcount + 1

/-- Register x[d] has taken the value `v` (an undefined one while an unfinished copy is to write the register, R106), its
poison ended, x0 kept; nothing else differs but what `OnlyControl` names (R115, R229, R425). -/
def OnlyX (s t : State) (d : Nat) (v : Word) : Prop :=
  (∃ x p h n, OnlyControl { s with g := { s.g with x := x, xPoison := p, xHit := h }, freeCtr := n } t) ∧
    (∀ r, r ≠ d ∨ r = 0 → getX t r = getX s r) ∧
    (d ∉ s.g.xPend → (d ≠ 0 → getX t d = v) ∧ t.g.xHit = s.g.xHit ∧ t.freeCtr = s.freeCtr) ∧
    (∀ r, r ∈ t.g.xPoison ↔ r ∈ s.g.xPoison ∧ (r ≠ d ∨ d = 0))

/-- Trap entry (R421): the level, the cause, the value and the word that trapped are saved, the control thread
is at steward level at its handler, and nothing else differs but the leave of its convoy, which is given back, and
what `OnlyControl` names; the word is not retired. -/
def TrapEntered (s t : State) (cause : Nat) (val epc : Word) : Prop :=
  t.g.tr = { s.g.tr with plev := s.g.tr.lev, lev := true, tcause := cause, tval := val, tepc := epc &&& ~~~3#64 } ∧
    t.g.pc = s.g.tr.handler ∧ t.g.flow = .jumped ∧ t.g.retired = s.g.retired ∧ t.g.spcount = s.g.spcount ∧
    ∃ leaves tr, OnlyControl { s with g := { s.g with tr := tr }, eng := { s.eng with leaves := leaves } } t

/-! ### Orders between streams -/

/-- Between `s` and `t` nothing differs but which earlier writes are ordered before what the group does next, which of
them are visible at which scope, and whether a release fence stands (R179, R183, R184, R191). -/
def Reordered (s t : State) : Prop :=
  ∃ st a m rf, t = { s with
    pm := { s.pm with stale := st }, g := { s.g with acq := a, mfAcq := m, relFence := rf } }

/-- An acquire stands between the group's writes, or those of other agents so far, and what the group does after `t`
(R184). The form is the model's (log entry 10). -/
def Acquired (t : State) : Prop :=
  t.g.acq = t.clock ∧ ∀ r ∈ t.pm.stale, r.gid = t.g.gid → r.fenced = true

/-- No write of the group that the stream of `w` may not see touches the bytes (R178, R198). -/
def Seen (s : State) (w : Who) (pa n : Nat) : Prop := ∀ r ∈ s.pm.stale, w.misses r = true → r.meets pa n = false

/-! ### The scalar forms as the rules state them -/

/-- A form that writes one x register: its destination, its sources, and the value (R230, R231). -/
structure XForm where
  d    : Nat
  srcs : List Nat
  val  : State → Word

/-- A two-source form. -/
def XForm.two (d a b : Fin 32) (f : Word → Word → Word) : XForm := ⟨d, [a, b], fun s => f (getX s a) (getX s b)⟩

/-- A one-source form. -/
def XForm.one (d a : Fin 32) (f : Word → Word) : XForm := ⟨d, [a], fun s => f (getX s a)⟩

/-- A sign-extended 16-bit immediate. -/
def imm16 (i : Fin 65536) : Word := (BitVec.ofNat 16 i.val).signExtend 64

/-- The results of R149, R230 and R231; clz, ctz and popc have a statement of their own. -/
def xForm : Instr → Option XForm
  | .add d a b => some (.two d a b fun x y => x + y)
  | .sub d a b => some (.two d a b fun x y => x - y)
  | .and d a b => some (.two d a b fun x y => x &&& y)
  | .or d a b => some (.two d a b fun x y => x ||| y)
  | .xor d a b => some (.two d a b fun x y => x ^^^ y)
  | .sll d a b => some (.two d a b fun x y => x <<< (y &&& 63#64))
  | .srl d a b => some (.two d a b fun x y => x >>> (y &&& 63#64))
  | .sra d a b => some (.two d a b fun x y => x.sshiftRight' (y &&& 63#64))
  | .slt d a b => some (.two d a b fun x y => if x.toInt < y.toInt then 1 else 0)
  | .sltu d a b => some (.two d a b fun x y => if x.toNat < y.toNat then 1 else 0)
  | .mul d a b => some (.two d a b fun x y => x * y)
  | .mulh d a b => some (.two d a b fun x y => (x.signExtend 128 * y.signExtend 128).extractLsb' 64 64)
  | .mulhu d a b => some (.two d a b fun x y => (x.zeroExtend 128 * y.zeroExtend 128).extractLsb' 64 64)
  | .div d a b => some (.two d a b fun x y => if y = 0 then BitVec.allOnes 64 else x.sdiv y)
  | .divu d a b => some (.two d a b fun x y => if y = 0 then BitVec.allOnes 64 else x / y)
  | .rem d a b => some (.two d a b fun x y => if y = 0 then x else x.srem y)
  | .remu d a b => some (.two d a b fun x y => if y = 0 then x else x % y)
  | .min d a b => some (.two d a b fun x y => if x.toInt ≤ y.toInt then x else y)
  | .max d a b => some (.two d a b fun x y => if x.toInt ≤ y.toInt then y else x)
  | .minu d a b => some (.two d a b fun x y => if x.toNat ≤ y.toNat then x else y)
  | .maxu d a b => some (.two d a b fun x y => if x.toNat ≤ y.toNat then y else x)
  | .addi d a i => some (.one d a fun x => x + imm16 i)
  | .andi d a i => some (.one d a fun x => x &&& BitVec.ofNat 64 i.val)
  | .ori d a i => some (.one d a fun x => x ||| BitVec.ofNat 64 i.val)
  | .xori d a i => some (.one d a fun x => x ^^^ BitVec.ofNat 64 i.val)
  | .slli d a n => some (.one d a fun x => x <<< n.val)
  | .srli d a n => some (.one d a fun x => x >>> n.val)
  | .srai d a n => some (.one d a fun x => x.sshiftRight n.val)
  | .slti d a i => some (.one d a fun x => if x.toInt < (imm16 i).toInt then 1 else 0)
  | .ldhi d i => some ⟨d, [], fun _ => (BitVec.ofNat 21 i.val).signExtend 64 <<< 16⟩
  | .adpc d i => some ⟨d, [], fun s => s.g.pc + (BitVec.ofNat 21 i.val).signExtend 64 <<< 16⟩
  | _ => none

/-- A conditional branch: its sources, its offset in words, and when it is taken (R232). -/
structure BranchForm where
  a     : Nat
  b     : Nat
  off   : Fin 65536
  taken : Word → Word → Prop

def branchForm : Instr → Option BranchForm
  | .beq a b o => some ⟨a, b, o, fun x y => x = y⟩
  | .bne a b o => some ⟨a, b, o, fun x y => x ≠ y⟩
  | .blt a b o => some ⟨a, b, o, fun x y => x.toInt < y.toInt⟩
  | .bge a b o => some ⟨a, b, o, fun x y => y.toInt ≤ x.toInt⟩
  | .bltu a b o => some ⟨a, b, o, fun x y => x.toNat < y.toNat⟩
  | .bgeu a b o => some ⟨a, b, o, fun x y => y.toNat ≤ x.toNat⟩
  | _ => none

/-- The target of a conditional branch at the current word. -/
def BranchForm.target (f : BranchForm) (s : State) : Word := s.g.pc + imm16 f.off * 4

/-- The target of `jl` at the current word. -/
def jlTarget (s : State) (o : Fin 67108864) : Word := s.g.pc + (BitVec.ofNat 26 o.val).signExtend 64 * 4

/-- The group's trap can be delivered: there is a handler, and a trap at steward level is not at the handler itself
(R421). -/
def deliverable (s : State) (epc : Word) : Prop := ¬ halts s.g epc

/-- No addition of a Mill that waits for its line is to change any of `n` bytes at `pa`, or waits for the line of
`pa` (R50). -/
def Undisturbed (s : State) (pa n : Nat) : Prop :=
  ∀ c ∈ s.chains, lineOf c.pa ≠ lineOf pa ∧ (c.pa + cw c.tag / 8 ≤ pa ∨ pa + n ≤ c.pa)

/-- No addition that waits for its line is to change the byte. -/
def Unawaited (s : State) (a : Nat) : Prop := ∀ c ∈ s.chains, a < c.pa ∨ c.pa + cw c.tag / 8 ≤ a

/-- Every byte of memory that no waiting addition of a Mill is about to change reads as before. -/
def MemoryKept (s t : State) : Prop := ∀ a, Unawaited s a → t.pm.byte a = s.pm.byte a

/-- Every such byte outside `n` bytes at `pa` reads as before. -/
def MemoryKeptBut (s t : State) (pa n : Nat) : Prop :=
  ∀ a, Unawaited s a → (a < pa ∨ pa + n ≤ a) → t.pm.byte a = s.pm.byte a

/-! ### Scalar accesses -/

/-- A form that accesses memory at a computed address: base register, offset, size in bytes (R234, R236). -/
structure MemForm where
  a    : Nat
  off  : Word
  n    : Nat
  srcs : List Nat

/-- The effective address. -/
def MemForm.ea (f : MemForm) (s : State) : Word := getX s f.a + f.off

/-- An offset of 13 bits. -/
def off13 (o : Fin 8192) : Word := (BitVec.ofNat 13 o.val).signExtend 64

/-- The scalar loads: the access, the destination, and what the register receives of the bytes read (R234). -/
def loadForm : Instr → Option (MemForm × Nat × (Nat → Word))
  | .ldB d a o => some (⟨a, off13 o, 1, [a]⟩, d, fun v => (BitVec.ofNat 8 v).signExtend 64)
  | .ldH d a o => some (⟨a, off13 o, 2, [a]⟩, d, fun v => (BitVec.ofNat 16 v).signExtend 64)
  | .ldW d a o => some (⟨a, off13 o, 4, [a]⟩, d, fun v => (BitVec.ofNat 32 v).signExtend 64)
  | .ldD d a o => some (⟨a, off13 o, 8, [a]⟩, d, fun v => BitVec.ofNat 64 v)
  | .ldBu d a o => some (⟨a, off13 o, 1, [a]⟩, d, fun v => BitVec.ofNat 64 v)
  | .ldHu d a o => some (⟨a, off13 o, 2, [a]⟩, d, fun v => BitVec.ofNat 64 v)
  | .ldWu d a o => some (⟨a, off13 o, 4, [a]⟩, d, fun v => BitVec.ofNat 64 v)
  | _ => none

/-- The scalar stores: the access and the register stored (R234). -/
def storeForm : Instr → Option (MemForm × Nat)
  | .stB r a o => some (⟨a, off13 o, 1, [a, r]⟩, r)
  | .stH r a o => some (⟨a, off13 o, 2, [a, r]⟩, r)
  | .stW r a o => some (⟨a, off13 o, 4, [a, r]⟩, r)
  | .stD r a o => some (⟨a, off13 o, 8, [a, r]⟩, r)
  | _ => none

/-- Size of an AMO. -/
def amoBytes (w : Bool) : Nat := if w then 8 else 4

/-- The scalar atomics: the access, the destination if the form has one, and the value left in memory, from the old
value, the operand and the compare value, each as a bit vector of the access's width (R236). -/
def amoForm : Instr → Option (MemForm × Option Nat × (∀ w, BitVec w → BitVec w → BitVec w → BitVec w) × Nat × Nat)
  | .amoSwap d a b _ _ w => some (⟨a, 0, amoBytes w, [a, b]⟩, some d, fun _ _ b _ => b, b, d)
  | .amoAdd d a b _ _ w => some (⟨a, 0, amoBytes w, [a, b]⟩, some d, fun _ x b _ => x + b, b, d)
  | .amoAnd d a b _ _ w => some (⟨a, 0, amoBytes w, [a, b]⟩, some d, fun _ x b _ => x &&& b, b, d)
  | .amoOr d a b _ _ w => some (⟨a, 0, amoBytes w, [a, b]⟩, some d, fun _ x b _ => x ||| b, b, d)
  | .amoXor d a b _ _ w => some (⟨a, 0, amoBytes w, [a, b]⟩, some d, fun _ x b _ => x ^^^ b, b, d)
  | .amoMin d a b _ _ w => some (⟨a, 0, amoBytes w, [a, b]⟩, some d, fun _ x b _ => if x.toInt ≤ b.toInt then x else b, b, d)
  | .amoMax d a b _ _ w => some (⟨a, 0, amoBytes w, [a, b]⟩, some d, fun _ x b _ => if x.toInt ≤ b.toInt then b else x, b, d)
  | .amoMinu d a b _ _ w => some (⟨a, 0, amoBytes w, [a, b]⟩, some d, fun _ x b _ => if x.toNat ≤ b.toNat then x else b, b, d)
  | .amoMaxu d a b _ _ w => some (⟨a, 0, amoBytes w, [a, b]⟩, some d, fun _ x b _ => if x.toNat ≤ b.toNat then b else x, b, d)
  | .amoCas d a b _ _ w => some (⟨a, 0, amoBytes w, [a, b, d]⟩, some d, fun _ x b c => if x = c then b else x, b, d)
  | .amoLd d a _ _ w => some (⟨a, 0, amoBytes w, [a, 0]⟩, some d, fun _ x _ _ => x, 0, d)
  | .amoSt a b _ _ w => some (⟨a, 0, amoBytes w, [a, b]⟩, none, fun _ _ b _ => b, b, 0)
  | _ => none

/-- Orders of the scalar atomics (R182). -/
def amoOrder : Instr → Nat
  | .amoSwap _ _ _ _ o _ | .amoAdd _ _ _ _ o _ | .amoAnd _ _ _ _ o _ | .amoOr _ _ _ _ o _ | .amoXor _ _ _ _ o _
  | .amoMin _ _ _ _ o _ | .amoMax _ _ _ _ o _ | .amoMinu _ _ _ _ o _ | .amoMaxu _ _ _ _ o _ | .amoCas _ _ _ _ o _
  | .amoLd _ _ _ o _ | .amoSt _ _ _ o _ => o
  | _ => 0

/-- The atomic is a release: its order is release or acq_rel, and it writes (R182, R183). -/
def amoReleases (i : Instr) : Bool :=
  decide (2 ≤ amoOrder i) && (match i with
    | .amoLd _ _ _ _ _ => false
    | _ => true)

/-- The atomic is an acquire: its order is acquire or acq_rel, and it reads (R182, R184). -/
def amoAcquires (i : Instr) : Bool :=
  decide (amoOrder i % 2 = 1) && (match i with
    | .amoSt _ _ _ _ _ => false
    | _ => true)

/-- The access of any scalar memory form. -/
def memForm (i : Instr) : Option MemForm :=
  ((loadForm i).map (·.1)) <|> ((storeForm i).map (·.1)) <|> ((amoForm i).map (·.1))

/-- What an access changes besides what it stores: which lines its slice holds and in what order, which writes others
may not see yet, the translation buffers, additions of a Mill that are no longer on their way, walks for which
invalidations wait, and whether the step must be tried again because of a line that it met, with the snoops for that. -/
def Looked (s s' : State) : Prop :=
  ∃ pm xl ch fc xi bd sn, s' = { s with
    pm := pm, xl := xl, chains := ch, freeCtr := fc, io := { s.io with xinv := xi }, barred := bd, snoops := sn }

/-- The access reaches `n` bytes of main memory at `pa` within its line: the address is aligned and translated for the
kind of access, and no addition of a Mill waits for the line (R31, R50, R83). -/
structure Reaches (s : State) (f : MemForm) (kind pa : Nat) (s1 : State) : Prop where
  form    : Memory.wf s.pm = true
  clean   : poisonedX s f.srcs = none
  aligned : (f.ea s).toNat % f.n = 0
  mapped  : translate s (whoG s) kind (f.ea s).toNat = (.ok pa, s1)
  offset  : pa % f.n = 0
  memory  : paKind s pa = .hbm ∨ paKind s pa = .host
  still   : Undisturbed s pa f.n

/-! ### System registers -/

/-- The value that a register shows after `w` is written into it at steward level, or at task level where the table
of R242 lets it (R110, R128, R155, R156, R242, R243, R421, R437). -/
def storedValue (s : State) (n : Nat) (w : Word) : Word :=
  let low (k : Nat) : Word := BitVec.ofNat 64 (w.toNat % 2 ^ k)
  match n with
  | 0x000 | 0x001 | 0x002 => low 19
  | 0x003 | 0x032 => low 32
  | 0x012 => BitVec.ofNat 64 ((ownedSections s s.g).foldl (fun a i => a + (if w.getLsbD i then 2 ^ i else 0)) 0)
  | 0x020 => low 10
  | 0x021 => low 9
  | 0x022 => low 13
  | 0x030 => (w &&& 0xF80#64) ||| (if 6 ≤ (w &&& 7#64).toNat then 0 else w &&& 7#64)
  | 0x031 => low 5
  | 0x040 => BitVec.ofNat 64 (max 64 (w.toNat % 2 ^ 16))
  | 0x041 => low 17
  | 0x050 | 0x053 | 0x078 => w &&& ~~~3#64
  | 0x051 => low 8
  | 0x054 => (w &&& 2#64) ||| (if s.g.tr.lev then 1 else 0)
  | 0x070 => low 16
  | 0x072 => w + 1
  | 0x079 => low 40
  | 0x080 => low 48
  | 0x081 => w &&& 0xFFFFFFFFFF0F1#64
  | n =>
    if 0x060 ≤ n ∧ n ≤ 0x067 then
      (w &&& 0xFFFFFFFF#64) ||| (sysRead s n &&& w &&& 0x100000000#64)
    else w

/-- A write of `w` to system register `n` completes no batch: the batch that it makes the open one is the next (R112). -/
def NoneCompletes (n : Nat) (w : Word) : Prop :=
  0x060 ≤ n → n ≤ 0x067 → (w.toNat / 65536 % 65536 + 1) % 65536 = w.toNat % 65536

/-! ### Futures -/

/-- A scalar future load: destination, base, whether it empties the word, whether it is external (R267). -/
def futForm : Instr → Option (Nat × Nat × Bool × Bool)
  | .fld d a => some (d, a, false, false)
  | .fldE d a => some (d, a, true, false)
  | .fldx d a => some (d, a, false, true)
  | .fldxE d a => some (d, a, true, true)
  | _ => none

/-- The group itself, as one that waits for a future. -/
def self (s : State) : Waiter := .group s.g.gid

/-- The request of a future wait has not been answered. -/
def Unanswered (f : FutWait) : Prop :=
  (∃ sl i, f.st = .parked sl i) ∨ (∃ sl, f.st = .deferred sl) ∨ f.st = .nacked

/-- Every full/empty bit but that of the word at `pa` reads as before (R40). -/
def BitsKept (s t : State) (pa : Nat) : Prop := ∀ w, w ≠ pa / 8 → t.pm.isFull w = s.pm.isFull w

/-- The future word of an access: aligned, mapped for the access, in the HBM4 of a node that can be reached, with no
addition of a Mill on its way to its line (R41, R54, R60). -/
structure FutureAt (s : State) (ea : Word) (kind pa : Nat) (s1 : State) : Prop where
  form  : Memory.wf s.pm = true
  found : checkFuture s (whoG s) kind ea.toNat = (.ok pa, s1)
  here  : paKind s pa = .hbm
  still : Undisturbed s pa 8
  place : pa % 8 = 0

/-! ### Barriers -/

/-- A barrier as its home shows it after an arrival that completes the phase (R346). -/
def Completed (b b' : Barrier) : Prop :=
  b'.memb = b.memb ∧ b'.arr = 0 ∧ b'.gen = (b.gen + 1) % 2 ^ 32 ∧ b'.p = !b.p

/-- Barrier `b` of the current group's team, or of its cluster; a placeholder where there is none. -/
def myBar (s : State) (cluster : Bool) (b : Nat) : Barrier :=
  match teamOf s s.g with
  | some t => barOf s t cluster b
  | none => ⟨0, 0, 0, false, []⟩

/-- Nothing of the group waits for a barrier, a post or a batch. -/
def Settled (s : State) : Prop := s.g.arrived = [] ∧ s.g.waits = Waits.none ∧ s.g.binds = []

/-! ### Batches and copies -/

/-- The closing of a token's open batch does not stall (R111). -/
def Closable (s : State) (k : Nat) : Prop := (closeBatch s k).isSome = true

/-- No transfer of the token has been performed whose batch is not complete, so that no destination register waits for
it (R106, R112). -/
def NothingToLand (s : State) (k : Nat) : Prop :=
  ∀ x ∈ s.eng.xfers, x.gid = s.g.gid → x.tok = k → x.phase ≠ .done

/-- A copy between places of main memory that can be issued, as the rules on its descriptor stand (R99, R274): `d` is the
descriptor that is read at its address; it names no notify future and no count. -/
structure CopyFits (s : State) (da : Word) (tok ret : Nat) (mreg : Nat) (rows : Option Nat) (masked : Bool)
    (d : Vector Word 16) : Prop where
  form    : Memory.wf s.pm = true
  idle    : queueHeld s = false
  whole   : isSplit s s.g = false
  sound   : s.granules = []
  read    : ∃ pa s1, checkLoc (setVc s (fun v => { v with vstart := 0 })) (whoV s) kRead (.va da.toNat) 128 128
              = (.ok (.pa pa), s1) ∧ paKind s1 pa = .hbm ∧ Undisturbed s pa 128 ∧ Seen s (whoV s) pa 128 ∧ pa % 128 = 0 ∧
              s1.pm.linePoison (lineOf pa) = false ∧
              d = Vector.ofFn (fun i => BitVec.ofNat 64 (s.pm.word (pa + 8 * i.val) 8))
  legal   : descIllegal d rows.isSome ret = false
  plain   : dNotify d = 0 ∧ dCount d = 0 ∧ dSrcK d = 0 ∧ dDstK d = 0
  aligned : descMisaligned d = none
  rowsOk  : ∀ r, rows = some r → rowTag (vregOf s.g r).tag = true ∧
              s.g.vc.vl ≤ capacity s r (vregOf s.g r).tag (vregOf s.g r).gf

/-- Every earlier vector instruction of the group has completed, and every VP that it launched has rejoined or stopped
(R307). -/
def Settles (s : State) : Prop :=
  s.g.aib = none ∧ s.g.fldv = none ∧ s.g.appends = [] ∧ s.g.vq = [] ∧
    ∀ v ∈ s.g.vps, ∃ aib pos c h, v.st = .stopped aib pos c h

/-! ### Bodies -/

/-- The group executes a body in lockstep that stands at `i`, with words behind it, and nothing keeps the word from being
performed for the VPs (R302). -/
structure BodyAtWord (s : State) (i : Instr) (a : AibRun) : Prop where
  body : s.g.aib = some a
  here : a.body[a.pos]? = some i
  more : a.pos + 1 < a.body.length
  lock : a.xq = false
  some_vp : lockVps s.g ≠ []
  free : s.g.fldv = none
  goes : s.g.abandoned = false

/-- The VPs for which a word of the body acts. -/
def actors (s : State) (m : Nat) : List Nat := active s.g (lockCtx s (lockVps s.g)) m

/-! ### Vector forms -/

/-- Nothing keeps a vector word of the control thread from being performed at once: the queue is not held, no register
is bound, the group is not split, and no granule is poisoned (R138, R142, R274, R424). -/
structure VectorReady (s : State) : Prop where
  idle  : queueHeld s = false
  loose : s.g.binds = []
  whole : isSplit s s.g = false
  sound : s.granules = []

/-- VL lies within a source register's capacity (R127). -/
def SourceFits (s : State) (r : Nat) : Prop :=
  s.g.vc.vl ≤ capacity s r (vregOf s.g r).tag (vregOf s.g r).gf

/-- The destination takes results of tag `t` in that tag: no unfinished copy is to write it, it is unpinned or has the tag,
VL lies within its capacity, and the group has the rows (R106, R119, R127, R131, R168). -/
structure DestFits (s : State) (d t : Nat) : Prop where
  free : d ∉ s.g.vPend
  tag  : (vregOf s.g d).pin = false ∨ (vregOf s.g d).tag = t
  room : s.g.vc.vl ≤ capacity s d t (vregOf s.g d).gf
  rows : rowsWith s.g.rowMap d
          (rowsNeed t (vregOf s.g d).gf (vregOf s.g d).td (sideLanes s s.g (vSide d)) s.g.vc.vl) ≤ 1024

/-- The elements at which a vector word of the control thread acts under mask `m`. -/
def acting (s : State) (m : Nat) : List Nat := active s.g (ctxG s) m

/-- The same for a form that takes VSTART as 0 (R291). -/
def actingFrom0 (s : State) (m : Nat) : List Nat := active s.g (ctxG s).fromZero m

/-- What a vector word changes besides registers v and m: VSTART is 0, flags may be raised, LFSRs may step, its toll
is due, free values may have been taken, and the control thread goes on. -/
def VectorRest (s t : State) : Prop :=
  ∃ v vs m mh rm ff lf toll fc ck,
    OnlyControl { s with
      g := { s.g with v := v, vSeq := vs, m := m, mHit := mh, rowMap := rm, toll := toll
                      vc := { s.g.vc with fflags := ff, lfsr := lf, vstart := 0 } }
      freeCtr := fc, clock := ck } t

/-- A vector word has retired, having changed no vector register but `d`, no mask register, and no flag but those in
`fl` (R156, R281). -/
structure WroteV (s t : State) (d : Nat) : Prop where
  rest   : VectorRest s t
  others : ∀ r, r ≠ d → vregOf t.g r = vregOf s.g r
  masks  : t.g.m = s.g.m
  sticky : s.g.vc.fflags ||| t.g.vc.fflags = t.g.vc.fflags
  done   : Retired s t

/-- Elements of `d` that the word does not write keep their patterns when the register has the tag already; in a tail-dead
register those that are defined and lie below VL do (R131, R281). -/
def ElementsKept (s t : State) (d tag : Nat) (es : List Nat) : Prop :=
  (vregOf t.g d).tag = tag ∧
    ((vregOf s.g d).tag = tag → ∀ e, e ∉ es →
      (vregOf s.g d).td = false ∨ (e < s.g.vc.vl ∧ (tabGet? (vregOf s.g d).elems e).isSome = true) →
      elemOf t d e = elemOf s d e)

/-- An element as the integer that it stands for, in `w` bits: extended by its own signedness, or cut (R167). -/
def elemBits (s : State) (r w e : Nat) : BitVec w := BitVec.ofInt w (elemInt s r e)

/-- An element-wise integer form: registers, mask, whether the second operand is a scalar, whether the destination is an
addend, whether there is one source only, whether bit registers are taken, and the result in the operation's width
(R149, R283, R285). -/
structure IntForm where
  d     : Nat
  a     : Nat
  b     : Nat
  m     : Nat
  k     : Bool
  fused : Bool
  one   : Bool
  bitOk : Bool
  val   : (signed : Bool) → (w : Nat) → BitVec w → BitVec w → BitVec w → BitVec w

/-- The lesser of two integers of a width. -/
def below (signed : Bool) {w : Nat} (x y : BitVec w) : Bool := if signed then x.slt y else x.ult y

/-- An integer clamped to a width. -/
def clampBits (signed : Bool) (w : Nat) (z : Int) : BitVec w :=
  let lo : Int := if signed then -(2 ^ (w - 1) : Nat) else 0
  let hi : Int := if signed then (2 ^ (w - 1) : Nat) - 1 else (2 ^ w : Nat) - 1
  BitVec.ofInt w (if z < lo then lo else if hi < z then hi else z)

def asInt (signed : Bool) {w : Nat} (x : BitVec w) : Int := if signed then x.toInt else x.toNat

def intForm : Instr → Option IntForm
  | .vadd d a b m _ k => some ⟨d, a, b, m, k, false, false, false, fun _ _ x y _ => x + y⟩
  | .vsub d a b m _ k => some ⟨d, a, b, m, k, false, false, false, fun _ _ x y _ => x - y⟩
  | .vrsub d a b m _ k => some ⟨d, a, b, m, k, false, false, false, fun _ _ x y _ => y - x⟩
  | .vmul d a b m _ k => some ⟨d, a, b, m, k, false, false, false, fun _ _ x y _ => x * y⟩
  | .vmulh d a b m _ k => some ⟨d, a, b, m, k, false, false, false, fun g w x y _ =>
      BitVec.ofInt w (asInt g x * asInt g y / (2 ^ w : Nat))⟩
  | .vdiv d a b m _ k => some ⟨d, a, b, m, k, false, false, false, fun g w x y _ =>
      if y = 0 then BitVec.allOnes w else if g then x.sdiv y else x / y⟩
  | .vrem d a b m _ k => some ⟨d, a, b, m, k, false, false, false, fun g _ x y _ =>
      if y = 0 then x else if g then x.srem y else x % y⟩
  | .vmin d a b m _ k => some ⟨d, a, b, m, k, false, false, false, fun g _ x y _ => if below g y x then y else x⟩
  | .vmax d a b m _ k => some ⟨d, a, b, m, k, false, false, false, fun g _ x y _ => if below g x y then y else x⟩
  | .vfma d a b m _ k => some ⟨d, a, b, m, k, true, false, false, fun _ _ x y z => x * y + z⟩
  | .vfms d a b m _ k => some ⟨d, a, b, m, k, true, false, false, fun _ _ x y z => x * y - z⟩
  | .vfnma d a b m _ k => some ⟨d, a, b, m, k, true, false, false, fun _ _ x y z => z - x * y⟩
  | .vsadd d a b m _ k => some ⟨d, a, b, m, k, false, false, false, fun g w x y _ => clampBits g w (asInt g x + asInt g y)⟩
  | .vssub d a b m _ k => some ⟨d, a, b, m, k, false, false, false, fun g w x y _ => clampBits g w (asInt g x - asInt g y)⟩
  | .vabsd d a b m _ k => some ⟨d, a, b, m, k, false, false, false, fun g _ x y _ => if below g x y then y - x else x - y⟩
  | .vabs d b m _ => some ⟨d, b, b, m, false, false, true, false, fun g _ _ y _ => if below g y 0 then -y else y⟩
  | .vneg d b m _ => some ⟨d, b, b, m, false, false, true, false, fun _ _ _ y _ => -y⟩
  | .vand d a b m _ k => some ⟨d, a, b, m, k, false, false, true, fun _ _ x y _ => x &&& y⟩
  | .vor d a b m _ k => some ⟨d, a, b, m, k, false, false, true, fun _ _ x y _ => x ||| y⟩
  | .vxor d a b m _ k => some ⟨d, a, b, m, k, false, false, true, fun _ _ x y _ => x ^^^ y⟩
  | .vandn d a b m _ k => some ⟨d, a, b, m, k, false, false, true, fun _ _ x y _ => x &&& ~~~y⟩
  | .vnot d b m _ => some ⟨d, b, b, m, false, false, true, true, fun _ _ _ y _ => ~~~y⟩
  | .vsll d a b m _ k => some ⟨d, a, b, m, k, false, false, false, fun _ w x y _ => x <<< (y.toNat % w)⟩
  | .vsrl d a b m _ k => some ⟨d, a, b, m, k, false, false, false, fun _ w x y _ => x >>> (y.toNat % w)⟩
  | .vsra d a b m _ k => some ⟨d, a, b, m, k, false, false, false, fun _ w x y _ => x.sshiftRight (y.toNat % w)⟩
  | .vclz d b m _ => some ⟨d, b, b, m, false, false, true, false, fun _ w _ y _ =>
      BitVec.ofNat w ((List.range w).findIdx (fun i => y.getLsbD (w - 1 - i)))⟩
  | .vpopc d b m _ => some ⟨d, b, b, m, false, false, true, false, fun _ w _ y _ =>
      BitVec.ofNat w ((List.range w).filter (fun i => y.getLsbD i)).length⟩
  | _ => none

/-- An element-wise float form: as `IntForm`, with the exact result of the operation and its flags, and whether the
form does not round (R152, R156, R283). -/
structure FloatForm where
  d     : Nat
  a     : Nat
  b     : Nat
  m     : Nat
  k     : Bool
  fused : Bool
  one   : Bool
  exact : Bool
  val   : (rdn : Bool) → Ex → Ex → Ex → Ex × Nat

/-- A NaN becomes the canonical NaN, with NV when it signals; any other value takes the sign. -/
def signed (f : Ex → Ex) (x : Ex) : Ex × Nat := if x.isNan then (.nan false, nvIf x.isSig) else (f x, 0)

def floatForm : Instr → Option FloatForm
  | .vadd d a b m _ k => some ⟨d, a, b, m, k, false, false, false, fun r x y _ => exAdd r x y⟩
  | .vsub d a b m _ k => some ⟨d, a, b, m, k, false, false, false, fun r x y _ => exAdd r x y.flip⟩
  | .vrsub d a b m _ k => some ⟨d, a, b, m, k, false, false, false, fun r x y _ => exAdd r y x.flip⟩
  | .vmul d a b m _ k => some ⟨d, a, b, m, k, false, false, false, fun _ x y _ => exMul x y⟩
  | .vdiv d a b m _ k => some ⟨d, a, b, m, k, false, false, false, fun _ x y _ => exDiv x y⟩
  | .vmin d a b m _ k => some ⟨d, a, b, m, k, false, false, true, fun _ x y _ => exMinMax true x y⟩
  | .vmax d a b m _ k => some ⟨d, a, b, m, k, false, false, true, fun _ x y _ => exMinMax false x y⟩
  | .vfma d a b m _ k => some ⟨d, a, b, m, k, true, false, false, fun r x y z =>
      ((exAdd r (exMul x y).1 z).1, (exMul x y).2 ||| (exAdd r (exMul x y).1 z).2)⟩
  | .vfms d a b m _ k => some ⟨d, a, b, m, k, true, false, false, fun r x y z =>
      ((exAdd r (exMul x y).1 z.flip).1, (exMul x y).2 ||| (exAdd r (exMul x y).1 z.flip).2)⟩
  | .vfnma d a b m _ k => some ⟨d, a, b, m, k, true, false, false, fun r x y z =>
      ((exAdd r (exMul x y).1.flip z).1, (exMul x y).2 ||| (exAdd r (exMul x y).1.flip z).2)⟩
  | .vabsd d a b m _ k => some ⟨d, a, b, m, k, false, false, false, fun r x y _ =>
      ((exAdd r x y.flip).1.withNeg false, (exAdd r x y.flip).2)⟩
  | .vabs d b m _ => some ⟨d, b, b, m, false, false, true, true, fun _ _ y _ => signed (fun v => v.withNeg false) y⟩
  | .vneg d b m _ => some ⟨d, b, b, m, false, false, true, true, fun _ _ y _ => signed Ex.flip y⟩
  | _ => none

/-- A comparison: registers, mask, whether the second operand is a scalar, the relation on integers, and on floats the
relation on values with the answer for a NaN (R286). -/
structure CmpForm where
  d   : Nat
  a   : Nat
  b   : Nat
  m   : Nat
  k   : Bool
  int : Int → Int → Bool
  flt : Ordering → Bool
  nan : Bool

def cmpForm : Instr → Option CmpForm
  | .vceq d a b m _ k => some ⟨d, a, b, m, k, fun x y => x == y, fun o => o == .eq, false⟩
  | .vcne d a b m _ k => some ⟨d, a, b, m, k, fun x y => x != y, fun o => o != .eq, true⟩
  | .vclt d a b m _ k => some ⟨d, a, b, m, k, fun x y => decide (x < y), fun o => o == .lt, false⟩
  | .vcle d a b m _ k => some ⟨d, a, b, m, k, fun x y => decide (x ≤ y), fun o => o != .gt, false⟩
  | .vcgt d a b m _ k => some ⟨d, a, b, m, k, fun x y => decide (y < x), fun o => o == .gt, false⟩
  | .vcge d a b m _ k => some ⟨d, a, b, m, k, fun x y => decide (y ≤ x), fun o => o != .lt, false⟩
  | .vcun d a b m _ k => some ⟨d, a, b, m, k, fun _ _ => false, fun _ => false, true⟩
  | _ => none

/-- The tag of the second operand: its own, or for a scalar that of the first (R280). -/
def secondTag (s : State) (k : Bool) (a b : Nat) : Nat := if k then (vregOf s.g a).tag else (vregOf s.g b).tag

/-- A scalar operand that is not poisoned. -/
def scalarClean (s : State) (k : Bool) (b : Nat) : Prop := k = true → poisonedX s [b] = none

/-- The second operand as an integer of the operation's width. -/
def secondBits (s : State) (k : Bool) (a b w e : Nat) : BitVec w :=
  if k then BitVec.ofInt w (intVal (vregOf s.g a).tag ((getX s b).toNat % 2 ^ cw (vregOf s.g a).tag)) else elemBits s b w e

/-- The second operand as an exact float. -/
def secondEx (s : State) (k : Bool) (a b e : Nat) : Ex :=
  (if k then valOf s.g.vc.fmode (vregOf s.g a).tag ((getX s b).toNat % 2 ^ cw (vregOf s.g a).tag)
   else elemVal s s.g.vc.fmode b e).ex

/-- The sources of an element-wise form fit: their registers' capacity, and the scalar's poison. -/
def sourcesFit (s : State) (k one fused : Bool) (a b d : Nat) : Prop :=
  SourceFits s a ∧ (k = false → one = false → SourceFits s b) ∧ (fused = true → SourceFits s d) ∧ scalarClean s k b

/-- A reduction over integers: registers, mask, and the combination with its identity (R292). -/
structure RedForm where
  d  : Nat
  a  : Nat
  b  : Nat
  m  : Nat
  logic : Bool
  op : (signed : Bool) → (w : Nat) → BitVec w → BitVec w → BitVec w

def redForm : Instr → Option RedForm
  | .vredsum d a b m _ => some ⟨d, a, b, m, false, fun _ _ x y => x + y⟩
  | .vredsumU d a b m _ => some ⟨d, a, b, m, false, fun _ _ x y => x + y⟩
  | .vredmin d a b m _ => some ⟨d, a, b, m, false, fun g _ x y => if below g y x then y else x⟩
  | .vredmax d a b m _ => some ⟨d, a, b, m, false, fun g _ x y => if below g x y then y else x⟩
  | .vredand d a b m _ => some ⟨d, a, b, m, true, fun _ _ x y => x &&& y⟩
  | .vredor d a b m _ => some ⟨d, a, b, m, true, fun _ _ x y => x ||| y⟩
  | .vredxor d a b m _ => some ⟨d, a, b, m, true, fun _ _ x y => x ^^^ y⟩
  | _ => none

/-- A form that moves elements: destination, data source, mask, index register if any, and for the state, the active
elements and VL, the pairs of a written element and the source element it takes, none standing for zero
(R294, R295). -/
structure MoveForm where
  d   : Nat
  src : Nat
  m   : Nat
  idx : Option Nat
  scalar : Option Nat
  from0 : Bool
  map : State → List Nat → Nat → List (Nat × Option Nat)

/-- Element 0 of a register as an unsigned number. -/
def elem0 (s : State) (b : Nat) : Nat := elemOf s b 0 % 2 ^ cw (vregOf s.g b).tag

def moveForms : Instr → Option MoveForm
  | .vmv d b m _ k => if k then none else some ⟨d, b, m, none, none, false, fun _ es _ => es.map (fun e => (e, some e))⟩
  | .vslup d a b m _ k => some ⟨d, a, m, if k then none else some b, if k then some b else none, true, fun s es _ =>
      let n := if k then (getX s b).toNat else elem0 s b
      (es.filter (fun e => decide (n ≤ e))).map (fun e => (e, some (e - n)))⟩
  | .vsldn d a b m _ k => some ⟨d, a, m, if k then none else some b, if k then some b else none, true, fun s es vl =>
      let n := if k then (getX s b).toNat else elem0 s b
      es.map (fun e => (e, if e + n < vl then some (e + n) else none))⟩
  | .vgath d a b m _ => some ⟨d, a, m, some b, none, true, fun s es vl =>
      es.map (fun e => (e, if 0 ≤ elemInt s b e ∧ elemInt s b e < vl then some (elemInt s b e).toNat else none))⟩
  | .vcompr d b m _ => some ⟨d, b, m, none, none, true, fun _ es _ => (List.range es.length).map (fun i => (i, some (es.getD i 0)))⟩
  | .vexpd d b m _ => some ⟨d, b, m, none, none, true, fun _ es _ => (List.range es.length).map (fun i => (es.getD i 0, some i))⟩
  | .vrev d b m _ => some ⟨d, b, m, none, none, true, fun _ es vl => es.map (fun e => (e, some (vl - 1 - e)))⟩
  | _ => none

/-- A special function: registers, mask, the function and whether it rounds to nearest even (R289, R290). -/
def sfuForms : Instr → Option (Nat × Nat × Nat × SfuOp × Bool)
  | .vrcp d b m _ => some (d, b, m, .rcp, false)
  | .vrsqrt d b m _ => some (d, b, m, .rsqrt, true)
  | .vsqrt d b m _ => some (d, b, m, .sqrt, false)
  | .vexp2 d b m _ => some (d, b, m, .exp2, true)
  | .vlog2 d b m _ => some (d, b, m, .log2, true)
  | .vsin d b m _ => some (d, b, m, .sin, true)
  | .vcos d b m _ => some (d, b, m, .cos, true)
  | .vtanh d b m _ => some (d, b, m, .tanh, true)
  | _ => none

/-- The results of R290 for special operands, and their flags. -/
def sfuSpecial : SfuOp → Ex → Option (Ex × Nat)
  | _, .nan sig => some (.nan false, if sig then fNV else 0)
  | .rcp, .inf neg => some (.num neg 0 1 0, 0)
  | .rcp, .num neg 0 _ _ => some (.inf neg, fDZ)
  | .rsqrt, .inf false => some (.num false 0 1 0, 0)
  | .rsqrt, .num neg 0 _ _ => some (.inf neg, fDZ)
  | .sqrt, .num neg 0 _ _ => some (.num neg 0 1 0, 0)
  | .sqrt, .inf false | .log2, .inf false | .exp2, .inf false => some (.inf false, 0)
  | .exp2, .inf true => some (.num false 0 1 0, 0)
  | .exp2, .num _ 0 _ _ | .cos, .num _ 0 _ _ => some (.num false 1 1 0, 0)
  | .log2, .num _ 0 _ _ => some (.inf true, fDZ)
  | .sin, .num neg 0 _ _ | .tanh, .num neg 0 _ _ => some (.num neg 0 1 0, 0)
  | .tanh, .inf neg => some (.num neg 1 1 0, 0)
  | .sin, .inf _ | .cos, .inf _ => some (.nan false, fNV)
  | .rsqrt, .inf true | .sqrt, .inf true | .log2, .inf true => some (.nan false, fNV)
  | .rsqrt, .num true _ _ _ | .sqrt, .num true _ _ _ | .log2, .num true _ _ _ => some (.nan false, fNV)
  | _, _ => none

/-- The rational number that a finite value is. -/
def rat : Ex → ℚ
  | .num neg n d e => (if neg then -1 else 1) * (n / d) * (2 : ℚ) ^ e
  | _ => 0

/-- What R289 and R290 say of the value `y` that a special function has at a number `x` that is no special operand: the
reciprocal is exact; a root is exact where it is rational, and its square lies within 2^-250 of the radicand, relatively;
2^k and the logarithm of 2^k are exact. -/
def sfuExact : SfuOp → (x y : ℚ) → Prop
  | .rcp, x, y => x * y = 1
  | .sqrt, x, y => (∀ q : ℚ, 0 ≤ q → q ^ 2 = x → y = q) ∧ 0 ≤ y ∧ |y ^ 2 - x| ≤ x / 2 ^ 250
  | .rsqrt, x, y => (∀ q : ℚ, 0 ≤ q → q ^ 2 * x = 1 → y = q) ∧ 0 ≤ y ∧ |y ^ 2 * x - 1| ≤ 1 / 2 ^ 250
  | .exp2, x, y => ∀ k : ℤ, |k| ≤ 65536 → x = k → y = (2 : ℚ) ^ k
  | .log2, x, y => ∀ k : ℤ, x = (2 : ℚ) ^ k → y = k
  | _, _, _ => True

/-- An element-wise mask form: destination, sources, mask, and the bit (R296). -/
def maskForms : Instr → Option (Nat × Nat × Nat × Nat × (Bool → Bool → Bool))
  | .mand d a b m _ => some (d, a, b, m, fun x y => x && y)
  | .mor d a b m _ => some (d, a, b, m, fun x y => x || y)
  | .mxor d a b m _ => some (d, a, b, m, fun x y => x ^^ y)
  | .mandn d a b m _ => some (d, a, b, m, fun x y => x && !y)
  | .mnot d b m _ => some (d, 0, b, m, fun _ y => !y)
  | .mset d m _ => some (d, 0, 0, m, fun _ _ => true)
  | .mclr d m _ => some (d, 0, 0, m, fun _ _ => false)
  | _ => none

/-- A vector word has retired, having written bits of mask register `d` at `es` and no vector register; m0 stays, and a
register that an unfinished copy is to write is undefined (R106, R115). -/
structure WroteM (s t : State) (d : Nat) (es : List Nat) (f : Nat → Bool) : Prop where
  rest   : VectorRest s t
  regs   : t.g.v = s.g.v
  bits   : d ≠ 0 → d ∉ s.g.mPend → ∀ e ∈ es, maskBit t.g d e = f e
  kept   : d ∉ s.g.mPend → ∀ e, e ∉ es → maskBit t.g d e = maskBit s.g d e
  others : ∀ r, r ≠ d → mregOf t.g r = mregOf s.g r
  sticky : s.g.vc.fflags ||| t.g.vc.fflags = t.g.vc.fflags
  done   : Retired s t

/-- `n` bytes at an address translate, aligned, for an access of a kind that `w` makes, to `pa` in main memory, with no
addition of a Mill on its way to their line (R31, R50, R83). -/
structure MemAt (s : State) (w : Who) (kind : Nat) (va : Word) (n pa : Nat) (s1 : State) : Prop where
  form   : Memory.wf s.pm = true
  found  : checkLoc s w kind (.va va.toNat) n n = (.ok (.pa pa), s1)
  memory : paKind s pa = .hbm ∨ paKind s pa = .host
  place  : pa % n = 0
  still  : Undisturbed s pa n

/-- Doubleword `i` of a block of memory. -/
def dword (s : State) (pa i : Nat) : Nat := s.pm.word (pa + 8 * i) 8

/-- The rows per lane that a configuration word asks of a register (R130). -/
def rowsAsked (s : State) (d w : Nat) : Nat :=
  rowsNeed (w % 32) (w / 256 % 4) (w.testBit 10) (sideLanes s s.g (vSide d)) s.g.vc.vl

/-- The bindings of every register but `d` stay. -/
def OthersBound (s t : State) (d : Nat) : Prop := ∀ r, r ≠ d → boundTo t.g r = boundTo s.g r

/-- A word of the vector queue that binds has retired: the x registers, memory and every other binding stay. -/
structure BoundStep (s t : State) (d : Nat) : Prop where
  others : OthersBound s t d
  flag   : d ∉ t.g.streamEnd
  x      : t.g.x = s.g.x
  mem    : MemoryKept s t
  vstart : t.g.vc.vstart = 0
  done   : Retired s t

/-! ### Vector accesses -/

/-- What an access changes besides the bytes it stores and the registers it writes: what `Looked` names, ration state and
its events, and poison and stamps of scratchpads. -/
def Accessed (s s' : State) : Prop :=
  ∃ pm sp xl ra ch fc ck xi bd sn se, s' = { s with
    pm := pm, sp := sp, xl := xl, ra := ra, chains := ch, freeCtr := fc, clock := ck
    io := { s.io with xinv := xi }, barred := bd, snoops := sn, sent := se }

/-- A vector memory form: data register, mask, address space, base register, distance of an element from the base
(R251), index register, and the x registers it reads. -/
structure VMemForm where
  d    : Nat
  m    : Nat
  sp   : Bool
  a    : Nat
  idx  : Option Nat
  xs   : List Nat
  unit : Bool
  dist : State → Nat → Int

/-- The address of an element: modulo 2^64, or within OFF of a scratchpad address (R251). -/
def VMemForm.loc (f : VMemForm) (s : State) (e : Nat) : Loc :=
  if f.sp then locAt true (getX s f.a) (f.dist s e)
  else .va (getX s f.a + BitVec.ofInt 64 (f.dist s e)).toNat

/-- Bytes of an element in memory: a packed element lies in one byte (R249). -/
def memBytes (tag : Nat) : Nat := max 1 (cw tag / 8)

def VMemForm.ofUnit (d a : Fin 32) (m : Fin 8) (p : Bool) : VMemForm :=
  ⟨d, m, p, a, none, [a], true, fun s e => (e * cw (vregOf s.g d).tag / 8 : Nat)⟩

def VMemForm.ofStride (d a st : Fin 32) (m : Fin 8) (p : Bool) : VMemForm :=
  ⟨d, m, p, a, none, [a, st], false, fun s e => (e : Int) * (getX s st).toInt⟩

def VMemForm.ofIndex (d a i : Fin 32) (m : Fin 8) (p : Bool) (sc : Fin 8) : VMemForm :=
  ⟨d, m, p, a, some i, [a], false, fun s e => elemInt s i e * (2 ^ sc.val : Nat)⟩

/-- The vector loads that read elements one by one: the form, and whether it consumes rations (R255 to R257). -/
def vloadForm : Instr → Option (VMemForm × Bool)
  | .vld d a m _ p => some (.ofUnit d a m p, false)
  | .vldS d a st m _ p => some (.ofStride d a st m p, false)
  | .vldX d a i m _ p e => some (.ofIndex d a i m p e, false)
  | .vldFf d a m _ => some (.ofUnit d a m false, false)
  | .vldC d a m _ p => some (.ofUnit d a m p, true)
  | .vldCs d a st m _ p => some (.ofStride d a st m p, true)
  | .vldCx d a i m _ p e => some (.ofIndex d a i m p e, true)
  | _ => none

/-- The vector stores: the form, and whether its elements are unordered (R259). -/
def vstoreForm : Instr → Option (VMemForm × Bool)
  | .vst d a m _ p => some (.ofUnit d a m p, false)
  | .vstS d a st m _ p => some (.ofStride d a st m p, false)
  | .vstX d a i m _ p e => some (.ofIndex d a i m p e, false)
  | .vstU d a m _ p => some (.ofUnit d a m p, true)
  | .vstSu d a st m _ p => some (.ofStride d a st m p, true)
  | .vstXu d a i m _ p e => some (.ofIndex d a i m p e, true)
  | _ => none

/-- The registers of the form carry tags that it takes, and VL lies within their capacity (R127, R250). -/
structure VMemFits (s : State) (f : VMemForm) : Prop where
  ready : VectorReady s
  mem   : Memory.wf s.pm = true
  tag   : (vregOf s.g f.d).tag ≠ 0 ∧ isMx (vregOf s.g f.d).tag = false
  wide  : f.unit = true ∨ 8 ≤ cw (vregOf s.g f.d).tag
  data  : SourceFits s f.d
  index : ∀ i, f.idx = some i → isInt (vregOf s.g i).tag = true ∧ 32 ≤ cw (vregOf s.g i).tag ∧ SourceFits s i
  clean : poisonedX s f.xs = none
  small : f.d < 32

/-- Every active element of the form is found, at the places listed, for an access of the kind (R81, R82). -/
def Found (s : State) (f : VMemForm) (kind : Nat) (ls : List (Nat × PLoc)) (s1 : State) : Prop :=
  probe s (fun e => whoE s (ctxG s) f.d e f.idx.isSome) kind (memBytes (vregOf s.g f.d).tag)
    (memBytes (vregOf s.g f.d).tag) f.idx.isSome ((acting s f.m).map (fun e => ⟨e, f.loc s e, none⟩)) = (ls, none, s1)

/-- A place of `n` bytes in main memory with no addition on its way to it, or in a scratchpad. -/
def PlaceOk (s : State) (n : Nat) : PLoc → Prop
  | .pa a => (paKind s a = .hbm ∨ paKind s a = .host) ∧ a % n = 0 ∧ Undisturbed s a n
  | .sp _ off => off % n = 0 ∧ off + n ≤ 2 ^ 21

/-- A place without poison. -/
def PlaceClean (s : State) : PLoc → Prop
  | .pa a => s.pm.linePoison (lineOf a) = false
  | .sp core off => s.sp.poison.contains (spWordKey core off) = false

/-- No write that the vector stream may not see touches a place of `n` bytes (R178). -/
def PlaceSeen (s : State) (n : Nat) : PLoc → Prop
  | .pa a => Seen s (whoV s) a n
  | .sp _ _ => True

/-- `n` bytes at a place. -/
def contents (s : State) (l : PLoc) (n : Nat) : Nat :=
  match l with
  | .pa a => s.pm.word a n
  | .sp core off => s.sp.word core off n

/-- An element's bits within the bytes at its place: all of them, or a packed element's (R249). -/
def elementAt (s : State) (tag e : Nat) (l : PLoc) : Nat :=
  contents s l (memBytes tag) / 2 ^ (e * cw tag % 8) % 2 ^ cw tag

/-- Bytes `x` and the scratchpad bytes `x` that lie in one of the places. -/
def Within (ls : List (Nat × PLoc)) (n : Nat) (l : PLoc) : Prop :=
  match l with
  | .pa a => ∃ q ∈ ls, ∃ b, q.2 = .pa b ∧ b ≤ a ∧ a < b + n
  | .sp core off => ∃ q ∈ ls, ∃ o, q.2 = .sp core o ∧ o ≤ off ∧ off < o + n

/-- Every byte of memory and of the scratchpads outside the places reads as before, but for those that a
waiting addition of a Mill is to change. -/
def BytesKeptBut (s t : State) (ls : List (Nat × PLoc)) (n : Nat) : Prop :=
  (∀ a, Unawaited s a → ¬ Within ls n (.pa a) → t.pm.byte a = s.pm.byte a) ∧
    (∀ core off, off < 2 ^ 21 → ¬ Within ls n (.sp core off) → t.sp.byte core off = s.sp.byte core off)

/-- The units that carry rations of the places read. -/
def rationed (s : State) (ls : List (Nat × PLoc)) (u : RUnit) : Prop := ∃ q ∈ ls, unitOf s q.2 = some u

/-- A value by one count: a line or block with one read left becomes Spent, any other keeps one count fewer (R44). -/
def countTaken (r r' : RationRec) : Prop :=
  if r.count = 1 then r'.st = .spent ∧ r'.count = 0
  else r' = { r with count := r.count - 1 }

/-- The pattern of a slot: the elements that are active, then the block's scale (R258). -/
def slotPattern (s : State) (d m e : Nat) : Nat :=
  let r := vregOf s.g d
  (List.range 32).foldl (fun x i =>
    if (acting s m).contains (e + i) then x + r.elem (e + i) % 2 ^ cw r.tag * 2 ^ (i * cw r.tag) else x)
    (r.scale (e / 32) % 256 * 2 ^ (32 * cw r.tag))

/-- A form of a vector atomic: data register, address register, mask, and the value left from the old value and the
operand (R260). -/
def vamoForms : Instr → Option (Nat × Nat × Nat × ((signed : Bool) → (w : Nat) → BitVec w → BitVec w → BitVec w))
  | .vamoSwap v _ _ a m _ => some (v, a, m, fun _ _ _ b => b)
  | .vamoAdd v _ _ a m _ => some (v, a, m, fun _ _ x b => x + b)
  | .vamoAnd v _ _ a m _ => some (v, a, m, fun _ _ x b => x &&& b)
  | .vamoOr v _ _ a m _ => some (v, a, m, fun _ _ x b => x ||| b)
  | .vamoXor v _ _ a m _ => some (v, a, m, fun _ _ x b => x ^^^ b)
  | .vamoMin v _ _ a m _ => some (v, a, m, fun g _ x b => if below g b x then b else x)
  | .vamoMax v _ _ a m _ => some (v, a, m, fun g _ x b => if below g x b then b else x)
  | _ => none

/-- The order of a vector atomic, and its scope (R182). -/
def vamoOrder : Instr → Nat × Nat
  | .vamoSwap _ c o _ _ _ | .vamoAdd _ c o _ _ _ | .vamoAnd _ c o _ _ _ | .vamoOr _ c o _ _ _ | .vamoXor _ c o _ _ _
  | .vamoMin _ c o _ _ _ | .vamoMax _ c o _ _ _ => (o, c)
  | _ => (0, 0)

/-- The requests of a form that takes addresses from a register (R260, R261, R271, R272). -/
def addressed (s : State) (a m : Nat) : List EReq :=
  (acting s m).map (fun e => ⟨e, .va (elemOf s a e % 2 ^ 64), none⟩)

/-- Who accesses the elements of a form with data register `v`. -/
def byLane (s : State) (v : Nat) (e : Nat) : Who := whoE s (ctxG s) v e true

/-- A register of addresses. -/
def holdsAddresses (s : State) (a : Nat) : Prop :=
  isInt (vregOf s.g a).tag = true ∧ cw (vregOf s.g a).tag = 64 ∧ SourceFits s a

/-- The place is that of no other element. -/
def Alone (ls : List (Nat × PLoc)) (q : Nat × PLoc) : Prop := ∀ x ∈ ls, x.2 = q.2 → x = q

/-! ### Matrix and sparse forms -/

/-- A handle's fields: claimed, rows, columns and tag (R315). -/
structure Claimed (s : State) (z m n t : Nat) : Prop where
  set  : (handleOf s z).testBit 0 = true
  rows : m = handleOf s z / 2 ^ 30 % 1024 + 1
  cols : n = handleOf s z / 2 ^ 20 % 1024 + 1
  tag  : t = handleOf s z / 2 ^ 15 % 32

/-- The tiles of the operands that lie in scratchpads, each with its runs of bytes. -/
def matTiles (s : State) (ops : List (OpName × Nat)) (k : Nat) : List (Nat × SpTile × List (List (Nat × Nat))) :=
  ops.filterMap (fun o => (opTiles s o.1 o.2 k).map (fun t => (o.1.where_, t)))

/-- A matrix form that passes every check at its issue (R193, R314, R317 to R322, R325, R328): its handle is claimed with a
tile that holds the result, its descriptors are legal, its tags go together, and its operands fit. -/
structure MatFits (s : State) (kind : Nat) (a b : OpName) (z : Nat) (f : Bool) : Prop where
  idle    : queueHeld s = false
  loose   : s.g.binds = []
  whole   : isSplit s s.g = false
  legal   : descBad s kind true a = none ∧ descBad s kind false b = none
  shape   : 0 < s.g.vc.tilem ∧ 0 < s.g.vc.tilen ∧ 0 < s.g.vc.tilek
  handle  : ∃ m n t, Claimed s z m n t ∧ accTag (a.tag s) (b.tag s) = some t ∧ s.g.vc.tilem ≤ m ∧ s.g.vc.tilen ≤ n
  blocks  : isMx (a.tag s) = true → s.g.vc.tilek % 32 = 0
  inRegs  : ∀ o n, (o, n) ∈ [(a, s.g.vc.tilem), (b, s.g.vc.tilen)] → o.sp = false →
              n * s.g.vc.tilek ≤ capacity s o.reg (o.tag s) (vregOf s.g o.reg).gf
  aligned : ∀ o ∈ [a, b], o.sp = true → o.w0 % 64 = 0 ∧ o.w0 / 2 ^ 32 % 2 ^ 20 % 64 = 0
  inside  : ∀ t ∈ matTiles s [(a, s.g.vc.tilem), (b, s.g.vc.tilen)] s.g.vc.tilek,
              beyond (((partitionOf s s.g t.1).map (fun p => p.2.2 * 4096)).getD 0) t.2.2 = none
  stamped : ∀ t ∈ matTiles s [(a, s.g.vc.tilem), (b, s.g.vc.tilen)] s.g.vc.tilek, ∀ bl ∈ tileBlocks t.2.2,
              t.2.1.rot ≠ 7 ∧ tabGet s.sp.stamps (blockKey t.2.1.core ((t.2.1.part + bl) * 4096)) 0 = t.2.1.rot
  counted : f = true → (reserveAll s (tileUnits
              (matTiles s [(a, s.g.vc.tilem), (b, s.g.vc.tilen)] s.g.vc.tilek))).2.1 = none

/-- An operation of the group has been issued: it is listed with its token's open batch and its shape, and nothing of the
group's registers, of memory or of the scratchpads has changed. -/
structure MatIssued (s t : State) (z tok : Nat) (phase : MatPhase) : Prop where
  op   : ∃ o ∈ t.eng.mats, o.id = s.eng.nextId ∧ o.gid = s.g.gid ∧ o.z = z ∧ o.tok = tok ∧ o.batch = (tokOf s tok).opn ∧
           o.m = s.g.vc.tilem ∧ o.n = s.g.vc.tilen ∧ o.k = s.g.vc.tilek ∧ o.phase = phase
  regs : t.g.v = s.g.v ∧ t.g.x = s.g.x ∧ t.g.m = s.g.m ∧ t.g.z = s.g.z
  vc   : t.g.vc.vl = s.g.vc.vl
  mem  : t.pm = s.pm ∧ t.sp.cells = s.sp.cells

/-- Element (i, j) of the tile of a handle of the current group. -/
def tileElem (s : State) (z i j : Nat) : Option Nat := (regionOf s s.g.gid z).map (fun r => r.elem i j)

/-- A place word that suits a tile of m rows and n columns and VL elements (R334): row, column and width. -/
structure PlaceWord (p vl m n row col width : Nat) : Prop where
  fields : p / 2 ^ 41 = 0 ∧ p / 2 ^ 26 % 64 = 0 ∧ p / 2 ^ 10 % 64 = 0
  atRow  : row = p % 1024
  atCol  : col = p / 2 ^ 16 % 1024
  across : width = p / 2 ^ 32 % 512
  wide   : 0 < width ∧ width ≤ 256
  inside : col + width ≤ n ∧ (vl ≠ 0 → row + (vl - 1) / width < m)

/-- No operand window is open on the tile, and none has been written into unseen (R193). -/
def TileQuiet (s : State) (z : Nat) : Prop := refreshWindows s = s ∧ inWindow s z = false

/-- The value of the first pair of a sparse register at a coordinate. -/
def pairAt (r : QReg) (c : Nat) : Option Nat := (r.pairs.find? (fun p => p.1 == c)).map (·.2)

/-- The value of the first pair at a coordinate as an integer, 0 where there is none. -/
def pairInt (r : QReg) (c : Nat) : Int := ((pairAt r c).map (intVal r.tag)).getD 0

/-- Room for `n` pairs of a tag in a sparse register (R130, R131, R336). -/
def PairsFit (s : State) (d tag n : Nat) : Prop :=
  n ≤ 4096 ∧ rowsWith s.g.rowMap (32 + d) (pairRows (sideLanes s s.g false) tag n) ≤ 1024

/-- A sparse instruction has retired, having written sparse register `d` and nothing else but what a vector word changes. -/
structure WroteQ (s t : State) (d : Nat) : Prop where
  rest   : VectorRest { s with g := { s.g with q := t.g.q } } t
  others : ∀ r, r ≠ d → qregOf t r = qregOf s r
  regs   : t.g.v = s.g.v ∧ t.g.m = s.g.m
  done   : Retired s t

/-! ### Steps of units -/

/-- A request for `n` bytes at `pa`, whole within one line of this device's memory, for which no addition of a Mill
waits (R37, R50). -/
structure AtHome (s : State) (pa n : Nat) : Prop where
  form   : Memory.wf s.pm = true
  memory : paKind s pa = .hbm ∨ paKind s pa = .host
  inPa   : pa < 2 ^ 52
  line   : pa % 128 + n ≤ 128
  some_  : 0 < n
  still  : Undisturbed s pa n

/-- Nothing differs but memory, its slices and the answer to a requester, and whether the step waits for a line that it
met, with the snoops for that (R37, R45, R485). -/
def OnlyMemory (s t : State) : Prop :=
  t = { s with
    pm := t.pm, chains := t.chains, freeCtr := t.freeCtr, answer := t.answer, barred := t.barred, snoops := t.snoops }

/-- Every byte reads as before. -/
def BytesKept (s t : State) : Prop := ∀ a, t.pm.byte a = s.pm.byte a

/-- Nothing differs but the registers of the I/O die. -/
def OnlyIo (s t : State) : Prop := t = { s with io := t.io }

/-- A firmware image has been checked (R491 to R493): one that verifies runs from stage 3, where every die is tested; of
another the first check that it fails is shown, and the device waits for recovery. -/
def Checked (s t : State) (image : List Nat) : Prop :=
  if imageCheck image = 0 then
    t.io.bootStage = 3 ∧ t.io.testing = [0, 1, 2, 3, 4, 5, 6, 7] ∧ t.io.firmware = image
  else OnlyIo s t ∧ t.io.bootStage = 0xE ∧ t.io.bootCode = imageCheck image

/-- A record of the device itself has no queue to go to (R437, R441). -/
def NoDeviceQueue (s : State) : Prop := queueOf s.io.deverrq = none

/-- The message of a unit's step names the current group. -/
def Mine (s : State) : Prop := s.g.live = true ∧ s.msg.gid = s.g.gid

/-! ### Translation -/

/-- What tells a walk from the others: its die, its address space and its page (R77). -/
def walkName (w : Walk) : Nat × Nat × Nat := (w.core / 32, w.asid, bits w.va 56 12)

/-- An invalidation command accepted: counted, and behind those before it, with the walks that it must outlast (R79). -/
def XinvTaken (s : State) (op asid vpn : Nat) : State :=
  { s with io := { s.io with
    xinvacc := (s.io.xinvacc + 1) % 2 ^ 32, xinv := s.io.xinv ++ [⟨op, asid, vpn, s.xl.walks.map walkName⟩] } }

/-- A command concerns an address space. -/
def Concerns (c : InvCmd) (asid : Nat) : Prop := c.op = 2 ∨ asid = c.asid

/-- A walk that was in progress at the acceptance, or one for a page that the command covers, has not ended; or an access
of the address space that has used a translation has not been performed: a future load of a resident group on its way or
refused, a declaration held at its slice, a Mill addition, an addend of a fold (R79). -/
def Outstanding (s : State) (c : InvCmd) : Prop :=
  (∃ w ∈ s.xl.walks, coversWalk c w = true ∨ walkName w ∈ c.before) ∨
  (∃ f ∈ s.futs, Concerns c f.asid ∧ resident s f.who = true ∧ (f.st = .nacked ∨ f.st = .backoff)) ∨
  (∃ h ∈ s.ra.held, ∃ e, entryOf s h.core h.decl = some e ∧ Concerns c e.asid) ∨
  (∃ a ∈ s.chains, Concerns c a.asid) ∨
  (∃ x ∈ s.eng.xfers, Concerns c x.asid ∧ x.adds ≠ [])

/-- A command covers a buffered translation (R79). -/
def CoversTlb (c : InvCmd) (t : Tlb) : Prop :=
  match c.op with
  | 0 => t.asid = c.asid ∧ t.tag = bits (c.vpn * 4096) 56 t.c
  | 1 => t.asid = c.asid
  | _ => True

/-- A command covers an entry of a walk cache of a level (R79). -/
def CoversWc (c : InvCmd) (lvl : Nat) (e : Wc) : Prop :=
  match c.op with
  | 0 => e.asid = c.asid ∧ e.key = bits (c.vpn * 4096) 56 (9 * lvl + 12)
  | 1 => e.asid = c.asid
  | _ => True

/-- The buffers hold what they held, less what the command covers. -/
def Invalidated (c : InvCmd) (x y : Xlate) : Prop :=
  (∀ k e, e ∈ tabGet y.banks k [] ↔ e ∈ tabGet x.banks k [] ∧ ¬ CoversTlb c e) ∧
  (∀ k e, e ∈ tabGet y.ctlb k [] ↔ e ∈ tabGet x.ctlb k [] ∧ ¬ CoversTlb c e) ∧
  (∀ k e, e ∈ tabGet y.dtlb k [] ↔ e ∈ tabGet x.dtlb k [] ∧ ¬ CoversTlb c e) ∧
  (∀ k e, e ∈ tabGet y.wc k [] ↔ e ∈ tabGet x.wc k [] ∧ ¬ CoversWc c (k % 8) e)

/-- The walk of the message, at level 0 to 4, reads the entry `ent` from memory, unpoisoned, and every write of the entry
is visible at dev scope (R71, R72, R77). -/
structure WalkReads (s : State) (w : Walk) (ent : Nat) (s1 : State) : Prop where
  mine   : s.xl.walks.find? (fun w => isWalk w (dieOf s.msg.core) s.msg.asid s.msg.va) = some w
  legal  : s.msg.core < 256 ∧ s.msg.asid < 65536 ∧ s.msg.va < 2 ^ 64 ∧ canonical s.msg.va = true
  level  : w.lvl ≤ 4
  memory : paKind s (w.tab + bits w.va (9 * w.lvl + 20) (if 1 ≤ w.lvl then 9 * w.lvl + 12 else w.gran) * 8) = .hbm
  read   : sliceRead s (w.tab + bits w.va (9 * w.lvl + 20) (if 1 ≤ w.lvl then 9 * w.lvl + 12 else w.gran) * 8) 8
             = (ent, false, s1)
  good   : bit ent 0 = true ∧ entryBad ent w.lvl w.gran = false
  shown  : ∀ r ∈ s1.pm.stale, r.shown = false →
             r.meets (w.tab + bits w.va (9 * w.lvl + 20) (if 1 ≤ w.lvl then 9 * w.lvl + 12 else w.gran) * 8) 8 = false

/-- Walks of other dies, address spaces or pages than the message's. -/
def OtherWalks (s : State) : List Walk :=
  s.xl.walks.filter (fun w => !isWalk w (dieOf s.msg.core) s.msg.asid s.msg.va)

/-- Nothing differs but memory and what the front ends hold: those whose tail word lies in line `l` are to read it again
(R36, R396). -/
def LineGiven (s t : State) (l : Nat) : Prop :=
  t = { s with pm := t.pm, io := { s.io with hq := t.io.hq } } ∧
    t.io.hq = s.io.hq.map (fun p => (p.1,
      if p.2.en = true ∧ p.2.stopped = false ∧ lineOf (hostPa s (p.2.tail * 8)) = l then { p.2 with reread := true } else p.2))

/-- No uncorrectable error of the message's way of line `l`'s set has been counted yet (R443). -/
def FirstError (s : State) (l : Nat) : Prop :=
  ∀ e ∈ s.io.errors, e.unit = .l2way (sliceOf (l * 128)) (setOf (l * 128)) → e.way = s.msg.num → e.bad = false

/-! ### Rations, futures and engines as units step -/

/-- Nothing differs but ration state and its events, what slices keep of their lines, the answer to a requester, and
whether the step waits for host copies of a line, with the snoops for that (R485). -/
def OnlyRations (s t : State) : Prop :=
  t = { s with pm := t.pm, ra := t.ra, answer := t.answer, sent := t.sent, barred := t.barred, snoops := t.snoops }

/-- No declaration of the line waits for room. -/
def NoneHeld (s : State) (l : Nat) : Prop := ∀ h ∈ s.ra.held, h.line ≠ l

/-- The line exists at its slice where a line carries the ration state; the blocks' table is in form. -/
def RationForm (s : State) : Prop := Memory.wf s.pm = true ∧ tabWf s.ra.blocks = true ∧ s.ra.held = []

/-- No record of a launch, or of the device, has a queue to go to. -/
def NoQueueFor (s : State) (launch : Option Nat) : Prop := recordQueue s launch = none

/-- A future word at its home: aligned, in HBM4, with no addition on its way. -/
def FutureHome (s : State) (pa : Nat) : Prop :=
  Memory.wf s.pm = true ∧ paKind s pa = .hbm ∧ pa % 8 = 0 ∧ pa < 2 ^ 52 ∧ Undisturbed s pa 8

/-- Where a future load stands once it has reached its home slice: answered from a full word, which an emptying load then
empties; else waiting or refused (R54 to R57). -/
def Arrived (s t : State) (w : Waiter) (pa : Nat) (e : Bool) : Prop :=
  ∃ f, futOf t w = some f ∧ f.pa = pa ∧ f.emptying = e ∧
    (s.pm.isFull (pa / 8) = true → f.st = .answered (BitVec.ofNat 64 (s.pm.word pa 8)) false ∧
      t.pm.isFull (pa / 8) = !e) ∧
    (s.pm.isFull (pa / 8) = false → Unanswered f ∧ t.pm.isFull (pa / 8) = false)

/-- A waiter whose answer nothing but the waiter itself looks at. -/
def PlainWaiter (w : Waiter) : Prop := (∃ g, w = .group g) ∨ (∃ g v, w = .vp g v) ∨ ∃ q, w = .queue q

/-- The operation of an id is the only one of the list. -/
def OnlyId {α : Type} (l : List α) (id : α → Nat) (x : α) : Prop := x ∈ l ∧ ∀ y ∈ l, id y = id x → y = x

/-- The group's own matrix operation `o`, accepted, whose operands no one has written since its issue, runs on a tile
that holds its region (R192, R193, R323). -/
structure MatRuns (s : State) (o : MatOp) (r : Region) : Prop where
  op     : s.eng.mats.find? (fun o => o.id == s.msg.id && o.phase == .running) = some o
  unique : OnlyId s.eng.mats MatOp.id o
  mine   : s.g.live = true ∧ o.gid = s.g.gid
  plain  : o.jointId = none ∧ o.consume = false ∧ o.undef = false
  fresh  : refreshWindows s = s
  window : ∀ w ∈ s.g.windows, w.id = o.id → w.written = false ∧ w.spoiled = false
  region : regionOf s o.gid o.z = some r
  small  : o.m ≤ 512 ∧ o.n ≤ 256

/-- No register that a copy reads as it moves has been written since it was issued (R106). -/
def SourcesKept (s : State) (x : Xfer) : Prop :=
  (dSrcK x.desc = 2 → tabGet s.g.vSeq (dWord x.desc 0) 0 ≤ x.issued) ∧
    ∀ r es, x.rows = some (r, es) → tabGet s.g.vSeq r 0 ≤ x.issued

/-! ### Steps of a group's own units -/

/-- The steps that act on the group that their message names. -/
def groupUnitSteps : List Instr :=
  [.accRegionClaim, .groupStart, .saveFrameWrite, .safePointSave, .fullSaveDeadline, .stripQueueAppend, .stripQueueConsume,
   .streamReadAhead, .barrierReturn, .seedWrite, .secroleWrite, .asidWrite, .bseqWrite, .sysregDeferredWrite,
   .aibWordLockstep, .vpIssue, .convoyDispatch]

/-- The state in which the group at place `k` of the others is the current one. -/
def inTurn (s : State) (k : Nat) (g : Group) : State := { s with g := g, others := s.others.set k s.g }

/-- The current group and the one at place `k` change places. -/
def backInTurn (t : State) (k : Nat) : State :=
  match t.others[k]? with
  | some g => { t with g := g, others := t.others.set k t.g }
  | none => t

/-- The group at place `k` of the others is the one that the message names, and no other is. -/
def Elsewhere (s : State) (k : Nat) (g : Group) : Prop :=
  s.others[k]? = some g ∧ g.live = true ∧ g.gid = s.msg.gid ∧ ¬ (s.g.live = true ∧ s.g.gid = s.msg.gid) ∧
    ∀ j h, j < k → s.others[j]? = some h → ¬ (h.live = true ∧ h.gid = s.msg.gid)

/-- A step that performs a system-register write that waited, with the register it writes (R244). -/
def deferredForm (s : State) : Instr → Option Nat
  | .seedWrite => some 0x032
  | .secroleWrite => some 0x012
  | .asidWrite => some 0x070
  | .bseqWrite => some (0x060 + s.msg.tok % 8)
  | .sysregDeferredWrite =>
    if s.msg.num ∈ [0x000, 0x001, 0x002, 0x020, 0x021, 0x022, 0x031] then some s.msg.num else none
  | _ => none

/-- Purse of a slot. -/
def purseOf (s : State) (core slot : Nat) : Int := tabGet (coreOf s core).purses slot 0

/-- The tables of cores and purses are in form. -/
def PursesForm (s : State) : Prop := tabWf s.cores = true ∧ ∀ c, tabWf (coreOf s c).purses = true

/-- VP `v` is the one that its lane serves next: the lowest ready one above the VP last served, else the lowest ready one
(R147). -/
def ServedNext (s : State) (v : Vp) : Prop :=
  v ∈ s.g.vps ∧ vpReady s v = true ∧
    ∀ w ∈ s.g.vps, vpReady s w = true → laneOf s w.idx = laneOf s v.idx →
      match (s.g.vpServed.find? (fun x => x.1 == laneOf s v.idx)).map (·.2) with
      | none => v.idx ≤ w.idx
      | some last => (last < v.idx → last < w.idx → v.idx ≤ w.idx) ∧ (v.idx ≤ last → w.idx ≤ last ∧ v.idx ≤ w.idx)

/-- The VP's lane has served it. -/
def served (s : State) (v : Vp) : State :=
  { s with g := { s.g with vpServed := tabPut s.g.vpServed (laneOf s v.idx) v.idx } }

/-! ### Saving, restoring and context commands -/

/-- Words written at rising addresses from `pa`. -/
def HoldsWords (t : State) (pa : Nat) (ws : List Nat) : Prop :=
  ∀ i, i < ws.length → t.pm.word (pa + 8 * i) 8 = ws.getD i 0 % 2 ^ 64

/-- The group's full save is due: the deadline of its request has passed, and no safe point, no instruction that
declares rations or closes a scope, and none whose future load has returned is in progress (R276, R277, R426, R436). -/
def FullSaveDue (s : State) (r : Request) (d : Nat) : Prop :=
  s.g.request = some r ∧ r.deadline = some d ∧ d ≤ s.cycle.toNat ∧ s.g.saving = none ∧ s.g.halt = none ∧
    s.g.atSpt = none ∧ s.g.waits.rclose = false ∧ s.g.waits.rdecl = none ∧
    ∀ f ∈ s.futs, f.who = .group s.g.gid → ∀ v b, f.st ≠ .answered v b

/-- No future load of the group is on its way, and it holds nothing taken for an instruction that is not complete. -/
def NothingAwaited (s : State) : Prop :=
  (∀ f ∈ s.futs, waiterGid f.who ≠ some s.g.gid) ∧ s.g.fldv = none ∧ s.g.fed = [] ∧ s.g.external = false

/-- The frame of a saved group holds, in memory, what its save wrote, without poison (R429, R498). -/
def FrameIntact (s : State) (v : Saved) : Prop :=
  Memory.wf s.pm = true ∧ s.chains = [] ∧ v.addr % 64 = 0 ∧
    ∀ i, i < 8 * ceilDiv v.frame.length 8 → s.pm.word (v.addr + 8 * i) 8 = v.frame.getD i 0 % 2 ^ 64 ∧
      s.pm.linePoison (lineOf (v.addr + 8 * i)) = false

/-- The group stands at a safe point with nothing of it in progress (R361). -/
def AtSafePoint (s : State) (idx : Nat) (pc : Word) : Prop :=
  s.g.atSpt = some (idx, pc) ∧ (∀ v ∈ s.g.vps, v.st = .lockstep) ∧ saveQuiet s = true ∧ s.g.fldv = none ∧
    s.g.saving = none

/-- A fully saved group that holds no tile and no strip queue, and to which no future load belongs, can be restored to a
core: its frame is as the save wrote it, and sections for as many lanes as it had and a slot are to be had (R432). -/
structure Restorable (s : State) (v : Saved) (secs : List Nat) (slot : Nat) : Prop where
  listed  : s.saved[s.msg.idx]? = some v
  allowed : mayResume s v = true
  core    : s.msg.core < 256 ∧ teamCore s v.group s.msg.core = true ∧ dieOpen s s.msg.core = true
  full    : v.how.full = true ∧ v.how.live = allLive
  bare    : v.regions = [] ∧ v.strips = []
  quiet   : ∀ f ∈ s.futs, waiterGid f.who ≠ some v.group.gid ∧ waiterGid f.who ≠ some (s.msg.core * 16 + slot)
  share   : restoreSections s v s.msg.core s.msg.sections = some secs ∧ 8 * secs.length = v.lanes
  frame   : FrameIntact s v
  slots   : ∃ rest, (freeSlots s s.msg.core).filter (fun j => secs = [] || j != 15) = slot :: rest

/-- The groups of an address space that hold a slot. -/
def residentsOf (s : State) (asid : Nat) : List Nat := ((allGroups s).filter (fun g => g.asid == asid)).map Group.gid

/-! ### Launches -/

/-- A launch's id is its own. -/
def OwnId (s : State) (l : Launch) : Prop := OnlyId s.launches Launch.id l

/-- The launch has a section to check, whose bytes are read, or none of them (R472, R477, R478). -/
def SectionRead (s : State) (l : Launch) (x : Section) (bs : Option (List Nat)) : Prop :=
  findLaunch s s.msg.launch = some l ∧ OwnId s l ∧ (sectionsOfImage l).find? (fun x => x.idx == s.msg.sec) = some x ∧
    sectionDue s l x = true ∧
    (sectionBytes (if x.kind = 0 then watchPages s (whoIo l.id (recAsid l.words) false) l.id (l.codeObj + x.off) x.len else s)
      (whoIo l.id (recAsid l.words) false) (if x.kind = 0 then kFetch else kRead) (l.codeObj + x.off) x.len).1 = bs

/-- What is known of a section of a launch afterwards. -/
def secKnown (t : State) (id idx : Nat) : Option SecState :=
  (findLaunch t id).map (fun l => tabGet l.secs idx .waiting)

/-- The tail word's bytes are behind the slices, or in a line that its slice gives up to a snoop (R36, R396). -/
def TailWritable (s : State) (pa : Nat) : Prop :=
  Memory.wf s.pm = true ∧ ∀ kv ∈ s.pm.dirty, lineOf kv.1 = lineOf pa →
    holdsHost s (lineOf pa) = true ∧ ∃ x, s.pm.line? (lineOf pa) = some x ∧ x.ration.st ≠ .spent

/-- Sections that groups of the launch's priority or more hold in the rectangle at a corner (R402). -/
def dearness (s : State) (l : Launch) (k : Nat) : Nat :=
  ((rectCores k (recCols l.words) (recRows l.words)).map (heldAtLeast s l.prio)).foldl (· + ·) 0

/-- The launch's counter has reached its limit while it counts, its group is the only one of it, and nothing holds the
group's trap back (R412, R413, R421). -/
structure Fires (s : State) (l : Launch) : Prop where
  found  : findLaunch s s.msg.launch = some l
  limit  : l.wdlimit ≠ 0
  due    : l.wdlimit ≤ l.wdcount
  counts : watchmanCounts s l = true
  only   : (allGroups s).filter (fun g => g.launch == l.id) = [s.g]
  live   : s.g.live = true
  handled : deliverable s s.g.pc

/-! ### The Clerk and the release queues -/

/-- The Clerk runs and its command at PC is `op`, with A, B, T and K (R414). -/
def ClerkAt (s : State) (op a b t k : Nat) : Prop :=
  s.io.clerk.run = true ∧ ∃ v, clerkCommand s = some v ∧ v % 2 ^ 48 = 0 ∧ cmdOp v = op ∧ word64 v 1 = a ∧
    word64 v 2 = b ∧ word64 v 3 = t ∧ bits v 55 48 = k

/-- An address in HBM4 or the host window. -/
def InMemory (s : State) (a : Nat) : Prop := paKind s a = .hbm ∨ paKind s a = .host

/-- A 64-bit word that the Clerk can write: in memory, aligned, with no addition on its way. -/
def ClerkPlaceAt (s : State) (a : Nat) : Prop :=
  Memory.wf s.pm = true ∧ InMemory s a ∧ clerkPlace s a 8 = true ∧ Undisturbed s a 8

/-- One that it can read: unpoisoned too. -/
def ClerkWord (s : State) (a : Nat) : Prop := ClerkPlaceAt s a ∧ (sliceRead s a 8).2.1 = false

/-- A 64-bit word of the I/O space: a register of this node (R414). -/
def ClerkRegister (s : State) (a : Nat) : Prop :=
  paKind s a = .io ∧ nodeOf a = s.io.nodeid ∧ a % 8 = 0 ∧ a < 2 ^ 52

/-- The next command, and a command elsewhere. -/
def onward (c : Clerk) : Clerk := { c with pc := (c.pc + 1) % 2 ^ 47, wait := false }

def jumpTo (c : Clerk) (t : Nat) : Clerk := { c with pc := bits t 51 5, wait := false }

/-- Counter k of the Clerk. -/
def counter (c : Clerk) (k : Nat) : Word := c.cnt.toList.getD (k % 8) 0

def withCounter (c : Clerk) (k : Nat) (v : Word) : Clerk := { c with cnt := c.cnt.setIfInBounds (k % 8) v }

/-- What a command leaves but for memory: its registers of the Clerk, and nothing of any group. -/
def ClerkDid (s t : State) (c : Clerk) : Prop :=
  t = { s with
    io := { s.io with clerk := c }, pm := t.pm, chains := t.chains, freeCtr := t.freeCtr
    barred := t.barred, snoops := t.snoops }

/-- A release queue is enabled, and the emptying load that it needs next finds its word full (R417). -/
structure LoadFull (s : State) (r va pa : Nat) (s1 : State) : Prop where
  form  : Memory.wf s1.pm = true
  none  : futOf s (.queue r) = none
  found : ownWalk s (fun s => checkFuture s (whoRq s r) kReadWrite va) = (.ok pa, s1)
  here  : InMemory s1 pa
  full  : s1.pm.isFull (pa / 8) = true
  clean : (sliceRead s1 pa 8).2.1 = false
  still : Undisturbed s1 pa 8

/-! ### Repair -/

/-- The errors of a unit, corrected or not, in the last 2^32 cycles (R443). -/
def errorsOf (s : State) (u : RepairUnit) (way : Nat) (bad : Bool) : Nat :=
  (s.io.errors.filter (fun e =>
    decide ((s.cycle - e.cycle).toNat < 2 ^ 32) && (e.unit == u && e.way == way && e.bad == bad))).length

/-- The message's error is one of the unit, and poisons nothing. -/
def ErrorOf (s : State) (u : RepairUnit) : Prop :=
  s.msg.repair = u ∧ (s.msg.err = .none ∨ s.msg.ok = true ∧ inRegister s.msg.err = false)

/-- With the message's error the unit has had its second uncorrectable one, or its 256th corrected one (R443). -/
def RetireDue (s : State) (u : RepairUnit) : Prop :=
  (s.msg.ok = false → 1 ≤ errorsOf s u s.msg.num true) ∧ (s.msg.ok = true → 255 ≤ errorsOf s u s.msg.num false)

end Sys2Proof.Claims
end

