-- ==== Sys2Proof/Certificates/Slice0/Obligations.lean ====
section
/-!
DEFINITION. The statements for the provers.
-/

open Sys2Proof Sys2Proof.Machine Sys2Proof.Claims

/-- R149, R230, R231: a scalar form with no poisoned source writes its result, a bit count its count, and nothing else; a
word of a bit count with a second source is no instruction (it raises ILLEGAL_INSTR: StepRuns, TrapsAndReturn). -/
def Obligations.ScalarResults : Prop :=
  (∀ (i : Instr) (f : XForm) (s : State), xForm i = some f → poisonedX s f.srcs = none →
     ∃ t, exec i s = .next t ∧ OnlyX s t f.d (f.val s) ∧ Retired s t) ∧
  (∀ (d a : Fin 32) (s : State), poisonedX s [a.val] = none →
     (∃ t v, exec (.clz d a) s = .next t ∧ OnlyX s t d v ∧ Retired s t ∧ v.toNat ≤ 64 ∧
       (v.toNat = 64 ↔ getX s a = 0) ∧ (v.toNat < 64 → (getX s a).getLsbD (63 - v.toNat) = true) ∧
       (∀ j, 64 - v.toNat ≤ j → (getX s a).getLsbD j = false)) ∧
     (∃ t v, exec (.ctz d a) s = .next t ∧ OnlyX s t d v ∧ Retired s t ∧ v.toNat ≤ 64 ∧
       (v.toNat = 64 ↔ getX s a = 0) ∧ (v.toNat < 64 → (getX s a).getLsbD v.toNat = true) ∧
       (∀ j, j < v.toNat → (getX s a).getLsbD j = false)) ∧
     (∃ t v, exec (.popc d a) s = .next t ∧ OnlyX s t d v ∧ Retired s t ∧
       v.toNat = ((List.range 64).filter (fun j => (getX s a).getLsbD j)).length)) ∧
  (∀ d a b fn : Nat, d < 32 → a < 32 → 0 < b → b < 32 → (fn = 0x15 ∨ fn = 0x16 ∨ fn = 0x17) →
     decodeControl (2 ^ 26 + d * 2 ^ 21 + a * 2 ^ 16 + b * 2 ^ 11 + fn) = none)

/-- R232, R233: a branch that is not taken goes on; a taken one and a jump go to their target when it lies in the code
extent, and a jump writes the address of the next word; a jlr to a misaligned address traps. -/
def Obligations.BranchesAndJumps : Prop :=
  (∀ (i : Instr) (f : BranchForm) (s : State), branchForm i = some f → poisonedX s [f.a, f.b] = none →
     (¬ f.taken (getX s f.a) (getX s f.b) → ∃ t, exec i s = .next t ∧ OnlyControl s t ∧ Retired s t) ∧
     (f.taken (getX s f.a) (getX s f.b) → inExtent s.g (f.target s).toNat = true →
       ∃ t, exec i s = .next t ∧ OnlyControl s t ∧ JumpedTo s t (f.target s))) ∧
  ((∀ (o : Fin 67108864) (s : State), inExtent s.g (jlTarget s o).toNat = true →
     ∃ t, exec (.jl o) s = .next t ∧ OnlyX s t 1 (s.g.pc + 4) ∧ JumpedTo s t (jlTarget s o)) ∧
   (∀ (d a : Fin 32) (i : Fin 65536) (s : State), poisonedX s [a.val] = none →
     (getX s a + imm16 i) % 4 = 0 → inExtent s.g (getX s a + imm16 i).toNat = true →
     ∃ t, exec (.jlr d a i) s = .next t ∧ OnlyX s t d (s.g.pc + 4) ∧ JumpedTo s t (getX s a + imm16 i)) ∧
   (∀ (d a : Fin 32) (i : Fin 65536) (s : State), poisonedX s [a.val] = none →
     (getX s a + imm16 i) % 4 ≠ 0 → deliverable s s.g.pc →
     ∃ t, exec (.jlr d a i) s = .next t ∧ TrapEntered s t 0x04 (getX s a + imm16 i) s.g.pc))

/-- R233, R421, R425: a transfer out of the code extent traps at the branch itself with FETCH_BOUNDS and the target; a form that reads a poisoned register traps with POISON_CONSUMED. -/
def Obligations.ScalarTraps : Prop :=
  (∀ (s : State), deliverable s s.g.pc →
     (∀ (i : Instr) (f : BranchForm), branchForm i = some f → poisonedX s [f.a, f.b] = none →
       f.taken (getX s f.a) (getX s f.b) → inExtent s.g (f.target s).toNat = false →
       ∃ t, exec i s = .next t ∧ TrapEntered s t 0x0C (f.target s) s.g.pc) ∧
     (∀ (o : Fin 67108864), inExtent s.g (jlTarget s o).toNat = false →
       ∃ t, exec (.jl o) s = .next t ∧ TrapEntered s t 0x0C (jlTarget s o) s.g.pc) ∧
     (∀ (d a : Fin 32) (i : Fin 65536), poisonedX s [a.val] = none →
       ((getX s a + imm16 i) % 4 = 0 → inExtent s.g (getX s a + imm16 i).toNat = false →
         ∃ t, exec (.jlr d a i) s = .next t ∧ TrapEntered s t 0x0C (getX s a + imm16 i) s.g.pc))) ∧
  (∀ (i : Instr) (f : XForm) (s : State) (r : Nat), xForm i = some f → poisonedX s f.srcs = some r →
     deliverable s s.g.pc →
     ∃ t, exec i s = .next t ∧ TrapEntered s t 0x0A (BitVec.ofNat 64 (0x20 + r)) s.g.pc)

/-- R6, R176, R178, R234 to R236: a scalar load reads its bytes, little-endian, extended as its form says (older ones only
where a write of another stream of its group stands unordered); a scalar store writes the low bytes of its register, once
no release fence holds it; an atomic gives the old value, sign-extended, and leaves the new one, a releasing one once what
it releases is performed, an acquiring one ordering what follows. No other byte changes. -/
def Obligations.ScalarMemory : Prop :=
  (∀ (i : Instr) (f : MemForm) (d : Nat) (ext : Nat → Word) (s s1 : State) (pa : Nat),
     loadForm i = some (f, d, ext) → Reaches s f kRead pa s1 → s1.pm.linePoison (lineOf pa) = false →
     ∃ s' t v, exec i s = .next t ∧ Looked s s' ∧ OnlyX s' t d (ext v) ∧ Retired s t ∧ MemoryKept s t ∧
       (Seen s (whoG s) pa f.n → v = s.pm.word pa f.n)) ∧
  (∀ (i : Instr) (f : MemForm) (r : Nat) (s s1 : State) (pa : Nat),
     storeForm i = some (f, r) → Reaches s f kWrite pa s1 → releaseWaits s false = false →
     ∃ s' t, exec i s = .next t ∧ Looked s s' ∧ OnlyControl s' t ∧ Retired s t ∧
       t.pm.word pa f.n = (getX s r).toNat % 256 ^ f.n ∧ MemoryKeptBut s t pa f.n) ∧
  (∀ (i : Instr) (f : MemForm) (d : Option Nat) (op : ∀ w, BitVec w → BitVec w → BitVec w → BitVec w) (b c : Nat)
     (s s1 : State) (pa : Nat),
     amoForm i = some (f, d, op, b, c) → Reaches s f kReadWrite pa s1 → s1.pm.linePoison (lineOf pa) = false →
     releaseWaits s (amoReleases i) = false →
     let w := 8 * f.n
     let old : BitVec w := BitVec.ofNat w (s.pm.word pa f.n)
     ∃ s' s'' t, exec i s = .next t ∧ Looked s s'' ∧ Reordered s'' s' ∧ Retired s t ∧
       (amoAcquires i = true → Acquired t) ∧ (amoAcquires i = false → t.g.acq = s.g.acq) ∧
       (∀ d', d = some d' → OnlyX s' t d' (old.signExtend 64)) ∧ (d = none → OnlyControl s' t) ∧
       t.pm.word pa f.n = (op w old (BitVec.ofNat w (getX s b).toNat) (BitVec.ofNat w (getX s c).toNat)).toNat ∧
       MemoryKeptBut s t pa f.n)

/-- R83 to R85, R234, R236, R421: a misaligned scalar access traps with MISALIGNED before any access; an aligned one whose
translation fails writes its record and traps with the failure's cause; both with the address. -/
def Obligations.AccessTraps : Prop :=
  (∀ (i : Instr) (f : MemForm) (s : State), memForm i = some f → poisonedX s f.srcs = none → deliverable s s.g.pc →
     (f.ea s).toNat % f.n ≠ 0 → ∃ t, exec i s = .next t ∧ TrapEntered s t 0x04 (f.ea s) s.g.pc) ∧
  (∀ (i : Instr) (f : MemForm) (s s1 : State) (x : XFail) (kind : Nat), memForm i = some f → poisonedX s f.srcs = none →
     kind = (if (loadForm i).isSome then kRead else if (storeForm i).isSome then kWrite else kReadWrite) →
     deliverable s s.g.pc → (f.ea s).toNat % f.n = 0 →
     translate s (whoG s) kind (f.ea s).toNat = (.error x, s1) →
     ∃ t, exec i s = .next t ∧ TrapEntered (xfaultRecord s1 (whoG s) kind (f.ea s).toNat x) t x.cause (f.ea s) s.g.pc)

/-- R241 to R244: gsr copies a system register that may be read at the level; what ssr writes, gsr then finds as the
register's layout keeps it, and the other registers, x and memory stay, unless a BSEQ write lets batches complete; an access
that the table does not grant raises ILLEGAL_INSTR with the word's address and changes nothing. -/
def Obligations.SystemRegisters : Prop :=
  (∀ (d : Fin 32) (n : Fin 4096) (s : State), sysReadable s.g n = true → readWaits s n = false →
     ∃ t, exec (.gsr d n) s = .next t ∧ OnlyX s t d (sysRead s n) ∧ Retired s t) ∧
  (∀ (x : Fin 32) (n : Fin 4096) (s : State), deliverable s s.g.pc →
     (sysReadable s.g n = false → ∃ t, exec (.gsr x n) s = .next t ∧ TrapEntered s t 0x01 s.g.pc s.g.pc) ∧
     (sysWritable s.g n = false → ∃ t, exec (.ssr x n) s = .next t ∧ TrapEntered s t 0x01 s.g.pc s.g.pc) ∧
     (s.g.tr.lev = false → 0x050 ≤ n.val → n.val ≤ 0x05B → sysReadable s.g n = false ∧ sysWritable s.g n = false) ∧
     (s.g.tr.lev = false → n.val = 0x070 ∨ n.val = 0x040 ∨ n.val = 0x000 → sysWritable s.g n = false)) ∧
  (∀ (a : Fin 32) (n : Fin 4096) (s : State), sysWritable s.g n = true → poisonedX s [a.val] = none →
     writeWaits s n = false → ¬ (n.val = 0x012 ∧ s.g.portable = true ∧ roleSplits s (getX s a).toNat = true) →
     (n.val = 0x080 ∨ n.val = 0x081 → (findLaunch s s.g.launch).isSome = true) →
     ∃ t, exec (.ssr a n) s = .next t ∧ t.g.pc = s.g.pc + 4 ∧
       (n.val ≠ 0x072 → t.g.retired = s.g.retired + 1) ∧
       (n.val ≠ 0x041 → t.g.spcount = if s.g.tr.lev then s.g.spcount else s.g.spcount + 1) ∧
       (NoneCompletes n (getX s a) → sysRead t n = storedValue s n (getX s a) ∧
         (∀ m : Nat, m ≠ n → m ≠ 0x072 → m ≠ 0x041 → sysRead t m = sysRead s m) ∧
         t.g.x = s.g.x ∧ t.g.xPoison = s.g.xPoison ∧ t.pm = s.pm ∧ t.sp = s.sp ∧
         (n.val ≠ 0x012 → t.g.v = s.g.v ∧ t.g.m = s.g.m ∧ t.g.binds = s.g.binds)))

/-- R217, R363, R364, R421, R422: `trap` and a word that is no instruction enter the handler, and halt the group where that
cannot be; tret restores the level and the pc that the trap saved, and is illegal at task level. -/
def Obligations.TrapsAndReturn : Prop :=
  (decodeControl 0x58000072 = some (.trap 7) ∧
   (∀ (s : State), deliverable s s.g.pc →
      (∀ c : Fin 4096, ∃ t, exec (.trap c) s = .next t ∧ TrapEntered s t 0x10 (BitVec.ofNat 64 c.val) s.g.pc) ∧
      (∃ t, exec .illegalInstruction s = .next t ∧ TrapEntered s t 0x01 s.g.pc s.g.pc)) ∧
   (∀ (c : Fin 4096) (s : State), (s.g.tr.handler = 0 ∨ (s.g.tr.lev = true ∧ s.g.pc = s.g.tr.handler)) →
      ∃ t leaves, exec (.trap c) s = .next t ∧
        t = { s with g := { s.g with halt := some (0x10, BitVec.ofNat 64 c.val, s.g.pc) }
                     eng := { s.eng with leaves := leaves }, stalled := false })) ∧
  (∀ (s : State),
     (s.g.tr.lev = true → s.g.tr.plev = true ∨ inExtent s.g s.g.tr.tepc.toNat = true →
       ∃ t arr, exec .tret s = .next t ∧ OnlyControl { s with g := { s.g with tr := t.g.tr, arrived := arr } } t ∧
         t.g.tr = { s.g.tr with lev := s.g.tr.plev, plev := false } ∧
         t.g.pc = s.g.tr.tepc ∧ t.g.flow = .jumped ∧ t.g.retired = s.g.retired + 1 ∧ t.g.spcount = s.g.spcount) ∧
     (s.g.tr.lev = true → s.g.tr.plev = false → inExtent s.g s.g.tr.tepc.toNat = false → deliverable s s.g.pc →
       ∃ t, exec .tret s = .next t ∧ TrapEntered s t 0x0C s.g.tr.tepc s.g.pc) ∧
     (s.g.tr.lev = false → deliverable s s.g.pc →
       ∃ t, exec .tret s = .next t ∧ TrapEntered s t 0x01 s.g.pc s.g.pc))

/-- R179, R183, R184, R208, R240, R358, R366, R367: a fence retires and changes nothing but what it orders (fence.sv and
fence.sv.w the scalar stream's writes before the vector stream's accesses, fence.vs, once the vector stream is quiet, the
vector stream's before the scalar stream's, fence.acq and fence.ar every write before what follows; fence.rel and fence.ar
hold later scalar writes until the vector stream's accesses are performed); a hint, a yield, which has the group passed
over, and an spt change nothing (an spt sets SPCOUNT to 0 and lets a request or a growth take the safe point); a pwlease
changes nothing but the requests and leases of its kind. -/
def Obligations.QuietForms : Prop :=
  decodeControl 0x58000005 = some .yield ∧ ∀ (s : State),
    (∀ i : Instr, (i = .fenceSv ∨ i = .fenceSvW) →
      ∃ s' t, exec i s = .next t ∧ Reordered s s' ∧ OnlyControl s' t ∧ Retired s t ∧ t.g.acq = s.g.acq ∧
        t.g.relFence = s.g.relFence ∧ ∀ r ∈ t.pm.stale, r.stream = .scalar → (whoV t).misses r = false) ∧
    (∀ c : Fin 8,
      (∃ s' t, exec (.fenceAcq c) s = .next t ∧ Reordered s s' ∧ OnlyControl s' t ∧ Retired s t ∧ Acquired t ∧
        t.g.relFence = s.g.relFence) ∧
      (∃ s' t, exec (.fenceRel c) s = .next t ∧ Reordered s s' ∧ OnlyControl s' t ∧ Retired s t ∧ t.g.acq = s.g.acq ∧
        t.g.relFence = vecAccesses s ∧ (4 ≤ c.val → ∀ r ∈ t.pm.stale, r.shown = true)) ∧
      (∃ s' t, exec (.fenceAr c) s = .next t ∧ Reordered s s' ∧ OnlyControl s' t ∧ Retired s t ∧ Acquired t ∧
        t.g.relFence = vecAccesses s ∧ (4 ≤ c.val → ∀ r ∈ t.pm.stale, r.shown = true))) ∧
    (s.g.vps = [] → s.g.fldv = none → s.g.vq = [] →
      ∃ s' t, exec .fenceVs s = .next t ∧ Reordered s s' ∧ OnlyControl s' t ∧ Retired s t ∧ t.g.acq = s.g.acq ∧
        t.g.relFence = s.g.relFence ∧ ∀ r ∈ t.pm.stale, r.stream = .vector → (whoG t).misses r = false) ∧
    (s.g.vps ≠ [] ∨ s.g.fldv ≠ none ∨ s.g.vq ≠ [] → exec .fenceVs s = .next { s with stalled := true }) ∧
    (∀ h, ∃ t, exec (.hint h) s = .next t ∧ OnlyControl s t ∧ Retired s t) ∧
    (∃ t, exec .yield s = .next t ∧ OnlyControl { s with passed := t.passed } t ∧ Retired s t ∧
      ∀ p, p ∈ t.passed ↔ (p ∈ s.passed ∧ p.1 ≠ s.g.gid) ∨ p = (s.g.gid, [], s.cycle + 16)) ∧
    (∀ i : Fin 131072, i.val < (sptOf s).2 →
      ∃ t at', exec (.spt i) s = .next t ∧ OnlyControl { s with g := { s.g with atSpt := at' } } t ∧
        t.g.pc = s.g.pc + 4 ∧ t.g.retired = s.g.retired + 1 ∧ t.g.spcount = 0 ∧
        (at' = s.g.atSpt ∨ at' = some (i.val, s.g.pc)) ∧ (s.g.tr.lev = true → at' = s.g.atSpt)) ∧
    (∀ a : Fin 32, poisonedX s [a.val] = none → (getX s a).toNat < 2 ^ 34 →
      ∃ t leaves, exec (.pwlease a) s = .next t ∧
        OnlyControl { s with eng := { s.eng with leaves := leaves } } t ∧ Retired s t ∧
        (∀ l ∈ s.eng.leaves, isLease l s.g.gid ((getX s a).toNat / 2 ^ 32) = false → l ∈ leaves) ∧
        ((getX s a).toNat % 2 ^ 32 ≠ 0 → ∃ l ∈ leaves, l.gid = s.g.gid ∧
          l.lease = some ((getX s a).toNat / 2 ^ 32, min ((getX s a).toNat % 2 ^ 32) 1048576)))

/-- R41, R54, R267: a future load of a full word takes its value, and empties it in the emptying forms; one of an empty word
waits; ffill, a release, writes the word, makes it full and wakes every parked waiter once what it releases is performed,
and waits before; the return of a load is an acquire (R194). -/
def Obligations.Futures : Prop :=
  (∀ (i : Instr) (d a : Nat) (e x : Bool) (s s1 : State) (pa : Nat),
     futForm i = some (d, a, e, x) → poisonedX s [a] = none → futOf s (self s) = none →
     FutureAt s (getX s a) (if e then kReadWrite else kRead) pa s1 →
     (s.pm.isFull (pa / 8) = true → s1.pm.linePoison (lineOf pa) = false →
       ∃ s' t, exec i s = .next t ∧ Looked s s' ∧
         OnlyX { s' with g := { s'.g with external := false, acq := t.g.acq }, futs := t.futs, sent := t.sent } t d
           (BitVec.ofNat 64 (s.pm.word pa 8)) ∧
         Retired s t ∧ Acquired t ∧ (∀ f, f ∈ t.futs ↔ f ∈ s.futs) ∧
         t.pm.isFull (pa / 8) = !e ∧ BitsKept s t pa ∧ MemoryKept s t) ∧
     (s.pm.isFull (pa / 8) = false →
       ∃ s' t f, exec i s = .next t ∧ Looked s s' ∧ t.stalled = true ∧
         t = { s' with g := { s'.g with external := x }, futs := t.futs, stalled := true } ∧
         futOf t (self s) = some f ∧ f.pa = pa ∧ f.emptying = e ∧ Unanswered f ∧ MemoryKept s t)) ∧
  (∀ (a b : Fin 32) (s s1 : State) (pa : Nat), poisonedX s [a.val, b.val] = none →
     FutureAt s (getX s a) kWrite pa s1 →
     (vecAccesses s = true → ∃ s', Looked s s' ∧ exec (.ffill a b) s = .next { s' with stalled := true }) ∧
     (vecAccesses s = false → ∃ s' t, exec (.ffill a b) s = .next t ∧ Looked s s' ∧
       OnlyControl { s' with futs := t.futs, sent := t.sent } t ∧ Retired s t ∧
       t.pm.word pa 8 = (getX s b).toNat ∧ MemoryKeptBut s t pa 8 ∧ BitsKept s t pa ∧
       (∀ f ∈ s.futs, f.pa = pa → (∃ sl i, f.st = .parked sl i) →
         { f with st := .waking (getX s b) (t.pm.linePoison (lineOf pa)) } ∈ t.futs) ∧
       ((∀ f ∈ s.futs, f.pa = pa → ∀ sl, f.st ≠ .deferred sl) → t.pm.isFull (pa / 8) = true)))

/-- R346 to R349: the last arrival completes a phase, an earlier one is counted once; tbar waits for its phase, carrive gives
the phase bit that it found, cwait waits for it to change; an arrival is a release, which waits for the vector stream's
accesses, and the return of a tbar or a cwait is an acquire. -/
def Obligations.Barriers : Prop :=
  (∀ (d a : Fin 32) (s : State) (t0 : Team), poisonedX s [a.val] = none → (getX s a).toNat < 16 →
     teamOf s s.g = some t0 → s.g.arrived = [] → vecAccesses s = false →
     let b := (getX s a).toNat
     let x := myBar s false b
     (x.arr + 1 = x.memb →
       ∃ s' t, exec (.tbar d a) s = .next t ∧ Reordered s s' ∧ Acquired t ∧
         OnlyX { s' with teams := t.teams } t d (BitVec.ofNat 64 x.gen) ∧ Retired s t ∧
         Completed x (myBar t false b) ∧ (∀ c, c < 16 → c ≠ b → myBar t false c = myBar s false c)) ∧
     (x.arr + 1 < x.memb →
       ∃ t, exec (.tbar d a) s = .next t ∧
         t = { s with teams := t.teams, g := { s.g with arrived := [⟨s.g.pc, b, x.gen, d.val⟩] }, stalled := true } ∧
         myBar t false b = { x with arr := x.arr + 1 })) ∧
  (∀ (d a b : Fin 32) (s : State) (t0 : Team) (c0 : Cluster), teamOf s s.g = some t0 → clusterOf s t0 = some c0 →
     (poisonedX s [a.val] = none → (getX s a).toNat < 8 →
       let x := myBar s true (getX s a).toNat
       (vecAccesses s = true → exec (.carrive d a) s = .next { s with stalled := true }) ∧
       (vecAccesses s = false → x.marks.contains s.g.gid = false → 0 < x.memb →
       ∃ t, exec (.carrive d a) s = .next t ∧
         (d.val ∉ s.g.xPend → getX t d = (if d.val = 0 then 0 else if x.p then 1 else 0)) ∧
         (∀ r, r ≠ d.val → getX t r = getX s r) ∧ t.pm = s.pm ∧ t.g.v = s.g.v ∧ Retired s t ∧
         (x.arr + 1 = x.memb → Completed x (myBar t true (getX s a).toNat)) ∧
         (x.arr + 1 ≠ x.memb → (myBar t true (getX s a).toNat).arr = x.arr + 1 ∧
           s.g.gid ∈ (myBar t true (getX s a).toNat).marks))) ∧
     (poisonedX s [a.val, b.val] = none → (getX s a).toNat < 8 → (getX s b).toNat < 2 → s.g.waits.cwait = none →
       let p := if (myBar s true (getX s a).toNat).p then 1 else 0
       (p ≠ (getX s b).toNat → ∃ s' t, exec (.cwait a b) s = .next t ∧ Reordered s s' ∧ OnlyControl s' t ∧ Retired s t ∧
         Acquired t) ∧
       (p = (getX s b).toNat → ∃ t w, exec (.cwait a b) s = .next t ∧
         t = { s with g := { s.g with waits := w }, stalled := true } ∧ w.cwait = some ((getX s a).toNat, p))))

/-- R350 to R352: a group that leaves its team belongs to none, is one member fewer in each of the team's barriers, and
can join a team of its core and address space again, as a member of each barrier's current phase. -/
def Obligations.Membership : Prop :=
  ∀ (d a : Fin 32) (s : State), queueHeld s = false → enginesIdle s = true → s.g.binds = [] →
    (∀ t0, teamOf s s.g = some t0 →
      ∃ t, exec .tdetach s = .next t ∧ t.g.pl = s.g.pl.detached ∧ teamOf t t.g = none ∧ t.g.x = s.g.x ∧ t.g.v = s.g.v ∧
        t.g.pc = s.g.pc + 4 ∧ t.g.retired = s.g.retired + 1 ∧
        ((∃ m ∈ t0.members, m ≠ s.g.gid) →
          ∃ u ∈ t.teams, u.core = t0.core ∧ u.num = t0.num ∧ u.members = t0.members.filter (· != s.g.gid) ∧
            ∀ b, b < 16 → (barOf t u false b).memb = (barOf s t0 false b).memb - 1)) ∧
    (∀ t0, poisonedX s [a.val] = none → (getX s a).toNat < 4096 → s.g.pl.det = true →
      (getX s a).toNat / 16 = s.g.pl.core →
      s.teams.find? (fun t => t.core == (getX s a).toNat / 16 && t.num == (getX s a).toNat % 16 && !t.exited
        && t.asid == s.g.asid && decide (t.members.length < 16)) = some t0 →
      ∃ t, exec (.tattach d a) s = .next t ∧ t.g.pl.det = false ∧ t.g.pl.team = t0.num ∧ t.g.pl.gix = freeGix s t0 ∧
        t.g.pl.spBase = t0.spBase ∧ t.g.pl.spSize = t0.spSize ∧ t.g.pl.teamix = t0.teamix ∧
        (d.val ∉ s.g.xPend → (getX t d).toNat % 256 = if d.val = 0 then 0 else freeGix s t0) ∧
        (∀ r, r ≠ d.val → getX t r = getX s r) ∧ t.pm = s.pm ∧ t.g.pc = s.g.pc + 4 ∧
        (s.teams.find? (fun u => u.core == t0.core && u.num == t0.num && !u.exited) = some t0 →
          ∃ u ∈ t.teams, u.core = t0.core ∧ u.num = t0.num ∧ u.members = t0.members ++ [s.g.gid] ∧
            ∀ b, b < 16 → (barOf t u false b).memb = (barOf s t0 false b).memb + 1))

/-- R353: a post to a granted channel is on its way when ipost, a release, retires, and its arrival raises the channel's
count to it; iwait, an acquire, returns the count once it has reached the value, and waits before. -/
def Obligations.Crier : Prop :=
  ∀ (d a b : Fin 32) (s : State) (c : Channel), poisonedX s [a.val, b.val] = none → (getX s a).toNat < 128 →
    s.channels.find? (fun c => c.die == (getX s a).toNat / 16 && c.ch == (getX s a).toNat % 16
      && c.launch == s.g.launch) = some c →
    (vecAccesses s = true → exec (.ipost a b) s = .next { s with stalled := true }) ∧
    (vecAccesses s = false → ∃ s' t, exec (.ipost a b) s = .next t ∧ Reordered s s' ∧
      OnlyControl { s' with posts := s.posts ++ [(c.die, c.ch, getX s b)] } t ∧ Retired s t) ∧
    ((getX s b).toNat ≤ c.count.toNat → ∃ s' t, exec (.iwait d a b) s = .next t ∧ Reordered s s' ∧
      OnlyX s' t d c.count ∧ Retired s t ∧ Acquired t) ∧
    (c.count.toNat < (getX s b).toNat → exec (.iwait d a b) s = .next { s with stalled := true }) ∧
    (∀ n ps, s.posts = (c.die, c.ch, n) :: ps → 
      s.channels.filter (fun c' => c'.die == c.die && c'.ch == c.ch) = [c] → s.msg.idx = 0 →
      ∃ t, exec .crierPostArrival s = .next t ∧ t.posts = ps ∧
        t = { s with posts := ps, channels := t.channels } ∧
        ∀ c' ∈ t.channels, c'.die = c.die → c'.ch = c.ch → c'.count.toNat = max c.count.toNat n.toNat)

/-- R111, R113, R114, R191: bclose gives the open batch's number and opens the next; a wait for a complete batch retires,
what other agents have done so far being ordered before what follows; the first failure held at or before a batch that is
not complete is reported as a trap, and held no more; and otherwise the wait goes on. -/
def Obligations.Batches : Prop :=
  (∀ (a : Fin 32) (k : Fin 8) (s : State),
     (Closable s k → NothingToLand s k → ∃ t, exec (.bclose a k) s = .next t ∧
       (a.val ∉ s.g.xPend → getX t a = if a.val = 0 then 0 else BitVec.ofNat 64 ((tokOf s k).opn % 65536)) ∧
       (∀ r, r ≠ a.val → getX t r = getX s r) ∧
       (tokOf t k).opn = ((tokOf s k).opn + 1) % 65536 ∧ (∀ j, j ≠ k.val → tokOf t j = tokOf s j) ∧
       t.pm = s.pm ∧ t.g.v = s.g.v ∧ Retired s t) ∧
     (¬ Closable s k → exec (.bclose a k) s = .next { s with stalled := true })) ∧
  (∀ (a : Fin 32) (k : Fin 8) (s : State) (n : Nat), poisonedX s [a.val] = none → s.g.windows = [] →
     n = (getX s a).toNat % 65536 →
     (s.g.waits.bwait = none → diff16 (tokOf s k).opn n ≠ 0 → diff16 (tokOf s k).opn n < 32768 →
       (batchDone s k n = true → ∃ t, exec (.bwait a k) s = .next t ∧
         OnlyControl { s with g := { s.g with acq := s.clock } } t ∧ Retired s t) ∧
       (batchDone s k n = false → reports s k n = none →
         ∃ t w, exec (.bwait a k) s = .next t ∧ t = { s with g := { s.g with waits := w }, stalled := true } ∧
           w.bwait = some n) ∧
       (∀ r, batchDone s k n = false → reports s k n = some r → deliverable s s.g.pc →
         NothingToLand s k →
         ∃ t, exec (.bwait a k) s = .next t ∧ t.g.tr.lev = true ∧ t.g.tr.tcause = r.cause ∧ t.g.tr.tval = r.val ∧
           t.g.tr.tepc = s.g.pc &&& ~~~3#64 ∧ t.g.pc = s.g.tr.handler ∧ t.g.x = s.g.x ∧
           ∀ q, q ∈ (tokOf t k).fails ↔ q ∈ (tokOf s k).fails ∧ q ≠ r)) ∧
     (s.g.waits.bwaitm = none →
       let last (j : Nat) : Nat := ((tokOf s j).opn + 65535) % 65536
       ((∀ j, j < 8 → (getX s a).getLsbD j = true → batchDone s j (last j) = true) →
         ∃ t, exec (.bwaitm a) s = .next t ∧ OnlyControl { s with g := { s.g with acq := s.clock } } t ∧ Retired s t) ∧
       (∀ j, j < 8 → (getX s a).getLsbD j = true → batchDone s j (last j) = false →
         (∀ i, i < 8 → (tokOf s i).fails = []) →
         ∃ t w, exec (.bwaitm a) s = .next t ∧ t = { s with g := { s.g with waits := w }, stalled := true })))

/-- R97, R99, R106, R273, R274: a copy between places of main memory whose descriptor is legal, with no notify future and no
ration, is handed to the Carter as a transfer of its token's open batch, and retires; no byte of memory has moved yet; only
the return register and the mask register are undefined until its batch completes. -/
def Obligations.CopyIssued : Prop :=
  ∀ (a v : Fin 32) (m : Fin 8) (c : Fin 32) (k : Fin 8) (f : Bool) (s : State) (d : Vector Word 16),
    poisonedX s [a.val] = none →
    (CopyFits s (getX s a) k c m none f d →
      ∃ t x, exec (.cpy a m c k f) s = .next t ∧ x ∈ t.eng.xfers ∧ x.id = s.eng.nextId ∧ x.gid = s.g.gid ∧ x.tok = k ∧
        x.batch = (tokOf s k).opn ∧ x.desc = d ∧ x.asid = s.g.asid ∧ x.ret = c ∧ x.mreg = m ∧ x.unit = 0 ∧
        (∀ r, r ≠ c.val → getX t r = getX s r) ∧ (c.val ≠ 0 → c.val ∈ t.g.xPend) ∧
        (∀ j, j ≠ m.val → mregOf t.g j = mregOf s.g j) ∧ (m.val ≠ 0 → m.val ∈ t.g.mPend) ∧
        t.g.vc.vstart = 0 ∧ t.g.v = s.g.v ∧ t.sp = s.sp ∧ MemoryKept s t ∧ Retired s t) ∧
    (CopyFits s (getX s a) k 0 m (some v.val) f d →
      ∃ t x, exec (.cpyG a v m k f) s = .next t ∧ x ∈ t.eng.xfers ∧ x.id = s.eng.nextId ∧ x.gid = s.g.gid ∧ x.tok = k ∧
        x.desc = d ∧ x.rows.map (·.1) = some v.val ∧ x.unit = 0 ∧ t.g.x = s.g.x ∧ t.g.v = s.g.v ∧ t.sp = s.sp ∧
        MemoryKept s t ∧ Retired s t)

/-- R212, R214, R301: a vfetch whose body passes its checks launches one VP for each active element, with the snapshot of
the h registers and of VL, adds the body's length to SPCOUNT at task level, and changes no register. -/
def Obligations.VfetchLaunches : Prop :=
  ∀ (b : Fin 32) (m : Fin 8) (s s1 : State) (xq : Bool) (body : List Instr), poisonedX s [b.val] = none →
    queueHeld s = false → isSplit s s.g = false → s.g.binds = [] → s.granules = [] → Memory.wf s.pm = true →
    fetchAib s (whoG s) (getX s b).toNat = .ok xq body s1 →
    (s.g.tr.lev = true ∨ s.g.spcount + body.length ≤ s.g.splimit) → 0 < body.length →
    ∃ t, exec (.vfetch b m) s = .next t ∧ t.g.vps.map Vp.idx = active s.g (ctxG s) m ∧
      (∀ v ∈ t.g.vps, v.st = .lockstep ∧ v.target = none ∧ v.flags = 0) ∧
      (t.g.vps ≠ [] → ∃ a, t.g.aib = some a ∧ a.addr = (getX s b).toNat ∧ a.xq = xq ∧ a.body = body ∧ a.pos = 0) ∧
      (t.g.vps = [] → t.g.aib = none) ∧ t.g.hSnap = s.g.h ∧ t.g.vlSnap = s.g.vc.vl ∧ t.g.fSnap = s.g.vc.fmode ∧
      t.g.vc = { s.g.vc with vstart := 0 } ∧ t.g.x = s.g.x ∧ t.g.v = s.g.v ∧ t.g.m = s.g.m ∧ MemoryKept s t ∧
      t.g.pc = s.g.pc + 4 ∧ t.g.retired = s.g.retired + 1 ∧
      t.g.spcount = if s.g.tr.lev then s.g.spcount else s.g.spcount + body.length

/-- R144, R180, R307, R310, R423: vsync retires once every earlier vector instruction has completed and every VP has
rejoined, its later accesses seeing what the VPs wrote; with stopped VPs it takes the trap of the lowest that has a cause,
with its index, and releases them all; it waits before. The control thread's xqsend appends its register to a queue of four
entries and its xqrecv takes the oldest entry of the other; each waits, for room or for an entry, and changes nothing
then. -/
def Obligations.VsyncAndQueues : Prop :=
  ∀ (a d : Fin 32) (s : State),
    (Settles s → s.g.vps = [] →
      ∃ s' t, exec .vsync s = .next t ∧ Reordered s s' ∧ OnlyControl s' t ∧ Retired s t ∧
        ∀ r ∈ t.pm.stale, ∀ v, r.stream = .vp v → (whoG t).misses r = false ∧ (whoV t).misses r = false) ∧
    (∀ v aib pos c val h, Settles s → v ∈ s.g.vps → v.st = .stopped aib pos (some (c, val)) h →
      (∀ u ∈ s.g.vps, u ≠ v → (∃ a p x y, u.st = .stopped a p (some x) y) → v.idx < u.idx) → deliverable s s.g.pc →
      ∃ t, exec .vsync s = .next t ∧ t.g.vps = [] ∧ t.g.tr.tcause = c ∧ t.g.tr.tval = BitVec.ofNat 64 v.idx ∧
        t.g.tr.tepc = s.g.pc &&& ~~~3#64 ∧ t.g.tr.plev = s.g.tr.lev ∧ t.g.tr.lev = true ∧ t.g.pc = s.g.tr.handler ∧
        t.g.retired = s.g.retired ∧ t.g.x = s.g.x ∧ t.g.v = s.g.v ∧ t.g.m = s.g.m ∧ ∀ b, t.pm.byte b = s.pm.byte b) ∧
    (¬ Settles s → exec .vsync s = .next { s with stalled := true }) ∧
    (∀ r, poisonedX s [a.val] = some r → deliverable s s.g.pc →
      ∃ t, exec (.xqsendCt a) s = .next t ∧ TrapEntered s t 0x0A (BitVec.ofNat 64 (0x20 + r)) s.g.pc) ∧
    (poisonedX s [a.val] = none → 4 ≤ s.g.xqTo.length → exec (.xqsendCt a) s = .next { s with stalled := true }) ∧
    (poisonedX s [a.val] = none → s.g.xqTo.length < 4 →
      ∃ t x, exec (.xqsendCt a) s = .next t ∧ Retired s t ∧ x.val = getX s a ∧ x.tag = 0 ∧
        OnlyControl { s with g := { s.g with xqTo := s.g.xqTo ++ [x] } } t) ∧
    (∀ x rest, s.g.xqFrom = x :: rest →
      ∃ t, exec (.xqrecvCt d) s = .next t ∧ Retired s t ∧ OnlyX { s with g := { s.g with xqFrom := rest } } t d x.val) ∧
    (s.g.xqFrom = [] → exec (.xqrecvCt d) s = .next { s with stalled := true })

/-- R144, R145, R302, R304, R309: the words of a body that act on VPs: tfetch records a target in each active VP, xqsend
sends each active VP's element to the next active VP or to the control thread, xqrecv gives the lowest active VP the
oldest entry of the control thread; the body goes on to its next word. On the control thread they are illegal. -/
def Obligations.BodyWords : Prop :=
  ∀ (b : Fin 32) (m : Fin 8) (s : State) (a : AibRun), s.granules = [] →
    (BodyAtWord s (.tfetch b m true) a → s.g.hSnapPoison = [] →
      ∃ t, exec (.tfetch b m true) s = .next t ∧ t.g.aib = some { a with pos := a.pos + 1 } ∧ t.pm = s.pm ∧
        t.g.v = s.g.v ∧ t.g.x = s.g.x ∧
        ∀ e ∈ actors s m, ∃ v ∈ t.g.vps, v.idx = e ∧
          v.target = some (s.g.hSnap.toList.getD (b.val % 16) 0).toNat) ∧
    (BodyAtWord s (.tfetch b m false) a → isInt (vregOf s.g b).tag = true → cw (vregOf s.g b).tag = 64 →
      s.g.vlSnap ≤ capacity s b (vregOf s.g b).tag (vregOf s.g b).gf →
      ∃ t, exec (.tfetch b m false) s = .next t ∧ t.g.aib = some { a with pos := a.pos + 1 } ∧ t.pm = s.pm ∧
        t.g.v = s.g.v ∧ t.g.x = s.g.x ∧
        ∀ e ∈ actors s m, ∃ v ∈ t.g.vps, v.idx = e ∧ v.target = some (BitVec.ofNat 64 (elemOf s b e)).toNat) ∧
    (BodyAtWord s (.xqsend b m) a → (vregOf s.g b).tag ≠ 0 → isMx (vregOf s.g b).tag = false →
      s.g.vlSnap ≤ capacity s b (vregOf s.g b).tag (vregOf s.g b).gf → s.g.xq = [] → s.g.xqFrom = [] →
      (actors s m).length ≤ 4 →
      ∃ t, exec (.xqsend b m) s = .next t ∧ t.g.aib = some { a with pos := a.pos + 1 } ∧ t.pm = s.pm ∧
        t.g.v = s.g.v ∧ t.g.x = s.g.x ∧
        ∀ e ∈ actors s m, ∃ x ∈ t.g.xq.map (·.2) ++ t.g.xqFrom, x.tag = (vregOf s.g b).tag ∧
          x.dest = (actors s m).find? (fun y => decide (e < y)) ∧
          x.val.toNat % 2 ^ cw (vregOf s.g b).tag = elemOf s b e % 2 ^ cw (vregOf s.g b).tag) ∧
    (∀ e x rest, BodyAtWord s (.xqrecv b m) a → b.val ∉ s.g.vPend → (vregOf s.g b).tag ≠ 0 → isMx (vregOf s.g b).tag = false →
      s.g.vlSnap ≤ capacity s b (vregOf s.g b).tag (vregOf s.g b).gf → actors s m = [e] →
      s.g.xqTo = x :: rest → (x.tag = 0 ∨ x.tag = (vregOf s.g b).tag) →
      ∃ t, exec (.xqrecv b m) s = .next t ∧ t.g.aib = some { a with pos := a.pos + 1 } ∧ t.pm = s.pm ∧
        t.g.xqTo = rest ∧ t.g.x = s.g.x ∧
        elemOf t b e = x.val.toNat % 2 ^ cw (vregOf s.g b).tag % 2 ^ vw (vregOf s.g b).tag ∧
        (∀ r, r ≠ b.val → vregOf t.g r = vregOf s.g r)) ∧
    (s.g.aib = none → deliverable s s.g.pc →
      (∀ k, ∃ t, exec (.tfetch b m k) s = .next t ∧ TrapEntered s t 0x01 s.g.pc s.g.pc) ∧
      (∃ t, exec (.xqsend b m) s = .next t ∧ TrapEntered s t 0x01 s.g.pc s.g.pc) ∧
      (∃ t, exec (.xqrecv b m) s = .next t ∧ TrapEntered s t 0x01 s.g.pc s.g.pc))

/-- R149, R167, R168, R280, R281, R283, R285: an element-wise form on integers or bits writes, at each active element,
its result in the operation's tag; every other element, register, mask and flag stays. -/
def Obligations.VectorInteger : Prop :=
  ∀ (i : Instr) (f : IntForm) (s : State) (tag : Nat), intForm i = some f → VectorReady s →
    (if f.one then (vregOf s.g f.b).tag = tag else pairTag (vregOf s.g f.a).tag (secondTag s f.k f.a f.b) = some tag) →
    (isInt tag = true ∨ (f.bitOk = true ∧ tag = tagBit)) → (f.fused = true → (vregOf s.g f.d).tag = tag) →
    sourcesFit s f.k f.one f.fused f.a f.b f.d → DestFits s f.d tag → (f.d < 32) →
    ∃ t, exec i s = .next t ∧ WroteV s t f.d ∧ t.g.vc.fflags = s.g.vc.fflags ∧
      ElementsKept s t f.d tag (acting s f.m) ∧
      ∀ e ∈ acting s f.m, elemOf t f.d e =
        (f.val (isSigned tag) (cw tag) (elemBits s f.a (cw tag) e) (secondBits s f.k f.a f.b (cw tag) e)
          (elemBits s f.d (cw tag) e)).toNat

/-- R152, R156, R158, R167, R283: an element-wise form on floats writes, at each active element, its exact result rounded
once into the operation's tag under FMODE (stochastic rounding apart), with the flags raised. -/
def Obligations.VectorFloat : Prop :=
  ∀ (i : Instr) (f : FloatForm) (s : State) (tag : Nat), floatForm i = some f → VectorReady s →
    (if f.one then (vregOf s.g f.b).tag = tag else pairTag (vregOf s.g f.a).tag (secondTag s f.k f.a f.b) = some tag) →
    isFloat tag = true → srGoverns s.g.vc.fmode tag = false → (f.fused = true → (vregOf s.g f.d).tag = tag) →
    sourcesFit s f.k f.one f.fused f.a f.b f.d → DestFits s f.d tag → (f.d < 32) →
    ∃ t, exec i s = .next t ∧ WroteV s t f.d ∧ ElementsKept s t f.d tag (acting s f.m) ∧
      ∀ e ∈ acting s f.m,
        let fm := s.g.vc.fmode
        let x := f.val (rmOf fm == 2) (elemVal s fm f.a e).ex (secondEx s f.k f.a f.b e) (elemVal s fm f.d e).ex
        let p := roundMode tag (if f.exact then 0 else modeFor fm tag) (satOf fm) fm 0 x.1
        elemOf t f.d e = p.1 % 2 ^ vw tag ∧ (x.2 ||| p.2) &&& t.g.vc.fflags = x.2 ||| p.2

/-- R167, R286: a comparison writes the mask bits of the active elements: on integers the relation between their values
in the operation's tag, on floats the relation between their values or the answer for a NaN. -/
def Obligations.VectorCompare : Prop :=
  ∀ (i : Instr) (f : CmpForm) (s : State) (tag : Nat), cmpForm i = some f → VectorReady s →
    pairTag (vregOf s.g f.a).tag (secondTag s f.k f.a f.b) = some tag → isInt tag = true ∨ isFloat tag = true →
    sourcesFit s f.k false false f.a f.b f.d → (f.d < 8) →
    ∃ t, exec i s = .next t ∧
      WroteM s t f.d (acting s f.m) (fun e =>
        if isInt tag then
          f.int (asInt (isSigned tag) (elemBits s f.a (cw tag) e)) (asInt (isSigned tag) (secondBits s f.k f.a f.b (cw tag) e))
        else
          let x := (elemVal s s.g.vc.fmode f.a e).ex
          let y := secondEx s f.k f.a f.b e
          if x.isNan || y.isNan then f.nan else f.flt (Ex.cmp x y))

/-- R164, R287: vcvt between integers wraps and vcvt.sat clamps, vcvt between floats rounds under FMODE (stochastic
rounding apart), and vretag gives the same pattern another tag of its width. -/
def Obligations.VectorConvert : Prop :=
  ∀ (d tg b : Fin 32) (m : Fin 8) (c : Bool) (s : State), VectorReady s → SourceFits s b → DestFits s d tg →
    let tb := (vregOf s.g b).tag
    (isInt tb = true → isInt tg = true →
      (∃ t, exec (.vcvt d tg b m c) s = .next t ∧ WroteV s t d ∧ ElementsKept s t d tg (acting s m) ∧
        ∀ e ∈ acting s m, elemOf t d e = (BitVec.ofInt (cw tg) (elemInt s b e)).toNat) ∧
      (∃ t, exec (.vcvtSat d tg b m c) s = .next t ∧ WroteV s t d ∧ ElementsKept s t d tg (acting s m) ∧
        ∀ e ∈ acting s m, elemOf t d e = (clampBits (isSigned tg) (cw tg) (elemInt s b e)).toNat)) ∧
    (isFloat tb = true → isFloat tg = true → srGoverns s.g.vc.fmode tg = false →
      ∃ t, exec (.vcvt d tg b m c) s = .next t ∧ WroteV s t d ∧ ElementsKept s t d tg (acting s m) ∧
        ∀ e ∈ acting s m, elemOf t d e =
          (roundMode tg (modeFor s.g.vc.fmode tg) (satOf s.g.vc.fmode) s.g.vc.fmode 0 (elemVal s s.g.vc.fmode b e).ex).1
            % 2 ^ vw tg) ∧
    (tb ≠ 0 → tb ≠ tagBit → tg.val ≠ tagBit → isMx tb = false → isMx tg = false → cw tb = cw tg →
      ¬ (isInt tb = true ∧ tg.val = tagE8m0) → ¬ (tb = tagE8m0 ∧ isInt tg = true) →
      ∃ t, exec (.vretag d tg b m c) s = .next t ∧ WroteV s t d ∧ ElementsKept s t d tg (acting s m) ∧
        ∀ e ∈ acting s m, elemOf t d e = elemOf s b e % 2 ^ vw tg)

/-- R149, R291, R292, R293: an integer reduction writes, into element 0 alone, the combination of the active elements and
of element 0 of its start register, whatever the order; the running sum writes each partial sum. -/
def Obligations.VectorReduce : Prop :=
  ∀ (s : State) (tag : Nat), VectorReady s → isInt tag = true → 0 < s.g.vc.vl →
    (∀ (i : Instr) (f : RedForm), redForm i = some f →
      pairTag (vregOf s.g f.a).tag (vregOf s.g f.b).tag = some tag → SourceFits s f.a → SourceFits s f.b →
      DestFits s f.d tag → f.d < 32 →
      ∃ t, exec i s = .next t ∧ WroteV s t f.d ∧ ElementsKept s t f.d tag [0] ∧
        elemOf t f.d 0 = ((actingFrom0 s f.m).foldl (fun x e => f.op (isSigned tag) (cw tag) x (elemBits s f.b (cw tag) e))
          (elemBits s f.a (cw tag) 0)).toNat) ∧
    (∀ (d a b : Fin 32) (m : Fin 8) (c : Bool),
      pairTag (vregOf s.g a).tag (vregOf s.g b).tag = some tag → SourceFits s a → SourceFits s b → DestFits s d tag →
      ∃ t, exec (.vscan d a b m c) s = .next t ∧ WroteV s t d ∧ ElementsKept s t d tag (actingFrom0 s m) ∧
        ∀ n, n < (actingFrom0 s m).length → elemOf t d ((actingFrom0 s m).getD n 0) =
          (((actingFrom0 s m).take (n + 1)).foldl (fun x e => x + elemBits s b (cw tag) e) (elemBits s a (cw tag) 0)).toNat)

/-- R280, R291, R294, R295: the moving forms copy elements of their data source, in its tag, to the places that each form
gives, zero where it gives none; vmv.x gives element 0 to an x register, vmv of a scalar its low bits. -/
def Obligations.VectorMove : Prop :=
  ∀ (s : State), VectorReady s →
    (∀ (i : Instr) (f : MoveForm), moveForms i = some f →
      let tag := (vregOf s.g f.src).tag
      tag ≠ 0 → isMx tag = false → SourceFits s f.src → (∀ r, f.idx = some r → isInt (vregOf s.g r).tag = true ∧ SourceFits s r) →
      (∀ r, f.scalar = some r → poisonedX s [r] = none) → DestFits s f.d tag → f.d < 32 →
      let ws := f.map s (if f.from0 then actingFrom0 s f.m else acting s f.m) s.g.vc.vl
      ∃ t, exec i s = .next t ∧ WroteV s t f.d ∧ ElementsKept s t f.d tag (ws.map (·.1)) ∧
        ∀ w ∈ ws, elemOf t f.d w.1 = ((w.2.map (fun j => elemOf s f.src j)).getD 0) % 2 ^ vw tag) ∧
    (∀ (d b : Fin 32) (m : Fin 8) (c : Bool), let tag := (vregOf s.g d).tag
      tag ≠ 0 → isMx tag = false → poisonedX s [b.val] = none → DestFits s d tag →
      ∃ t, exec (.vmv d b m c true) s = .next t ∧ WroteV s t d ∧ ElementsKept s t d tag (acting s m) ∧
        ∀ e ∈ acting s m, elemOf t d e = (getX s b).toNat % 2 ^ vw tag) ∧
    (∀ (d b : Fin 32) (c : Bool), let tag := (vregOf s.g b).tag
      tag ≠ 0 → isMx tag = false → 0 < sideLanes s s.g (vSide b) → SourceFits s b →
      ∃ s' t, exec (.vmvX d b c) s = .next t ∧ VectorRest s s' ∧ s'.g.v = s.g.v ∧ OnlyX s' t d
        (if isSigned tag then (BitVec.ofNat (cw tag) (elemOf s b 0)).signExtend 64 else BitVec.ofNat 64 (elemOf s b 0 % 2 ^ cw tag)) ∧
        Retired s t)

/-- R156, R158, R289, R290: each special function completes on elements of the four tags: at each active element it writes
the function's value there, rounded once into the tag, by FMODE for vrcp and vsqrt and to nearest even for the others, with
the flags raised; at a special operand the value and flags are those of the table of R290, elsewhere what `sfuExact` says.
Where an exact value is irrational, `sfuVal` is the model's stand-in for it (log entry 35). -/
def Obligations.VectorSpecial : Prop :=
  (∀ (i : Instr) (d b m : Nat) (op : SfuOp) (rne : Bool) (s : State), sfuForms i = some (d, b, m, op, rne) →
    let tag := (vregOf s.g b).tag
    let fm := s.g.vc.fmode
    VectorReady s → (tag = 0x09 ∨ tag = 0x0A ∨ tag = 0x0B ∨ tag = 0x0C) → SourceFits s b → DestFits s d tag →
    ∃ t, exec i s = .next t ∧ WroteV s t d ∧ ElementsKept s t d tag (acting s m) ∧
      ∀ e ∈ acting s m,
        let x := (elemVal s fm b e).ex
        let y := sfuVal op tag fm x
        let p := roundMode tag (if rne then 0 else modeFor fm tag) (satOf fm) fm 0 y.1
        elemOf t d e = p.1 % 2 ^ vw tag ∧ (y.2 ||| p.2) &&& t.g.vc.fflags = y.2 ||| p.2 ∧
        (∀ r, sfuSpecial op x = some r → y = r) ∧ (sfuSpecial op x = none → y.2 = 0 ∧ sfuExact op (rat x) (rat y.1))) ∧
  roundMode 0x0A 0 false 0 0 (sfuVal .exp2 0x0A 0 (.num true 3 1 (-1))).1 = (0x3EB504F3, fNX)

/-- R288, R296, R311: the element-wise mask forms write the bits of the active elements; mpopc counts the active
elements whose bit is set and mfirst gives the first, or all ones; vidx and vpid number the active elements. A word of
VMASK with a destination of m0, a register above m7 or an unused field that is not 0 is no instruction. -/
def Obligations.MaskAndIndexForms : Prop :=
  (∀ w i, w < 2 ^ 32 → w / 2 ^ 26 = 0x28 → decodeControl w = some i →
    (w % 128 ≤ 6 → 0 < w / 2 ^ 21 % 32 ∧ w / 2 ^ 21 % 32 < 8) ∧ w / 2 ^ 16 % 32 < 8 ∧ w / 2 ^ 11 % 32 < 8 ∧
    (3 < w % 128 → w / 2 ^ 16 % 32 = 0) ∧ (w % 128 = 5 ∨ w % 128 = 6 → w / 2 ^ 11 % 32 = 0)) ∧
  ∀ (s : State), VectorReady s →
    (∀ i d a b m f, maskForms i = some (d, a, b, m, f) → d < 8 →
      ∃ t, exec i s = .next t ∧ WroteM s t d (acting s m) (fun e => f (maskBit s.g a e) (maskBit s.g b e))) ∧
    (∀ (d : Fin 32) (b m : Fin 8) (c : Bool),
      let es := (actingFrom0 s m).filter (maskBit s.g b)
      (∃ s' t, exec (.mpopc d b m c) s = .next t ∧ VectorRest s s' ∧ s'.g.v = s.g.v ∧
        OnlyX s' t d (BitVec.ofNat 64 es.length) ∧ Retired s t) ∧
      (∃ s' t, exec (.mfirst d b m c) s = .next t ∧ VectorRest s s' ∧ s'.g.v = s.g.v ∧
        OnlyX s' t d (if es = [] then BitVec.allOnes 64 else BitVec.ofNat 64 (es.headD 0)) ∧ Retired s t)) ∧
    (∀ (d : Fin 32) (st : Fin 1024) (m : Fin 8) (c : Bool) (p : Fin 128), let tag := (vregOf s.g d).tag
      isInt tag = true → DestFits s d tag →
      (∃ t, exec (.vidx d st m c p) s = .next t ∧ WroteV s t d ∧ ElementsKept s t d tag (acting s m) ∧
        ∀ e ∈ acting s m, elemOf t d e =
          (BitVec.ofInt (cw tag) ((BitVec.ofNat 10 st.val).toInt + e * (BitVec.ofNat 7 p.val).toInt)).toNat) ∧
      (∃ t, exec (.vpid d m) s = .next t ∧ WroteV s t d ∧ ElementsKept s t d tag (acting s m) ∧
        ∀ e ∈ acting s m, elemOf t d e = e % 2 ^ cw tag))

/-- R119, R127, R167, R421: a vector word whose sources' tags do not mix, or whose VL lies beyond a register's capacity,
traps with TAG_MISMATCH and the register's number, and writes nothing. -/
def Obligations.VectorTagTraps : Prop :=
  ∀ (d a b : Fin 32) (m : Fin 8) (c : Bool) (s : State), VectorReady s → deliverable s s.g.pc →
    ((vregOf s.g a).tag = 0 → ∃ t, exec (.vadd d a b m c false) s = .next t ∧ TrapEntered s t 0x02 (BitVec.ofNat 64 a.val) s.g.pc) ∧
    (isInt (vregOf s.g a).tag = true → isFloat (vregOf s.g b).tag = true →
      ∃ t, exec (.vadd d a b m c false) s = .next t ∧ TrapEntered s t 0x02 (BitVec.ofNat 64 b.val) s.g.pc) ∧
    (isInt (vregOf s.g a).tag = true → (vregOf s.g b).tag = (vregOf s.g a).tag → (vregOf s.g d).pin = false →
      ¬ SourceFits s a →
      ∃ t, exec (.vadd d a b m c false) s = .next t ∧ TrapEntered s t 0x02 (BitVec.ofNat 64 a.val) s.g.pc)

/-- R118, R119, R126, R130, R245 to R247: vcfg sets a register's configuration word, and leaves its elements when nothing but
PIN changes; vgrant grants the lesser of the request and VLMAX, mshape clamps a tile's shape, and both give what they
grant. -/
def Obligations.ConfigForms : Prop :=
  (∀ (d a : Fin 32) (s : State), poisonedX s [a.val] = none →
     let w := (getX s a).toNat % 65536
     (w < 4096 → w / 32 % 8 = 0 → w % 32 < 29 → queueHeld s = false → boundTo s.g d = none →
       rowsWith s.g.rowMap d (rowsAsked s d w) ≤ 1024 →
       ∃ t, exec (.vcfg d a) s = .next t ∧ (vregOf t.g d).tag = w % 32 ∧ (vregOf t.g d).gf = w / 256 % 4 ∧
         (vregOf t.g d).td = w.testBit 10 ∧ (vregOf t.g d).pin = w.testBit 11 ∧
         ((vregOf s.g d).tag = w % 32 → (vregOf s.g d).gf = w / 256 % 4 → (vregOf s.g d).td = w.testBit 10 →
           d.val ∉ s.g.vPend → ∀ e, elemOf t d e = elemOf s d e) ∧
         (∀ r, r ≠ d.val → vregOf t.g r = vregOf s.g r) ∧ t.g.x = s.g.x ∧ t.g.m = s.g.m ∧ t.g.vc = s.g.vc ∧ t.pm = s.pm ∧
         Retired s t) ∧
     (4096 ≤ w ∨ w / 32 % 8 ≠ 0 ∨ 29 ≤ w % 32 → deliverable s s.g.pc →
       ∃ t, exec (.vcfg d a) s = .next t ∧ TrapEntered s t 0x01 (BitVec.ofNat 64 w) s.g.pc)) ∧
  (∀ (d a : Fin 32) (g : Fin 4) (w : Fin 6) (s : State), poisonedX s [a.val] = none →
     let vmax := lanesV s s.g * 2 ^ g.val * 512 / (match w with
       | 0 => 1
       | 1 => 4
       | 2 => 8
       | 3 => 16
       | 4 => 32
       | 5 => 64)
     let n := min (getX s a).toNat vmax
     let r := (getX s a).toNat
     let m := min (r % 65536) 512
     let k := min (r / 2 ^ 16 % 65536) 256
     let q := min (r / 2 ^ 32 % 65536) 4096
     (∃ t, exec (.vgrant d a g (w.castLE (by decide))) s = .next t ∧ Retired s t ∧
       OnlyX { s with g := { s.g with vc := { s.g.vc with vlmax := vmax, vl := n, vstart := 0, vgw := w, vgg := g } } } t d
         (BitVec.ofNat 64 n)) ∧
     (∃ t, exec (.mshape d a) s = .next t ∧ Retired s t ∧
       OnlyX { s with g := { s.g with vc := { s.g.vc with tilem := m, tilen := k, tilek := q } } } t d
         (BitVec.ofNat 64 (m + k * 2 ^ 16 + q * 2 ^ 32))))

/-- R140, R141, R262, R264 to R266: a free end of a strip queue that no other group holds, or a memory stream, is bound;
sunbind ends a binding; bse waits for the register's earlier uses and branches on its stream-end flag. -/
def Obligations.StreamForms : Prop :=
  (∀ (d : Fin 32) (q : Fin 8) (s : State), queueHeld s = false →
     (boundTo s.g d = none → (vregOf s.g d).gf % 4 = 0 →
       ((∀ x, stripOf s s.g.pl.core q = some x → x.owner = s.g.gid ∧ x.rd = none) →
         ∃ t x, exec (.sbindQR d q) s = .next t ∧ BoundStep s t d ∧ boundTo t.g d = some (.queueRead q) ∧
           stripOf t s.g.pl.core q = some x ∧ x.rd = some d.val ∧ x.owner = s.g.gid ∧
           x.entries = ((stripOf s s.g.pl.core q).map StripQ.entries).getD []) ∧
       ((∀ x, stripOf s s.g.pl.core q = some x → x.owner = s.g.gid ∧ x.wr = none) →
         ∃ t x, exec (.sbindQW d q) s = .next t ∧ BoundStep s t d ∧ boundTo t.g d = some (.queueWrite q) ∧
           stripOf t s.g.pl.core q = some x ∧ x.wr = some d.val ∧ x.owner = s.g.gid ∧
           x.entries = ((stripOf s s.g.pl.core q).map StripQ.entries).getD [])) ∧
     (∀ (a : Fin 32) (s1 : State) (pa : Nat), poisonedX s [a.val] = none → MemAt s (whoV s) kRead (getX s a) 32 pa s1 →
       Seen s (whoV s) pa 32 →
       s1.pm.linePoison (lineOf pa) = false → boundTo s.g d = none → isSplit s s.g = false →
       let tag := (vregOf s.g d).tag
       isMx tag = false → 8 ≤ cw tag → dword s pa 0 % (cw tag / 8) = 0 →
       dword s pa 2 / 2 ^ 40 % 2 ^ 22 = 0 → dword s pa 3 / 2 ^ 19 = 0 → dword s pa 3 ≠ 0 →
       ∃ t, exec (.sbindM d a) s = .next t ∧ BoundStep s t d ∧ boundTo t.g d = some (.stream
         { base := BitVec.ofNat 64 (dword s pa 0), stride := BitVec.ofNat 64 (dword s pa 1)
           spad := (dword s pa 2).testBit 63, write := (dword s pa 2).testBit 62
           count := dword s pa 2 % 2 ^ 40, chunk := dword s pa 3 } 0 [])) ∧
     (boundTo s.g d ≠ none → s.g.appends = [] →
       (∀ x, boundTo s.g d = some (.queueWrite q) → stripOf s s.g.pl.core q = some x → x.entries.length < 16) →
       (∀ r, boundTo s.g d = some (.queueWrite r) → r = q.val) →
       ∃ t, exec (.sunbind d) s = .next t ∧ BoundStep s t d ∧ boundTo t.g d = none ∧
         (∀ x, boundTo s.g d = some (.queueWrite q) → stripOf s s.g.pl.core q = some x → x.rd ≠ none →
           stripOf t s.g.pl.core q = some { x with wr := none, entries := x.entries ++ [.endMark] }) ∧
         (∀ x, boundTo s.g d = some (.queueRead q) → stripOf s s.g.pl.core q = some x → x.wr ≠ none →
           stripOf t s.g.pl.core q = some { x with rd := none })) ∧
     (boundTo s.g d = none → deliverable s s.g.pc →
       ∃ t, exec (.sunbind d) s = .next t ∧ TrapEntered s t 0x0E (BitVec.ofNat 64 d.val) s.g.pc)) ∧
  (∀ (d : Fin 32) (o : Fin 8192) (s : State),
     (pendingUse s d = true → exec (.bse d o) s = .next { s with stalled := true }) ∧
     (pendingUse s d = false →
       (d.val ∉ s.g.streamEnd → ∃ t, exec (.bse d o) s = .next t ∧ OnlyControl s t ∧ Retired s t) ∧
       (d.val ∈ s.g.streamEnd → inExtent s.g (s.g.pc + off13 o * 4).toNat = true →
         ∃ t, exec (.bse d o) s = .next t ∧ OnlyControl s t ∧ JumpedTo s t (s.g.pc + off13 o * 4))))

/-- R134, R265, R355, R357, R365, R406: sgrab takes tasks off a record, sspawn copies a template into a record and puts it on
its launch's list, both once what they release is performed; gexit of a quiet group with no failure held ends its bindings,
waits while an end marker has no room, and then ends the group and frees what it holds. -/
def Obligations.TasksAndExit : Prop :=
  (∀ (d a b : Fin 32) (s s1 : State) (pa : Nat),
     (1 ≤ d.val → d.val ≤ 27 → poisonedX s [a.val] = none → MemAt s (whoG s) kReadWrite (getX s a) 64 pa s1 →
       s1.pm.linePoison (lineOf pa) = false → vecAccesses s = false → (∀ i, i ≤ 4 → d.val + i ∉ s.g.xPend) →
       let remain := dword s pa 0 % 2 ^ 40
       let next := dword s pa 1 % 2 ^ 40
       let k := min s.g.vc.vl remain
       ∃ t, exec (.sgrab d a) s = .next t ∧ Retired s t ∧ Acquired t ∧
         getX t d = BitVec.ofNat 64 (k + if remain = k then 2 ^ 63 else 0) ∧
         (∀ i, i < 4 → getX t (d + 1 + i) = BitVec.ofNat 64 (dword s pa (2 + i)) + BitVec.ofNat 64 next *
           (BitVec.ofNat 32 (dword s pa (6 + i / 2) / 2 ^ (32 * (i % 2)))).signExtend 64) ∧
         (∀ r, r < d.val ∨ d.val + 4 < r → getX t r = getX s r) ∧
         dword t pa 0 = dword s pa 0 - k ∧ dword t pa 1 = dword s pa 1 / 2 ^ 40 * 2 ^ 40 + (next + k) % 2 ^ 40 ∧
         MemoryKeptBut s t pa 16 ∧ t.g.v = s.g.v ∧ t.g.vc = s.g.vc) ∧
     (∀ (s2 : State) (pb : Nat) (l : Launch), poisonedX s [a.val, b.val] = none → s.g.waits.sspawn = false →
       (getX s a).toNat % 64 = 0 → MemAt s (whoG s) kRead (getX s b) 64 pa s1 →
       MemAt s1 (whoG s) kWrite (getX s a) 64 pb s2 → Undisturbed s pb 64 → Seen s (whoG s) pa 64 →
       vecAccesses s = false → s2.pm.linePoison (lineOf pa) = false →
       findLaunch s s.g.launch = some l → 0 < l.spawnGrp → l.tasks.length < 256 →
       ∃ t, exec (.sspawn a b) s = .next t ∧ Retired s t ∧ (∀ i, i < 8 → dword t pb i = dword s pa i) ∧
         MemoryKeptBut s t pb 64 ∧ t.g.x = s.g.x ∧
         findLaunch t s.g.launch = some { l with tasks := l.tasks ++ [getX s a] })) ∧
  (∀ (s : State), tabWf s.cores = true → queueDrained s = true → s.g.vps = [] → enginesIdle s = true →
     (∀ k, k < 8 → (tokOf s k).fail = none) →
     let u := unbindAll s ((List.range 32).filter (fun r => (boundTo s.g r).isSome))
     (u.g.appends ≠ [] → exec .gexit s = .next { u with stalled := true }) ∧
     (u.g.appends = [] → ∃ t, exec .gexit s = .next t ∧ t.g.live = false ∧ t.g.binds = [] ∧ t.g.retired = s.g.retired + 1 ∧ ownedSections t t.g = [] ∧
       (∀ r ∈ t.eng.regions, r.gid ≠ s.g.gid) ∧ (∀ q ∈ t.eng.strips, q.owner ≠ s.g.gid) ∧
       (∀ m ∈ t.eng.mats, m.gid ≠ s.g.gid) ∧
       (∀ l, findLaunch s s.g.launch = some l → ∃ l', findLaunch t s.g.launch = some l' ∧ l'.exited = l.exited + 1)))

/-- R178, R249, R251, R255 to R257: a vector load reads each active element at its own address into its register (an older
value only where a write of another stream of its group stands unordered); a consuming form, which finds every byte as it
is, takes one count of every line or block that it reads; a fault-first form stops short of its first failing element. -/
def Obligations.VectorLoad : Prop :=
  (∀ (i : Instr) (f : VMemForm) (cons : Bool) (s s1 : State) (ls : List (Nat × PLoc)),
     vloadForm i = some (f, cons) → VMemFits s f → DestFits s f.d (vregOf s.g f.d).tag →
     Found s f (if cons then kReadWrite else kRead) ls s1 →
     (∀ q ∈ ls, PlaceOk s (memBytes (vregOf s.g f.d).tag) q.2 ∧ PlaceClean s1 q.2) →
     (cons = true → s.ra.held = [] ∧ (∀ q ∈ ls, (unitOf s q.2).isSome = true) ∧
       ∀ u, rationed s ls u → (rationOf s1 u).st = .live ∧ (rationOf s1 u).reserved < (rationOf s1 u).count) →
     ∃ s' t, exec i s = .next t ∧ Accessed s s' ∧ WroteV s' t f.d ∧
       ElementsKept s' t f.d (vregOf s.g f.d).tag (acting s f.m) ∧
       (∀ q ∈ ls, cons = true ∨ PlaceSeen s (memBytes (vregOf s.g f.d).tag) q.2 →
         elemOf t f.d q.1 = elementAt s (vregOf s.g f.d).tag q.1 q.2 % 2 ^ vw (vregOf s.g f.d).tag) ∧
       ls.map (·.1) = acting s f.m ∧
       (cons = false → BytesKeptBut s t [] 0) ∧
       (cons = true → ∀ u, rationed s ls u → countTaken (rationOf s1 u) (rationOf t u))) ∧
  (∀ (d a : Fin 32) (m : Fin 8) (c : Bool) (s s1 : State) (ls : List (Nat × PLoc)) (e : Nat) (x : EFail),
     let f := VMemForm.ofUnit d a m false
     let tag := (vregOf s.g d).tag
     VMemFits s f → DestFits s d tag →
     probe s (fun e => whoE s (ctxG s) d e false) kRead (memBytes tag) (memBytes tag) false
       ((acting s m).map (fun e => ⟨e, f.loc s e, none⟩)) = (ls, some (e, x), s1) →
     ls ≠ [] → (∀ q ∈ ls, PlaceOk s (memBytes tag) q.2 ∧ PlaceClean s1 q.2) →
     ∃ t, exec (.vldFf d a m c) s = .next t ∧ t.g.vc.vl = e ∧ t.g.vc.vstart = 0 ∧ Retired s t ∧
       (∀ q ∈ ls, q.1 < e ∧ (PlaceSeen s (memBytes tag) q.2 →
         elemOf t d q.1 = elementAt s tag q.1 q.2 % 2 ^ vw tag)) ∧
       (∀ r, r ≠ d.val → vregOf t.g r = vregOf s.g r) ∧ t.g.x = s.g.x ∧ BytesKeptBut s t [] 0)

/-- R249, R259: a vector store writes each active element at its own address, and no other byte; where elements meet, the
last one stands unless the form is unordered. -/
def Obligations.VectorStore : Prop :=
  ∀ (i : Instr) (f : VMemForm) (free : Bool) (s s1 : State) (ls : List (Nat × PLoc)),
    vstoreForm i = some (f, free) → VMemFits s f → Found s f kWrite ls s1 →
    (∀ q ∈ ls, PlaceOk s (memBytes (vregOf s.g f.d).tag) q.2) →
    let tag := (vregOf s.g f.d).tag
    ∃ s' t, exec i s = .next t ∧ Accessed s s' ∧ VectorRest s' t ∧ t.g.v = s.g.v ∧ t.g.m = s.g.m ∧ Retired s t ∧
      ls.map (·.1) = acting s f.m ∧ BytesKeptBut s t ls (memBytes tag) ∧
      (∀ q ∈ ls, (∀ x ∈ ls, x.2 = q.2 → x.1 * cw tag % 8 = q.1 * cw tag % 8 → x.1 ≠ q.1 → free = false ∧ x.1 < q.1) →
        elementAt t tag q.1 q.2 = elemOf s f.d q.1 % 2 ^ cw tag)

/-- R154, R188, R258: a segment load reads the slots of the blocks that hold an active element: the active elements, zero for the
others of the block, and the scale; a segment store writes such slots, and no other byte. -/
def Obligations.VectorSegments : Prop :=
  ∀ (d a : Fin 32) (m : Fin 8) (c : Bool) (s s1 : State) (ls : List (Nat × PLoc)),
    let tag := (vregOf s.g d).tag
    let sz := if cw tag = 4 then 32 else 64
    let slots (kind : Nat) : Prop := probe s (fun e => whoE s (ctxG s) d e false) kind sz sz false
      ((blocksOf (acting s m)).map (fun j => ⟨32 * j, .va (getX s a + BitVec.ofNat 64 (j * sz)).toNat, none⟩)) =
        (ls, none, s1)
    VectorReady s → Memory.wf s.pm = true → isMx tag = true → SourceFits s d → poisonedX s [a.val] = none →
    (getX s a).toNat % sz = 0 → (∀ q ∈ ls, PlaceOk s sz q.2) →
    (DestFits s d tag → slots kRead → (∀ q ∈ ls, PlaceClean s1 q.2) →
      ∃ s' t, exec (.vldSeg d a m c) s = .next t ∧ Accessed s s' ∧ WroteV s' t d ∧ BytesKeptBut s t [] 0 ∧
        ∀ q ∈ ls, PlaceSeen s sz q.2 → (vregOf t.g d).scale (q.1 / 32) = contents s q.2 sz / 2 ^ (32 * cw tag) % 256 ∧
          ∀ i, i < 32 → (vregOf s.g d).td = false ∨ q.1 + i < s.g.vc.vl →
            elemOf t d (q.1 + i) = if q.1 + i ∈ acting s m then
              contents s q.2 sz / 2 ^ (i * cw tag) % 2 ^ cw tag % 2 ^ vw tag else 0) ∧
    (slots kWrite →
      ∃ s' t, exec (.vstSeg d a m c) s = .next t ∧ Accessed s s' ∧ VectorRest s' t ∧ t.g.v = s.g.v ∧ t.g.m = s.g.m ∧
        Retired s t ∧ BytesKeptBut s t ls sz ∧
        ∀ q ∈ ls, Alone ls q → contents t q.2 sz = slotPattern s d m q.1 % 256 ^ sz)

/-- R49 to R51, R182, R237, R260, R261: a vector atomic gives each element the old value at its address and leaves the new
one, an acquiring one ordering what follows; a scatter-add leaves the sum at a line that its slice holds, and otherwise a waiting addition. -/
def Obligations.VectorAtomics : Prop :=
  ∀ (s s1 : State) (ls : List (Nat × PLoc)), VectorReady s → Memory.wf s.pm = true →
    (∀ i v a m op, vamoForms i = some (v, a, m, op) → v < 32 →
      let tag := (vregOf s.g v).tag
      let n := cw tag / 8
      isInt tag = true → 32 ≤ cw tag → holdsAddresses s a → DestFits s v tag →
      probe s (byLane s v) kReadWrite n n true (addressed s a m) = (ls, none, s1) →
      (∀ q ∈ ls, PlaceOk s n q.2 ∧ PlaceClean s1 q.2) →
      ∃ s' s'' t, exec i s = .next t ∧ Accessed s s' ∧ Reordered s' s'' ∧ WroteV s'' t v ∧
        ElementsKept s'' t v tag (acting s m) ∧ BytesKeptBut s t ls n ∧
        ((vamoOrder i).1 % 2 = 1 → Acquired t) ∧
        (2 ≤ (vamoOrder i).1 → 4 ≤ (vamoOrder i).2 → ∀ r ∈ t.pm.stale, r.shown = true) ∧
        ∀ q ∈ ls, Alone ls q → elemOf t v q.1 = contents s q.2 n ∧
          contents t q.2 n = (op (isSigned tag) (cw tag) (BitVec.ofNat _ (contents s q.2 n))
            (BitVec.ofNat _ (elemOf s v q.1))).toNat) ∧
    (∀ (v a : Fin 32) (m : Fin 8) (c : Bool) (i : Instr), (i = .samo v a m c ∨ i = .samoO v a m c) →
      let tag := (vregOf s.g v).tag
      let n := cw tag / 8
      millTag tag = true → SourceFits s v → holdsAddresses s a →
      probe s (byLane s v) kReadWrite n n true (addressed s a m) = (ls, none, s1) →
      (∀ q ∈ ls, PlaceOk s n q.2) →
      ∃ s' t, exec i s = .next t ∧ Accessed s s' ∧ VectorRest s' t ∧ t.g.v = s.g.v ∧ t.g.m = s.g.m ∧ Retired s t ∧
        BytesKeptBut s t ls n ∧
        ∀ e pa, (e, PLoc.pa pa) ∈ ls →
          (s1.pm.present (lineOf pa) = false →
            additionOf (byLane s v e) pa tag s.g.vc.fmode (elemOf s v e % 2 ^ cw tag) false ∈ t.chains) ∧
          (s1.pm.present (lineOf pa) = true → Alone ls (e, .pa pa) →
            t.pm.word pa n = (if isInt tag then (s.pm.word pa n + elemOf s v e) % 2 ^ cw tag
              else millSum tag s.g.vc.fmode (s.pm.word pa n) (elemOf s v e % 2 ^ cw tag) % 2 ^ cw tag)))

/-- R41, R271, R272: a vector future wait whose words are all full takes their values and clears the mask bits; one that
finds an empty word sends its requests and holds the queue; a vector fill writes its words and makes them full. -/
def Obligations.VectorFutures : Prop :=
  ∀ (s s1 : State) (ls : List (Nat × PLoc)), VectorReady s → Memory.wf s.pm = true →
    (∀ (d x : Fin 32) (u m : Fin 8) (i : Instr), (i = .fldv d x u m ∨ i = .fldvX d x u m) →
      let tag := (vregOf s.g d).tag
      holdsAddresses s d → DestFits s d tag → poisonedX s [x.val] = none → s.g.fldv = none →
      (∀ f ∈ s.futs, ∀ e, f.who ≠ .elem s.g.gid e) →
      probeWith (chkFuture kRead) s (byLane s d) true (addressed s d m) = (ls, none, s1) →
      (∀ q ∈ ls, PlaceOk s 8 q.2 ∧ PlaceClean s1 q.2) →
      (∀ e pa, (e, PLoc.pa pa) ∈ ls → s.pm.isFull (pa / 8) = true) →
      ∃ t, exec i s = .next t ∧ Retired s t ∧ t.g.fldv = none ∧ t.g.vc.vstart = 0 ∧ t.g.x = s.g.x ∧ t.futs = s.futs ∧
        (∀ q ∈ ls, elemOf t d q.1 = contents s q.2 8) ∧ ls.map (·.1) = acting s m ∧
        (∀ r, r ≠ d.val → vregOf t.g r = vregOf s.g r) ∧
        (u.val ≠ 0 → u.val ∉ s.g.mPend → ∀ e, s.g.vc.vstart ≤ e → e < s.g.vc.vl → maskBit t.g u e = false) ∧
        (∀ r, r ≠ u.val → mregOf t.g r = mregOf s.g r) ∧ BytesKeptBut s t [] 0) ∧
    (∀ (d x : Fin 32) (u m : Fin 8) (i : Instr) (ext : Bool), (if ext then i = .fldvX d x u m else i = .fldv d x u m) →
      let tag := (vregOf s.g d).tag
      holdsAddresses s d → DestFits s d tag → poisonedX s [x.val] = none → s.g.fldv = none →
      (∀ f ∈ s.futs, ∀ e, f.who ≠ .elem s.g.gid e) →
      probeWith (chkFuture kRead) s (byLane s d) true (addressed s d m) = (ls, none, s1) →
      (∀ q ∈ ls, PlaceOk s 8 q.2) → (∃ e pa, (e, PLoc.pa pa) ∈ ls ∧ s.pm.isFull (pa / 8) = false) →
      ∃ t r, exec i s = .next t ∧ Retired s t ∧ t.g.fldv = some r ∧ r.d = d ∧ r.u = u ∧ r.act = acting s m ∧
        r.timed = (getX s x != 0) ∧ t.g.external = ext ∧ t.g.v = s.g.v ∧ t.g.m = s.g.m ∧ t.g.x = s.g.x ∧
        (∀ e ∈ acting s m, (futOf t (.elem s.g.gid e)).isSome = true) ∧ queueHeld t = true ∧ BytesKeptBut s t [] 0) ∧
    (∀ (v a : Fin 32) (m : Fin 8), cw (vregOf s.g v).tag = 64 → SourceFits s v → holdsAddresses s a →
      probeWith (chkFuture kWrite) s (byLane s v) true (addressed s a m) = (ls, none, s1) →
      (∀ q ∈ ls, PlaceOk s 8 q.2) →
      ∃ t, exec (.vffill v a m) s = .next t ∧ Retired s t ∧ t.g.v = s.g.v ∧ t.g.m = s.g.m ∧ t.g.x = s.g.x ∧
        BytesKeptBut s t ls 8 ∧
        (∀ q ∈ ls, Alone ls q → contents t q.2 8 = elemOf s v q.1 % 2 ^ 64) ∧
        ((∀ f ∈ s.futs, ∀ sl, f.st ≠ .deferred sl) → ∀ e pa, (e, PLoc.pa pa) ∈ ls → t.pm.isFull (pa / 8) = true))

/-- R44, R45, R47, R48, R109, R276 to R278: rdecl makes every unnamed line or block of its range live under one entry; rclose
retires once the close of its scope has ended; rchk gives a ration state. -/
def Obligations.RationForms : Prop :=
  (∀ (a c : Fin 32) (s s1 s2 : State) (pa idx : Nat) (ls : List PLoc), poisonedX s [a.val] = none →
     c.val ∉ s.g.xPend → s.g.pl.det = false → s.g.waits.rdecl = none → MemAt s (whoG s) kRead (getX s a) 32 pa s1 →
     Seen s1 (whoG s) pa 32 →
     s1.pm.linePoison (lineOf pa) = false →
     let base := dword s pa 0
     let w1 := dword s pa 1
     let k := dword s pa 2
     let u := if w1.testBit 63 then 4096 else 128
     w1 / 2 ^ 40 % 2 ^ 23 = 0 → 0 < k → k < 256 → dword s pa 3 = 0 → w1 % 2 ^ 40 ≠ 0 → base % u = 0 → w1 % 2 ^ 40 % u = 0 →
     declUnits (sliceRead s1 pa 32).2.2 (w1.testBit 63) base (w1 % 2 ^ 40) = (.ok ls, s2) →
     let core := match ls with
       | .sp q _ :: _ => q
       | _ => s.g.pl.core
     let units := ls.filterMap (unitOf s2)
     let scope := if w1.testBit 63 && base.testBit 21 then clusterScope s.g.pl.origin else teamScope s.g.pl.core s.g.pl.team
     ls ≠ [] → (∀ l ∈ ls, (unitOf s2 l).isSome = true) → units.Nodup → freeEntry s2 core = some idx →
     (∀ r ∈ units, (rationOf s2 r).st ≠ .live) →
     (∀ l, RUnit.line l ∈ units → liveInSet s2 l + units.length ≤ quota s2 l) → s2.ra.held = [] →
     ∃ t, exec (.rdecl a c) s = .next t ∧ Retired s t ∧
       getX t c = (if c.val = 0 then 0 else BitVec.ofNat 64 units.length) ∧ (∀ r, r ≠ c.val → getX t r = getX s r) ∧
       (∀ r ∈ units, rationOf t r = ⟨.live, k, 0, scope, idx⟩) ∧
       (∃ e, entryOf t core idx = some e ∧ e.scope = scope ∧ e.lines = units.length ∧ e.sealed = true ∧ e.notify = none) ∧
       MemoryKept s t ∧ t.g.v = s.g.v) ∧
  (∀ (s : State), s.g.pl.det = false →
     (∀ i scope, (i = .rcloseTeam ∧ scope = teamScope s.g.pl.core s.g.pl.team ∨
         i = .rcloseClu ∧ scope = clusterScope s.g.pl.origin) →
       (s.g.waits.rclose = true → (∀ c ∈ s.ra.closes, c.gid ≠ some s.g.gid) →
         ∃ t, exec i s = .next t ∧ OnlyControl s t ∧ Retired s t) ∧
       (s.g.waits.rclose = true → (∃ c ∈ s.ra.closes, c.gid = some s.g.gid) →
         exec i s = .next { s with stalled := true }) ∧
       (s.g.waits.rclose = false → queueHeld s = false →
         ∃ t c, exec i s = .next t ∧ t.stalled = true ∧ t.g.waits.rclose = true ∧ t.ra.closes = s.ra.closes ++ [c] ∧
           c.scope = scope ∧ c.gid = some s.g.gid ∧ (∀ e ∈ s.ra.entries, e.scope = scope → (e.core, e.idx) ∈ c.entries) ∧
           t.pm = s.pm ∧ t.g.x = s.g.x ∧ t.g.v = s.g.v ∧ t.g.pc = s.g.pc)) ∧
     (∀ (a : Fin 32) (p : Bool) (c : Fin 32) (s1 : State) (l : PLoc) (u : RUnit), poisonedX s [a.val] = none →
       checkLoc s (whoG s) kRead (if p then .sp (getX s a).toNat true else .va (getX s a).toNat) 1 1 = (.ok l, s1) →
       unitOf s1 l = some u → heldBack s1 u = false →
       let r := rationOf s1 u
       ∃ t, exec (.rchk a p c) s = .next t ∧ Retired s t ∧ OnlyX s1 t c (BitVec.ofNat 64 (match r.st with
         | .none => 0
         | .spent => 2 * 2 ^ 8
         | .live => r.scope * 2 ^ 16 + r.decl % 64 * 2 ^ 10 + 2 ^ 8 + r.count))))

/-- R192, R193, R321, R322, R328 to R330: a matrix form that passes its checks is issued into its token's open batch and asks
for leave; mjoin waits for its partners instead; a shape with a zero issues nothing; mfence ends nothing but is remembered. -/
def Obligations.MatrixIssue : Prop :=
  ∀ (a b : Fin 32) (y x : Bool) (z k : Fin 8) (f : Bool) (s : State),
    (poisonedX s (opRegs x y a b) = none → MatFits s 0 (opName s x a) (opName s y b) z f →
      ∃ t, exec (.mma a b y x z k f) s = .next t ∧ MatIssued s t z k .leave ∧ Retired s t ∧ t.g.vc.vstart = 0 ∧
        ∃ l ∈ t.eng.leaves, l.mat = some s.eng.nextId ∧ l.gid = s.g.gid) ∧
    (poisonedX s (opRegs true true a b) = none → MatFits s 1 (opName s true a) (opName s true b) z f →
      ∃ t, exec (.mmas a b z k f) s = .next t ∧ MatIssued s t z k .leave ∧ Retired s t ∧ t.g.vc.vstart = 0 ∧
        ∃ l ∈ t.eng.leaves, l.mat = some s.eng.nextId ∧ l.gid = s.g.gid) ∧
    (poisonedX s (opRegs true true a b) = none → (∀ o ∈ s.eng.mats, o.gid = s.g.gid → o.phase ≠ .join) →
      (MatFits s 2 (opName s true a) (opName s true b) z false →
        ∃ t, exec (.mjoin a b z k false) s = .next t ∧ MatIssued s t z k .join ∧ t.stalled = true ∧ t.g.pc = s.g.pc ∧
          t.g.retired = s.g.retired) ∧
      (queueHeld s = false → (handleOf s z).testBit 0 = true → descBad s 2 true (opName s true a) = none →
        descBad s 2 false (opName s true b) = none → (s.g.vc.tilem = 0 ∨ s.g.vc.tilen = 0 ∨ s.g.vc.tilek = 0) →
        ∃ t, exec (.mjoin a b z k f) s = .next t ∧ Retired s t ∧
          OnlyControl { s with g := { s.g with vc := { s.g.vc with vstart := 0 } } } t)) ∧
    (poisonedX s (opRegs x y a b) = none → queueHeld s = false → (handleOf s z).testBit 0 = false → deliverable s s.g.pc →
      ∃ t, exec (.mma a b y x z k f) s = .next t ∧ t.g.tr.tcause = 0x02 ∧ t.g.tr.tval = BitVec.ofNat 64 (0x80 + z) ∧
        t.g.pc = s.g.tr.handler ∧ t.eng.mats = s.eng.mats) ∧
    (queueHeld s = false →
      ∃ t, exec .mfence s = .next t ∧ Retired s t ∧ OnlyControl { s with g := { s.g with mfence := s.clock, mfAcq := s.g.acq } } t)

/-- R133, R315, R316: zset releases a handle, and claims the lowest free run of accumulator words for the tile that it is
given; zget gives the handle. -/
def Obligations.HandleForms : Prop :=
  ∀ (a : Fin 32) (z : Fin 8) (s : State),
    (∃ t, exec (.zget a z) s = .next t ∧ OnlyX s t a (BitVec.ofNat 64 (handleOf s z)) ∧ Retired s t) ∧
    (poisonedX s [a.val] = none → s.g.waits.zset = none → queueHeld s = false →
      (∀ o ∈ s.eng.mats, o.gid = s.g.gid → o.z ≠ z) → refreshWindows s = s →
      let h := (getX s a).toNat
      (h % 2 = 0 → ∃ t, exec (.zset a z) s = .next t ∧ Retired s t ∧ handleOf t z = 0 ∧ regionOf t s.g.gid z = none ∧
        (∀ j, j ≠ z.val → handleOf t j = handleOf s j ∧ regionOf t s.g.gid j = regionOf s s.g.gid j) ∧ t.g.x = s.g.x ∧
        t.g.v = s.g.v ∧ t.pm = s.pm) ∧
      (let m := h / 2 ^ 30 % 1024 + 1
       let n := h / 2 ^ 20 % 1024 + 1
       let need := (m + max 1 (coreOf s s.g.pl.core).lanemod - 1) / max 1 (coreOf s s.g.pl.core).lanemod * ((n + 15) / 16)
       let words := if h / 2 ^ 40 % 512 = 0 then need else h / 2 ^ 40 % 512
       h % 2 = 1 → h / 2 ^ 58 = 0 → h / 2 % 2 ^ 14 = 0 → (h / 2 ^ 15 % 32 = 0x0A ∨ h / 2 ^ 15 % 32 = 0x05) → m ≤ 512 → n ≤ 256 →
        need ≤ words → words ≤ 256 →
        ∀ base, freeRun (releaseRegion s z) s.g.pl.core words = some base →
        ∃ t r, exec (.zset a z) s = .next t ∧ Retired s t ∧ Claimed t z m n (h / 2 ^ 15 % 32) ∧
          handleOf t z / 2 ^ 49 = base ∧ handleOf t z / 2 ^ 40 % 512 = words ∧
          regionOf t s.g.gid z = some r ∧ r.core = s.g.pl.core ∧ r.base = base ∧ r.words = words ∧ r.elems = [] ∧
          (∀ q ∈ t.eng.regions, q ≠ r → q.core = s.g.pl.core → q.base + q.words ≤ base ∨ base + words ≤ q.base ∨ q.words = 0) ∧
          t.g.x = s.g.x ∧ t.g.v = s.g.v ∧ t.pm = s.pm))

/-- R333 to R335: mzero makes every element of a tile zero; mput converts the active elements into their places of the tile,
and mext the other way (stochastic rounding apart). -/
def Obligations.TileForms : Prop :=
  ∀ (d p : Fin 32) (z : Fin 8) (s : State) (m n t : Nat) (r : Region), queueHeld s = false → Claimed s z m n t →
    regionOf s s.g.gid z = some r → TileQuiet s z →
    (∃ u, exec (.mzero z) s = .next u ∧ Retired s u ∧ (∀ i j, tileElem u z i j = some 0) ∧ u.g.vc.vstart = 0 ∧
      (∀ j, j ≠ z.val → regionOf u s.g.gid j = regionOf s s.g.gid j) ∧ u.g.x = s.g.x ∧ u.g.v = s.g.v ∧ u.pm = s.pm) ∧
    (∀ row col width, poisonedX s [p.val] = none → VectorReady s →
      PlaceWord (getX s p).toNat s.g.vc.vl m n row col width → n ≤ 1024 →
      let tag := (vregOf s.g d).tag
      let fm := s.g.vc.fmode
      let at_ (e : Nat) : Nat × Nat := (row + e / width, col + e % width)
      (SourceFits s d →
        (t = 0x05 → isInt tag = true → ∃ u, exec (.mput d p z) s = .next u ∧ Retired s u ∧ u.g.v = s.g.v ∧ u.pm = s.pm ∧
          u.g.x = s.g.x ∧ ∀ e ∈ acting s 0, tileElem u z (at_ e).1 (at_ e).2 = some (BitVec.ofInt 32 (elemInt s d e)).toNat) ∧
        (t = 0x0A → isFloat tag = true → srGoverns fm 0x0A = false → ∃ u, exec (.mput d p z) s = .next u ∧ Retired s u ∧
          u.g.v = s.g.v ∧ u.pm = s.pm ∧ u.g.x = s.g.x ∧
          ∀ e ∈ acting s 0, tileElem u z (at_ e).1 (at_ e).2 =
            some (roundMode 0x0A (modeFor fm 0x0A) (satOf fm) fm 0 (elemVal s fm d e).ex).1)) ∧
      (DestFits s d tag → r.poison = [] →
        (t = 0x05 → isInt tag = true → ∃ u, exec (.mext d p z) s = .next u ∧ WroteV s u d ∧
          ElementsKept s u d tag (acting s 0) ∧
          ∀ e ∈ acting s 0, elemOf u d e = (BitVec.ofInt (cw tag) (intVal 0x05 (r.elem (at_ e).1 (at_ e).2))).toNat) ∧
        (t = 0x0A → isFloat tag = true → srGoverns fm tag = false → ∃ u, exec (.mext d p z) s = .next u ∧ WroteV s u d ∧
          ElementsKept s u d tag (acting s 0) ∧
          ∀ e ∈ acting s 0, elemOf u d e = (roundMode tag (modeFor fm tag) (satOf fm) fm 0
            (valOf fm 0x0A (r.elem (at_ e).1 (at_ e).2)).ex).1 % 2 ^ vw tag)))

/-- R336 to R343: sadd, smul and sdot of sparse registers of integers give sums, products and the inner product in the
operation's tag; sfromv and stov move between a vector's active elements and pairs, slen counts the pairs; sld reads pairs
that stand in order in memory, and sst writes the pairs and the descriptor's tag and length. -/
def Obligations.SparseForms : Prop :=
  (∀ (s : State), VectorReady s →
     (∀ (d a b : Fin 8) (x : Fin 32) (t : Nat), let ra := qregOf s a
       let rb := qregOf s b
       ra.tag ≠ 0 → rb.tag ≠ 0 → pairTag ra.tag rb.tag = some t → isInt t = true → ra.poison = [] → rb.poison = [] →
       (PairsFit s d t (unionCoords ra.pairs rb.pairs).length → ∃ u, exec (.sadd d a b) s = .next u ∧ WroteQ s u d ∧
         (qregOf u d).tag = t ∧ (qregOf u d).poison = [] ∧
         (∀ c, (∃ v, (c, v) ∈ (qregOf u d).pairs) ↔ (pairAt ra c).isSome = true ∨ (pairAt rb c).isSome = true) ∧
         ∀ c v, (c, v) ∈ (qregOf u d).pairs → BitVec.ofNat (cw t) v = BitVec.ofInt (cw t) (pairInt ra c + pairInt rb c)) ∧
       (PairsFit s d t (commonCoords ra rb).length → ∃ u, exec (.smul d a b) s = .next u ∧ WroteQ s u d ∧
         (qregOf u d).tag = t ∧ (qregOf u d).poison = [] ∧
         (∀ c, (∃ v, (c, v) ∈ (qregOf u d).pairs) ↔ (pairAt ra c).isSome = true ∧ (pairAt rb c).isSome = true) ∧
         ∀ c v, (c, v) ∈ (qregOf u d).pairs → BitVec.ofNat (cw t) v = BitVec.ofInt (cw t) (pairInt ra c * pairInt rb c)) ∧
       (let w : BitVec (cw t) := BitVec.ofInt (cw t)
           ((commonCoords ra rb).foldl (fun n c => n + pairInt ra c * pairInt rb c) 0)
        ∃ s' u, exec (.sdot x a b) s = .next u ∧ VectorRest s s' ∧ s'.g.v = s.g.v ∧ Retired s u ∧
         OnlyX s' u x (if isSigned t then w.signExtend 64 else w.zeroExtend 64))) ∧
     (∀ (q k : Fin 8) (x : Fin 32), let tag := (vregOf s.g x).tag
       (pairValueTag tag = true → SourceFits s x → PairsFit s q tag (acting s k).length →
         ∃ u, exec (.sfromv q x k) s = .next u ∧ WroteQ s u q ∧
           qregOf u q = ⟨tag, (acting s k).map (fun e => (e, elemOf s x e)), []⟩) ∧
       ((qregOf s q).tag ≠ 0 → isMx (qregOf s q).tag = false → (qregOf s q).poison = [] → DestFits s x (qregOf s q).tag →
         ∃ u, exec (.stov x q k) s = .next u ∧ WroteV s u x ∧ ElementsKept s u x (qregOf s q).tag (acting s k) ∧
           ∀ e ∈ acting s k, elemOf u x e = ((pairAt (qregOf s q) e).getD 0) % 2 ^ vw (qregOf s q).tag) ∧
       (∃ s' u, exec (.slen x q) s = .next u ∧ VectorRest s s' ∧ s'.g.v = s.g.v ∧ Retired s u ∧
         OnlyX s' u x (BitVec.ofNat 64 (qregOf s q).pairs.length)))) ∧
  (∀ (q : Fin 8) (a : Fin 32) (s s1 s2 s3 s4 s5 : State) (pa : Nat) (cs vs : List (Nat × Bool)), VectorReady s →
     Memory.wf s.pm = true → poisonedX s [a.val] = none → (getX s a).toNat % 32 = 0 →
     let coord := dword s pa 0
     let value := dword s pa 1
     (let w := dword s pa 2
      let tag := w / 2 ^ 16 % 32
      let len := w % 2 ^ 13
      checkLoc s (whoV s) kRead (.va (getX s a).toNat) 32 1 = (.ok (.pa pa), s1) → PlaceOk s 32 (.pa pa) →
      PlaceClean s1 (.pa pa) → PlaceSeen s1 32 (.pa pa) → dword s pa 3 = 0 → w / 2 ^ 21 = 0 → w / 2 ^ 13 % 8 = 0 → pairValueTag tag = true →
      PairsFit s q tag len → coord % 4 = 0 → value % (cw tag / 8) = 0 →
      arrayFails (sliceRead s1 pa 32).2.2 kRead coord 4 len = ([], s2) →
      arrayFails s2 kRead value (cw tag / 8) len = ([], s3) → readArray s3 coord 4 len = (cs, s4) →
      readArray s4 value (cw tag / 8) len = (vs, s5) → (∀ c ∈ cs, c.2 = false) →
      (cs.map (·.1)).Pairwise (· < ·) →
      ∃ t, exec (.sld q a) s = .next t ∧ WroteQ s5 t q ∧ Retired s t ∧ (qregOf t q).tag = tag ∧
        (qregOf t q).pairs = (cs.map (·.1)).zip (vs.map (·.1)) ∧
        ∀ i, i ∈ (qregOf t q).poison ↔ i < len ∧ (vs.getD i (0, false)).2 = true) ∧
     (let r := qregOf s q
      let len := r.pairs.length
      let size := cw r.tag / 8
      checkLoc s (whoV s) kRead (.va (getX s a).toNat) 16 1 = (.ok (.pa pa), s1) → PlaceOk s 16 (.pa pa) →
      PlaceClean s1 (.pa pa) → PlaceSeen s1 16 (.pa pa) → r.tag ≠ 0 → r.poison = [] → coord % 4 = 0 → value % size = 0 →
      arrayFails (sliceRead s1 pa 16).2.2 kWrite coord 4 len = ([], s2) →
      arrayFails s2 kWrite value size len = ([], s3) → arrayFails s3 kWrite ((getX s a).toNat + 16) 8 1 = ([], s4) →
      s5 = r.pairs.zipIdx.foldl (fun u p =>
        writeAt (writeAt u ((coord + 4 * p.2) % 2 ^ 64) 4 p.1.1) ((value + size * p.2) % 2 ^ 64) size p.1.2) s4 →
      ∃ t, exec (.sst q a) s = .next t ∧ Retired s t ∧ t.g.q = s.g.q ∧ t.g.v = s.g.v ∧ t.g.x = s.g.x ∧
        VectorRest (clearWritten (writeAt s5 ((getX s a).toNat + 16) 8 (r.tag * 2 ^ 16 + len))
          ((List.range len).flatMap (fun i => [((coord + 4 * i) % 2 ^ 64, 4), ((value + size * i) % 2 ^ 64, size)])
            ++ [((getX s a).toNat + 16, 8)])) t))

/-- R66 to R79: a read of a walk leads it one level down through a pointer, or ends it at a leaf, whose translation the
core's buffer then holds, while its walker may go to a miss that waits; an invalidation command is counted and takes its
place; the oldest completes once no walk before it and no access that used a covered translation is outstanding, and no
buffer holds a covered entry then, every other one kept. -/
def Obligations.TranslationSteps : Prop :=
  ∀ s : State,
    exec .xinvPage s = .next (XinvTaken s 0 (s.msg.asid % 65536) (s.msg.vpn % 2 ^ 45)) ∧
    exec .xinvAsid s = .next (XinvTaken s 1 (s.msg.asid % 65536) 0) ∧
    exec .xinvAll s = .next (XinvTaken s 2 0 0) ∧
    exec .xinvIgnored s = .next s ∧
    (∀ c rest, s.io.xinv = c :: rest →
      (Outstanding s c → exec .xinvComplete s = .next s) ∧
      (¬ Outstanding s c → ∃ t, exec .xinvComplete s = .next t ∧ Invalidated c s.xl t.xl ∧
        t = { s with xl := t.xl, io := { s.io with xinv := rest, xinvdone := (s.io.xinvdone + 1) % 2 ^ 32 } })) ∧
    (∀ w ent s1, WalkReads s w ent s1 →
      (bits ent 2 1 ≠ 2 → ∃ t, exec .pageWalkRead s = .next t ∧ t = { s1 with xl := t.xl } ∧
        t.xl.walks = OtherWalks s ++ [{ w with
          joined := setAdd w.joined s.msg.core, lvl := w.lvl - 1, tab := bits ent 51 12 * 4096, gran := if bits ent 2 1 = 1 then 16 else w.gran }]) ∧
      (bits ent 2 1 = 2 → bit ent 55 = false → ∃ t, exec .pageWalkRead s = .next t ∧
        t = { s1 with xl := t.xl, io := { s1.io with xinv := t.io.xinv } } ∧
        t.io.xinv = s.io.xinv.map (fun c => { c with before := c.before.filter (· ≠ walkName w) }) ∧
        (∀ k ∈ OtherWalks s, k ∈ t.xl.walks) ∧ t.xl.walks.length ≤ (OtherWalks s).length + 1 ∧
        (∀ k ∈ t.xl.walks, k ∉ OtherWalks s → (k.core, k.asid, k.va) ∈ s.xl.queue) ∧
        ∃ c e, e ∈ tabGet t.xl.ctlb (s.msg.core * 256 + coreSet w.asid s.msg.va c) [] ∧
          c = (if 1 ≤ w.lvl then 9 * w.lvl + 12 else w.gran) ∧ e.asid = w.asid ∧ e.c = c ∧ e.tag = bits w.va 56 c ∧
          e.base = bits ent 51 c * 2 ^ c ∧ e.attrs = bits ent 9 3))

/-- R7, R32, R63, R487: MEMCFG takes POUNDEN at every write and NODEID once; a write of the registers named below reaches the
register at its offset; unmasking a vector sends the messages that waited for it and leaves the others. -/
def Obligations.RegisterSteps : Prop :=
  ∀ s : State,
    (∃ t, exec .memcfgWrite s = .next t ∧ t.io.pounden = bits s.msg.val 7 0 ∧ t.io.nodeidSet = true ∧
      t.io.nodeid = (if s.io.nodeidSet then s.io.nodeid else bits s.msg.val 40 32) ∧ t.g = s.g ∧ t.others = s.others ∧
      t.sp = s.sp ∧
      (s.io.nodeidSet = true → t = { s with io := { s.io with pounden := bits s.msg.val 7 0 }, futs := t.futs })) ∧
    (∀ v, s.msg.val = v → v < 2 ^ 64 →
      (s.msg.off = 0x80 → exec .registerWrite s = .next { s with io := { s.io with astbase := bits v 51 19 } }) ∧
      (s.msg.off = 0x128 → exec .registerWrite s = .next { s with io := { s.io with hfqCons := v % 2 ^ 32 } }) ∧
      (s.msg.off = 0x300 → exec .registerWrite s = .next { s with io := { s.io with hfutval := BitVec.ofNat 64 v } }) ∧
      (s.msg.off = 0x50018 → exec .registerWrite s
        = .next { s with io := { s.io with arenaBase := bits v 51 16, arenaSize := bits v 4 0 } }) ∧
      (s.msg.off = 0x40 → exec .registerWrite s = .next { s with inputs := s.inputs ++ [(.memcfgWrite, { val := v })] }) ∧
      (s.msg.off = 0x308 → exec .registerWrite s = .next { s with inputs := s.inputs ++
        [(.hostFutureFill, { pa := bits v 51 3 * 8, val := s.io.hfutval.toNat })] })) ∧
    (s.msg.num < 64 → s.io.msix.fnMask = false →
      ∃ t, exec .msixUnmask s = .next t ∧ t = { s with io := { s.io with msix := t.io.msix } } ∧
        tabGet t.io.msix.mask s.msg.num true = false ∧ s.msg.num ∉ t.io.msix.pending ∧
        (s.msg.num ∈ s.io.msix.pending → s.msg.num ∈ t.io.msix.sent) ∧
        (∀ v, v ≠ s.msg.num → tabGet t.io.msix.mask v true = tabGet s.io.msix.mask v true ∧
          (tabGet s.io.msix.mask v true = true → (v ∈ t.io.msix.pending ↔ v ∈ s.io.msix.pending))))

/-- R31, R37 to R40, R49, R50, R59, R91, R94, R445, R489: a request at its home slice reads or changes its bytes and no
other; an addition is performed at a line that is present and waits for any other until the fill; an error poisons its
line; a scratchpad request acts at its bank; another node's request is performed once. -/
def Obligations.HomeSlices : Prop :=
  ∀ s : State,
    (AtHome s s.msg.pa s.msg.n →
      (∃ t, exec .l2Read s = .next t ∧ OnlyMemory s t ∧ MemoryKept s t ∧
        t.answer = some ⟨s.pm.word s.msg.pa s.msg.n, s.msg.n, t.pm.linePoison (lineOf s.msg.pa)⟩) ∧
      (∃ t, exec .l2Write s = .next t ∧ OnlyMemory s t ∧
        t.pm.word s.msg.pa s.msg.n = s.msg.val % 256 ^ s.msg.n ∧ MemoryKeptBut s t s.msg.pa s.msg.n)) ∧
    (∀ n, n = (if s.msg.n = 4 then 4 else 8) → s.msg.pa % n = 0 → AtHome s s.msg.pa n →
      (busRead s (whoMsg s) s.msg.pa n).2.1 = false →
      ∃ t, exec .l2Atomic s = .next t ∧ OnlyMemory s t ∧ t.answer = some ⟨s.pm.word s.msg.pa n, n, false⟩ ∧
        t.pm.word s.msg.pa n
          = atomNew s.msg.op (8 * n) (s.pm.word s.msg.pa n) (s.msg.a % 256 ^ n) (s.msg.b % 256 ^ n) % 256 ^ n ∧
        MemoryKeptBut s t s.msg.pa n) ∧
    (∀ l, s.msg.line = l → l < 2 ^ 45 → paKind s (l * 128) = .hbm → Memory.wf s.pm = true →
      (∃ t, exec .hbmFillReturn s = .next t ∧ OnlyMemory s t ∧ t.pm.present l = true ∧ MemoryKept s t ∧
        t.chains = s.chains.filter (fun c => lineOf c.pa != l)) ∧
      (s.msg.ok = true → exec .patrolScrub s = .next s) ∧
      (s.msg.ok = false → nodeOf (l * 128) = s.io.nodeid → NoDeviceQueue s → exec .patrolScrub s = .next { s with
        pm := { s.pm with poisoned := setAdd s.pm.poisoned l }
        io := { s.io with repairs := s.io.repairs ++ [.hbmRow (stackOf (l * 128)) s.msg.num] } }) ∧
      (∀ x, s.pm.line? l = some x → nodeOf (l * 128) = s.io.nodeid → NoDeviceQueue s → FirstError s l →
        s.msg.lost = .data → ∃ t, exec .errorRecovery s = .next t ∧
          t = { s with pm := t.pm, futs := t.futs, io := { s.io with errors := t.io.errors } } ∧ BytesKept s t ∧
          ⟨.l2way (sliceOf (l * 128)) (setOf (l * 128)), s.msg.num, s.cycle, true⟩ ∈ t.io.errors ∧
          (t.pm.line? l).map Line.poison = some true) ∧
      (∀ x w, s.pm.line? l = some x → nodeOf (l * 128) = s.io.nodeid → NoDeviceQueue s → FirstError s l →
        s.msg.lost = .feBit w → w < 16 → ∃ t, exec .errorRecovery s = .next t ∧
          t = { s with pm := t.pm, futs := t.futs, io := { s.io with errors := t.io.errors } } ∧ BytesKept s t ∧
          (t.pm.line? l).map Line.poison = some true ∧ t.pm.isFull (l * 16 + w) = true ∧
          ∀ f ∈ t.futs, f.pa = l * 128 + w * 8 → ∀ sl i, f.st ≠ .parked sl i ∧ f.st ≠ .deferred sl)) ∧
    (∀ pa n a, s.msg.pa = pa → millTag s.msg.tag = true → n = cw s.msg.tag / 8 → pa % n = 0 → pa < 2 ^ 52 →
      paKind s pa = .hbm ∨ paKind s pa = .host → a = s.msg.val % 256 ^ n →
      (s.pm.present (lineOf pa) = false → ∃ t c, exec .millAddition s = .next t ∧ OnlyMemory s t ∧ t.pm = s.pm ∧
        t.chains = s.chains ++ [c] ∧ c.pa = pa ∧ c.tag = s.msg.tag ∧ c.fmode = s.msg.fmode ∧ c.addend = a ∧
        c.poison = !s.msg.ok) ∧
      (s.pm.present (lineOf pa) = true → AtHome s pa n →
        ∃ t, exec .millAddition s = .next t ∧ OnlyMemory s t ∧ MemoryKeptBut s t pa n ∧
          t.pm.word pa n = millSum s.msg.tag s.msg.fmode (s.pm.word pa n) a % 256 ^ n)) ∧
    (∀ g n core off, findGroup s s.msg.gid = some g → n = max 1 (min s.msg.n 64) → s.msg.va % n = 0 →
      spLocate s g s.msg.va n = some (core, off) → tabWf s.sp.cells = true →
      (s.msg.wr = false → ∃ t, exec .scratchpadRemoteAccess s = .next t ∧ t.sp = s.sp ∧ t.pm = s.pm ∧
        t.answer = some ⟨s.sp.word core off n, n, s.sp.poison.contains (spWordKey core off)⟩) ∧
      (s.msg.wr = true → ∃ t, exec .scratchpadRemoteAccess s = .next t ∧ t.pm = s.pm ∧
        t.sp.word core off n = s.msg.val % 256 ^ n ∧
        ∀ k, (k < spKey core off ∨ spKey core off + n ≤ k) → tabGet t.sp.cells k 0 = tabGet s.sp.cells k 0)) ∧
    (∀ pa n, (portOf s s.msg.port).up = true → isDuplicate s s.msg.src s.msg.seq = false → AtHome s pa n →
      nodeOf pa = s.io.nodeid → paKind s pa = .hbm →
      (s.msg.req = .read pa n → ∃ t, exec .krovinoRequestArrival s = .next t ∧ MemoryKept s t ∧ t.g = s.g ∧
        s.msg.seq % 2 ^ 32 ∈ seqsOf t s.msg.src ∧
        t.answer = some ⟨s.pm.word pa n, n, t.pm.linePoison (lineOf pa)⟩) ∧
      (∀ v, s.msg.req = .write pa n v → ∃ t, exec .krovinoRequestArrival s = .next t ∧ t.g = s.g ∧
        s.msg.seq % 2 ^ 32 ∈ seqsOf t s.msg.src ∧
        t.pm.word pa n = v % 256 ^ n ∧ MemoryKeptBut s t pa n)) ∧
    ((portOf s s.msg.port).up = true → isDuplicate s s.msg.src s.msg.seq = true →
      exec .krovinoRequestArrival s = .next (unbuffer s s.msg.port (s.msg.num % 8)))

/-- R30, R61, R484 to R486: a host read gives the half line's bytes and leaves the host a shared or exclusive copy; a host
write changes its bytes; a back-invalidation ends the copy, its changed bytes merged; a snoop writes the line back, and
takes it away or leaves it shared, and a front end gives up its tail line; a fill brings a line of the window; the host's fill of a future makes the word full. -/
def Obligations.HostAccess : Prop :=
  ∀ s : State, Memory.wf s.pm = true →
    (∀ h, s.msg.half = h → h < 2 ^ 46 → ownHalf s h = true → Undisturbed s (h * 64) 64 →
      (hostReady s = true → ∀ i v, i = Instr.hostSharedRead ∧ v = 1 ∨ i = Instr.hostExclusiveRead ∧ v = 2 →
        ∃ t, exec i s = .next t ∧ OnlyMemory s t ∧ BytesKept s t ∧
          t.answer = some ⟨s.pm.word (h * 64) 64, 64, t.pm.linePoison (h / 2)⟩ ∧
          (t.pm.line? (h / 2)).map (fun x => halfState x.outside h) = some v) ∧
      (∀ x, s.pm.line? (h / 2) = some x → halfState x.outside h ≠ 0 →
        ∃ t, exec .backInvalidateResponse s = .next t ∧ OnlyMemory s t ∧
          (t.pm.line? (h / 2)).map (fun x => halfState x.outside h) = some 0 ∧
          (halfState x.outside h ≠ 2 → BytesKept s t) ∧
          (∀ i b, halfState x.outside h = 2 → s.msg.bytes = [(i, b)] → i < 64 →
            t.pm.byte (h * 64 + i) = BitVec.ofNat 8 b ∧
            ∀ a, a ≠ h * 64 + i → t.pm.byte a = s.pm.byte a))) ∧
    (∀ pa n, s.msg.pa = pa → s.msg.n = n → AtHome s pa n → pa % 64 + n ≤ 64 → ownHalf s (pa / 64) = true →
      hostReady s = true →
      ∃ t, exec .hostWrite s = .next t ∧ OnlyMemory s t ∧ t.pm.word pa n = s.msg.val % 256 ^ n ∧
        t.answer = some ⟨0, 0, false⟩ ∧
        (∀ a, (a < pa ∨ pa + n ≤ a) → t.pm.byte a = s.pm.byte a) ∧
        (s.msg.wr = true → ∀ x, t.pm.line? (lineOf pa) = some x → halfState x.outside (pa / 64) ≠ 2)) ∧
    (∀ l x, s.msg.line = l → l < 2 ^ 45 → hostReady s = true → holdsHost s l = true → s.pm.line? l = some x →
      (x.ration.st = .none → ∃ t, exec .hostSnpInv s = .next t ∧ LineGiven s t l ∧ BytesKept s t ∧
        t.pm.line? l = none ∧ ∀ a, lineOf a = l → tabGet? t.pm.dirty a = none) ∧
      (x.ration.st = .live → ∃ t, exec .hostSnpInv s = .next t ∧ LineGiven s t l ∧ BytesKept s t ∧
        t.pm.line? l = some { x with outside := 0 }) ∧
      (∃ t, exec .hostSnpData s = .next t ∧ LineGiven s t l ∧ BytesKept s t ∧
        t.pm.line? l = some { x with outside := 5 } ∧ ∀ a, lineOf a = l → tabGet? t.pm.dirty a = none)) ∧
    (∀ l, s.msg.line = l → l < 2 ^ 45 → hostReady s = true → paKind s (l * 128) = .host →
      ∃ t x, exec .hostWindowFillReturn s = .next t ∧ OnlyMemory s t ∧ t.pm.line? l = some x ∧
        (x.outside = 5 ∨ x.outside = 15) ∧ (s.msg.wr = true → x.outside = 15) ∧
        t.chains = s.chains.filter (fun c => lineOf c.pa != l)) ∧
    (∀ pa, s.msg.pa = pa → pa % 8 = 0 → AtHome s pa 8 → nodeOf pa = s.io.nodeid → paKind s pa = .hbm →
      ∃ t, exec .hostFutureFill s = .next t ∧ t.io = { s.io with hfutdone := (s.io.hfutdone + 1) % 2 ^ 32 } ∧
        t.pm.word pa 8 = s.msg.val % 2 ^ 64 ∧ MemoryKeptBut s t pa 8 ∧ BitsKept s t pa ∧
        ((∀ f ∈ s.futs, f.pa = pa → ∀ sl, f.st ≠ .deferred sl) → t.pm.isFull (pa / 8) = true)) ∧
    (s.msg.pa < 2 ^ 52 → s.msg.pa % 8 = 0 → nodeOf s.msg.pa ≠ s.io.nodeid → NoDeviceQueue s →
      exec .hostFutureFill s = .next s)

/-- R42 to R48, R108, R109: a count is reserved where one is to be had; the last commit leaves the line or block Spent and
sends its event; a declaration makes a line live, adds to its own scope's count, or waits for room or behind one of its line
that waits; an event counts down
its entry, which ends at zero; a scan returns a scope's blocks and lines to none; a close ends its entries. -/
def Obligations.RationSteps : Prop :=
  ∀ s : State,
    (∀ u r, u = msgUnit s → r = rationOf s u →
      (r.st = .live → r.reserved < r.count → ∃ t, exec .consumingReadReserve s = .next t ∧ OnlyRations s t ∧
        rationOf t u = { r with reserved := r.reserved + 1 } ∧ t.answer = some ⟨1, 1, false⟩ ∧ BytesKept s t) ∧
      (¬ (r.st = .live ∧ r.reserved < r.count) →
        exec .consumingReadReserve s = .next { s with answer := some ⟨0, 1, false⟩ }) ∧
      (r.st = .live → 0 < r.reserved → 1 < r.count → ∃ t, exec .consumingReadCommit s = .next t ∧ OnlyRations s t ∧
        rationOf t u = { r with count := r.count - 1, reserved := r.reserved - 1 } ∧ BytesKept s t) ∧
      (r.st = .live → 0 < r.reserved → r.count ≤ 1 → RationForm s → ∃ t, exec .consumingReadCommit s = .next t ∧
        OnlyRations s t ∧ (rationOf t u).st = .spent ∧ (rationOf t u).count = 0 ∧
        t.ra.events = s.ra.events ++ [((match u with | .line _ => r.scope / 16 % 256 | .block k => k / 512), r.decl)] ∧
        ∀ l, u = .line l → ∀ a, lineOf a = l → tabGet? t.pm.dirty a = none)) ∧
    (∀ l k r, s.msg.line = l → s.msg.count = k → r = rationOf s (.line l) → 0 < k → k < 256 →
      paKind s (l * 128) = .hbm ∨ paKind s (l * 128) = .host →
      (r.st = .live → r.scope = s.msg.scope → r.count + k ≤ 255 → NoneHeld s l → ∃ t, exec .rationDeclaration s = .next t ∧
        OnlyRations s t ∧ rationOf t (.line l) = { r with count := r.count + k } ∧ BytesKept s t) ∧
      ((r.st ≠ .live ∧ quota s l ≤ liveInSet s l) ∨ ¬ NoneHeld s l → exec .rationDeclaration s = .next { s with ra := { s.ra with
        held := s.ra.held ++ [⟨l, k, s.msg.scope, s.msg.decl, s.msg.scope / 16 % 256⟩] } }) ∧
      (r.st ≠ .live → liveInSet s l < quota s l → NoneHeld s l → Memory.wf s.pm = true → ∃ t, exec .rationDeclaration s = .next t ∧
        rationOf t (.line l) = ⟨.live, k, 0, s.msg.scope, s.msg.decl⟩ ∧ MemoryKept s t ∧ t.g = s.g ∧
        ∀ e, entryOf s (s.msg.scope / 16 % 256) s.msg.decl = some e →
          entryOf t (s.msg.scope / 16 % 256) s.msg.decl = some { e with lines := e.lines + 1, made := e.made + 1 })) ∧
    (∀ core idx rest e, takeNth s.ra.events s.msg.idx = some ((core, idx), rest) → entryOf s core idx = some e →
      (1 < e.lines → ∃ t, exec .lineSpentEvent s = .next t ∧ t = { s with ra := t.ra, sent := t.sent } ∧ t.ra.events = rest ∧
        entryOf t core idx = some { e with lines := e.lines - 1 }) ∧
      (e.lines = 1 → e.sealed = true → e.notify = none → ∃ t, exec .lineSpentEvent s = .next t ∧
        t = { s with ra := t.ra, sent := t.sent } ∧ t.ra.events = rest ∧ entryOf t core idx = none) ∧
      (∀ pa, e.lines = 1 → e.sealed = true → e.notify = some pa → FutureHome s pa →
        ∃ t, exec .lineSpentEvent s = .next t ∧ t.ra.events = rest ∧ entryOf t core idx = none ∧
          t.pm.word pa 8 = 1 ∧ MemoryKeptBut s t pa 8)) ∧
    (∀ u c, s.msg.unit = u → RationForm s → NoQueueFor s c.launch →
      s.ra.closes.find? (fun c => if u < 256 then c.slices.contains u else c.cores.contains (u - 256)) = some c →
      (256 ≤ u → u < 512 → ∃ t, exec .scopeCloseScan s = .next t ∧ OnlyRations s t ∧ BytesKept s t ∧
        (∀ kv ∈ s.ra.blocks, kv.1 / 512 = u - 256 → closesUnit s c (u - 256) kv.2 = true →
          rationOf t (.block kv.1) = RationRec.reset) ∧
        (∀ k, k / 512 ≠ u - 256 → rationOf t (.block k) = rationOf s (.block k)) ∧
        ∃ c' ∈ t.ra.closes, c' = { c with cores := setDel c.cores (u - 256) }) ∧
      (u < 256 → ∃ t, exec .scopeCloseScan s = .next t ∧ OnlyRations s t ∧ BytesKept s t ∧
        (∀ x ∈ s.pm.lines, sliceOf (x.addr * 128) = u → closesUnit s c (c.scope / 16 % 256) x.ration = true →
          rationOf t (.line x.addr) = RationRec.reset) ∧
        (∀ l, sliceOf (l * 128) ≠ u → rationOf t (.line l) = rationOf s (.line l)) ∧
        ∃ c' ∈ t.ra.closes, c' = { c with slices := setDel c.slices u })) ∧
    (∀ c, s.ra.closes.find? (fun c => decide (c.slices = []) && decide (c.cores = [])) = some c →
      ∃ t, exec .scopeCloseAck s = .next t ∧ t.g = s.g ∧ t.ra.closes.length + 1 = s.ra.closes.length ∧
        ∀ e ∈ c.entries, entryOf t e.1 e.2 = none)

/-- R53 to R57, R267, R268, R271: a future load at its home is answered from a full word or waits; a fill answers who
waits; a wake-up or a deferred answer gives its waiter the value, and an emptying waiter that wakes tries again; a refusal
begins a backoff, after which the load arrives again and is counted; a timeout ends a wait. -/
def Obligations.FutureSteps : Prop :=
  ∀ s : State,
    (∀ pa, s.msg.pa = pa → FutureHome s pa →
      ((sliceRead s pa 8).2.1 = false → ∃ t, exec .futureLoadArrival s = .next t ∧ MemoryKept s t ∧ BitsKept s t pa ∧
        t.g = s.g ∧ Arrived s t s.msg.who pa s.msg.emptying) ∧
      (∃ t, exec .futureFillArrival s = .next t ∧ t.g = s.g ∧ t.pm.word pa 8 = s.msg.val % 2 ^ 64 ∧
        MemoryKeptBut s t pa 8 ∧ BitsKept s t pa ∧
        (∀ f ∈ s.futs, f.pa = pa → (∃ sl i, f.st = .parked sl i) →
          { f with st := .waking (BitVec.ofNat 64 s.msg.val) (t.pm.linePoison (lineOf pa)) } ∈ t.futs) ∧
        ((∀ f ∈ s.futs, f.pa = pa → ∀ sl, f.st ≠ .deferred sl) → t.pm.isFull (pa / 8) = true))) ∧
    (∀ w f, s.msg.who = w → PlainWaiter w → futOf s w = some f →
      (∀ v bad, f.st = .waking v bad → f.emptying = false → ∃ t, exec .poundWakeup s = .next t ∧
        t = { s with futs := t.futs, sent := t.sent } ∧ futOf t w = some { f with st := .answered v bad }) ∧
      (∀ v bad, f.st = .waking v bad → f.emptying = true → FutureHome s f.pa → (sliceRead s f.pa 8).2.1 = false →
        ∃ t, exec .poundWakeup s = .next t ∧ MemoryKept s t ∧ BitsKept s t f.pa ∧ t.g = s.g ∧
          Arrived s t w f.pa true) ∧
      (∀ v bad, f.st = .answering v bad → ∃ t, exec .deferredAnswer s = .next t ∧
        t = { s with futs := t.futs, sent := t.sent } ∧ futOf t w = some { f with st := .answered v bad }) ∧
      (f.st = .nacked → ∃ t, exec .futureNack s = .next t ∧ t = { s with futs := t.futs } ∧
        futOf t w = some { f with st := .backoff }) ∧
      (f.st = .backoff → waiterGid w = some s.g.gid → s.g.live = true → FutureHome s f.pa →
        (sliceRead s f.pa 8).2.1 = false →
        ∃ t, exec .nackReplay s = .next t ∧ MemoryKept s t ∧ BitsKept s t f.pa ∧
          t.g = { s.g with nackcnt := s.g.nackcnt + 1 } ∧ Arrived s t w f.pa f.emptying ∧
          ∀ f', futOf t w = some f' → f'.st = .nacked → f'.back = min (2 * f.back) 4096) ∧
      (∀ g v, w = .vp g v → f.timed = true → ∃ t, exec .fldvTimeout s = .next t ∧ t = { s with futs := t.futs } ∧
        futOf t w = some { f with st := .expired })) ∧
    (∀ r, Mine s → (∀ g v, s.msg.who ≠ .vp g v) → s.g.fldv = some r → r.timed = true → r.fail = none →
      ∃ t, exec .fldvTimeout s = .next t ∧ t.g.fldv = none ∧ t.g.external = false ∧ t.g.x = s.g.x ∧
        t.pm = { s.pm with stale := t.pm.stale } ∧
        ∀ f ∈ t.futs, ∀ e, f.who ≠ .elem s.g.gid e)

/-- R97, R105, R112, R193, R315, R323, R324, R330, R409, R410: a copy takes a free place, begins in its turn, moves the
bytes of a unit and completes; a matrix operation is accepted in its turn and leaves in its tile what its arithmetic
gives; a joint operation is formed once every position has arrived; a waiting zset takes a free run; a steward grants its
oldest request within its budget, and a lease runs out. -/
def Obligations.EngineSteps : Prop :=
  ∀ s : State,
    (∀ x, s.msg.core < 256 → OnlyId s.eng.xfers Xfer.id x →
      s.eng.xfers.find? (fun x => x.gid / 16 == s.msg.core && x.phase == .place) = some x →
      placesUsed s s.msg.core < 64 →
      ∃ t, exec .carterAccept s = .next t ∧ t = { s with eng := { s.eng with xfers := t.eng.xfers } } ∧
        { x with phase := .queued } ∈ t.eng.xfers) ∧
    (∀ x, s.msg.core < 256 → OnlyId s.eng.xfers Xfer.id x → beginNext s s.msg.core = some x →
      ∃ t, exec .carterTransferBegin s = .next t ∧ { x with phase := .running } ∈ t.eng.xfers ∧
        t = { s with eng := { s.eng with xfers := t.eng.xfers, lastServed := t.eng.lastServed } } ∧
        tabGet? t.eng.lastServed (256 + s.msg.core) = some (x.gid % 16)) ∧
    (∀ x n pa pb s1 s2, msgXfer s = some x → OnlyId s.eng.xfers Xfer.id x → s.g.live = true → x.gid = s.g.gid →
      x.failed = false → x.unit = 0 → n = dLen x.desc → 0 < n → n ≤ 128 →
      dKind x.desc = 1 ∧ dSrcK x.desc = 0 ∧ dDstK x.desc = 0 ∧ dFold x.desc = 0 → x.rows = none → x.decl = none →
      dWord x.desc 0 % 128 + n ≤ 128 → dWord x.desc 1 % 128 + n ≤ 128 →
      checkLoc s (whoX s.g x) kRead (.va (dWord x.desc 0)) n 1 = (.ok (.pa pa), s1) →
      checkLoc s1 (whoX s.g x) kWrite (.va (dWord x.desc 1)) n 1 = (.ok (.pa pb), s2) →
      AtHome s pa n → AtHome s pb n → paKind s pa = .hbm → paKind s pb = .hbm → pa + n ≤ pb ∨ pb + n ≤ pa →
      Seen s2 (whoX s.g x) pa n →
      s.sp.poison = [] ∧ s.pm.poisoned = [] ∧ (∀ l ∈ s.pm.lines, l.poison = false) ∧ (∀ c ∈ s.chains, c.poison = false) →
      ∃ t, exec .carterUnit s = .next t ∧ t.pm.word pb n = s.pm.word pa n ∧ MemoryKeptBut s t pb n ∧
        t.g.x = s.g.x ∧ t.g.v = s.g.v ∧ { x with unit := 1 } ∈ t.eng.xfers) ∧
    (∀ x k, msgXfer s = some x → OnlyId s.eng.xfers Xfer.id x → s.eng.xfers = [x] → s.eng.mats = [] → s.g.live = true →
      x.gid = s.g.gid → xferReady s x = true → x.tok = k → k < 8 → x.adds = [] → x.decl = none → x.mreg = 0 → x.ret = 0 →
      dDstK x.desc ≠ 2 → SourcesKept s x → (tokOf s k).fails = [] →
      x.batch = ((tokOf s k).done + 1) % 65536 → (tokOf s k).opn < 65536 → (tokOf s k).opn = (x.batch + 1) % 65536 →
      ∃ t, exec .carterComplete s = .next t ∧ t.eng.xfers = [] ∧ tokOf t k = { tokOf s k with done := x.batch } ∧
        t.g.x = s.g.x ∧ t.g.v = s.g.v ∧ t.g.m = s.g.m ∧ t.pm = s.pm ∧ t.sp = s.sp) ∧
    (∀ o, s.msg.core < 256 → OnlyId s.eng.mats MatOp.id o → matNext s s.msg.core = some o → o.jointId = none →
      ∃ t, exec .matrixAccept s = .next t ∧ { o with phase := .running } ∈ t.eng.mats ∧
        t = { s with eng := { s.eng with mats := t.eng.mats, lastServed := t.eng.lastServed } }) ∧
    (∀ o r, MatRuns s o r → s.eng.xfers = [] →
      ∃ t r', exec .matrixComplete s = .next t ∧ o.id ∉ t.eng.mats.map MatOp.id ∧ regionOf t o.gid o.z = some r' ∧
        (∀ i j, i < o.m → j < o.n → r'.elem i j = (matElem s o i j (r.elem i j)).1) ∧
        (∀ i j, j < 1024 → (o.m ≤ i ∨ o.n ≤ j) → r'.elem i j = r.elem i j) ∧
        t.g.x = s.g.x ∧ t.g.v = s.g.v ∧ t.pm = s.pm ∧ t.sp = s.sp) ∧
    (∀ ops, ops = (jointOps s (s.msg.core, s.msg.num)).filter (fun o => o.phase == .join) → jointFull ops = true →
      jointMixed ops = false → ops.any MatOp.consume = false → (s.eng.mats.map MatOp.id).Nodup →
      ∃ t, exec .mjoinForm s = .next t ∧ (∃ l ∈ t.eng.leaves, ∃ o ∈ ops, l.mat = some o.id) ∧ t.pm = s.pm ∧
        ∀ o ∈ ops, ∃ o' ∈ t.eng.mats, o'.id = o.id ∧ o'.phase = .leave) ∧
    (∀ z h words b, Mine s → s.g.waits.zset = some (z, h, words) → z < 8 → words ≤ 256 →
      freeRun s s.g.pl.core words = some b → regionOf s s.g.gid z = none →
      ∃ t, exec .accRegionClaim s = .next t ∧
        regionOf t s.g.gid z = some ⟨s.g.pl.core, s.g.gid, z, b, words, .free s.freeCtr, [], []⟩ ∧
        handleOf t z = (bits h.toNat 39 15 * 2 ^ 15 + b * 2 ^ 49 + words * 2 ^ 40 + 1) % 2 ^ 64 ∧
        t.g.pc = s.g.pc + 4 ∧ t.g.retired = s.g.retired + 1 ∧ t.g.x = s.g.x ∧ t.pm = s.pm) ∧
    (∀ l, s.msg.die < 8 → leaveNext s s.msg.die = some l →
      (leaveHeld s s.msg.die + leaveCost s l ≤ budgetOf s s.msg.die →
        ∃ t, exec .powerLeaveGrant s = .next t ∧ t = { s with eng := { s.eng with leaves := t.eng.leaves } } ∧
          { l with units := leaveCost s l, granted := true } ∈ t.eng.leaves ∧
          leaveHeld t s.msg.die = leaveHeld s s.msg.die + leaveCost s l) ∧
      (budgetOf s s.msg.die < leaveHeld s s.msg.die + leaveCost s l → exec .powerLeaveGrant s = .next s)) ∧
    (∃ t, exec .leaseExpire s = .next t ∧ t = { s with eng := { s.eng with leaves := t.eng.leaves } } ∧
      ∀ l, l ∈ t.eng.leaves ↔ l ∈ s.eng.leaves ∧ ¬ (l.granted = true ∧ isLease l s.msg.gid s.msg.num = true))

/-- R63, R110, R138, R141, R147, R162, R210, R244, R263, R300, R302 to R304, R346 to R349, R408: what waited for the group
is done for it: a register written, a strip-queue entry moved, a stream element read, a body ended, a word of the VP whose
turn it is performed, a barrier reached or left, a toll charged, the convoy at the head of its queue begun or trapped. -/
def Obligations.GroupSteps : Prop :=
  ∀ s : State,
    (∀ i n, Mine s → deferredForm s i = some n →
      (queueHeld s = true ∨ n = 0x012 ∧ s.g.portable = true ∧ roleSplits s s.msg.val = true → exec i s = .next s) ∧
      (queueHeld s = false → vpIndependent s.g = false → tokenBusy s (s.msg.tok % 8) = false →
        NoneCompletes n (BitVec.ofNat 64 s.msg.val) →
        (n = 0x012 → s.g.portable = true → roleSplits s s.msg.val = false) →
        ∃ t, exec i s = .next t ∧ sysRead t n = storedValue s n (BitVec.ofNat 64 s.msg.val) ∧ t.g.x = s.g.x ∧
          t.g.pc = s.g.pc ∧ t.pm = s.pm ∧ (n ≠ 0x012 → t.g.v = s.g.v ∧ t.g.m = s.g.m ∧ t.g.binds = s.g.binds))) ∧
    (∀ q e rest x, Mine s → s.g.appends = (q, e, false) :: rest → stripOf s s.g.pl.core q = some x →
      (x.entries.length < 16 → ∃ t, exec .stripQueueAppend s = .next t ∧ t.g = { s.g with appends := rest } ∧
        stripOf t s.g.pl.core q = some { x with entries := x.entries ++ [e] } ∧ t.pm = s.pm) ∧
      (16 ≤ x.entries.length → exec .stripQueueAppend s = .next s)) ∧
    (∀ r q x e rest, Mine s → s.g.waits.starved = some r → boundTo s.g r = some (.queueRead q) →
      stripOf s s.g.pl.core q = some x → x.entries = e :: rest →
      ∃ t, exec .stripQueueConsume s = .next t ∧ stripOf t s.g.pl.core q = some { x with entries := rest } ∧
        t.g = { s.g with fed := s.g.fed ++ [(r, e)], waits := { s.g.waits with starved := none } } ∧ t.pm = s.pm) ∧
    (∀ d pos ahead l v bad s1 s2, Mine s → boundTo s.g s.msg.reg = some (.stream d pos ahead) → d.write = false →
      pos + ahead.length < d.count →
      checkLoc s (whoV s) kRead (d.loc (tagOf s s.msg.reg) (pos + ahead.length)) (cw (tagOf s s.msg.reg) / 8)
        (cw (tagOf s s.msg.reg) / 8) = (.ok l, s1) →
      plRead s1 (whoV s1) l (cw (tagOf s s.msg.reg) / 8) = (v, bad, s2) →
      ∃ t, exec .streamReadAhead s = .next t ∧ t = { s2 with g := { s2.g with binds := t.g.binds } } ∧
        boundTo t.g s.msg.reg = some (.stream d pos (ahead ++ [(v, bad)]))) ∧
    (∀ a, Mine s → s.g.aib = some a →
      (∀ b m k, a.body[a.pos]? = some (.tfetch b m k) → exec .aibWordLockstep s = exec (.tfetch b m k) s) ∧
      (∀ b m, a.body[a.pos]? = some (.xqsend b m) → exec .aibWordLockstep s = exec (.xqsend b m) s) ∧
      (∀ b m, a.body[a.pos]? = some (.xqrecv b m) → exec .aibWordLockstep s = exec (.xqrecv b m) s) ∧
      (a.xq = false → a.body.length ≤ a.pos → s.g.fldv = none → s.g.abandoned = false → (s.g.vps.map Vp.idx).Nodup →
        (∀ v ∈ s.g.vps, v.st = .lockstep ∧ v.target = none) →
        ∃ t, exec .aibWordLockstep s = .next t ∧ t.g.aib = none ∧ t.g.vps = [] ∧ t.g.x = s.g.x ∧ t.g.v = s.g.v ∧
          t.pm = s.pm ∧ t.g.vc.fflags = s.g.vps.foldl (fun f v => f ||| v.flags) s.g.vc.fflags)) ∧
    (∀ v, Mine s → (s.g.vps.map Vp.idx).Pairwise (· < ·) → ServedNext s v → laneOf s v.idx = laneOf s s.msg.vp →
      v.idx ≠ s.msg.vp → exec .vpIssue s = .next s) ∧
    (∀ v aib xq body pos s0, Mine s → (s.g.vps.map Vp.idx).Pairwise (· < ·) → ServedNext s v → v.idx = s.msg.vp →
      v.st = .indep aib xq body pos → s0 = served s v →
      (body.length ≤ pos → v.target = none → exec .vpIssue s = .next { s0 with g := { s0.g with
        vps := s.g.vps.filter (fun w => w.idx != v.idx)
        vc := { s.g.vc with fflags := s.g.vc.fflags ||| v.flags } } }) ∧
      (∀ i s1 v1, body[pos]? = some i → anyWord i s0 (vpCtx s0 v.idx) = .done s1 → pos + 1 < body.length →
        s1.g.vps.find? (fun w => w.idx == v.idx) = some v1 →
        ∃ t, exec .vpIssue s = .next t ∧ t = { s1 with g := { s1.g with vps := t.g.vps } } ∧
          t.g.vps.find? (fun w => w.idx == v.idx) = some { v1 with st := .indep aib xq body (pos + 1) }) ∧
      (∀ i s1 v1 c x e b, body[pos]? = some i → anyWord i s0 (vpCtx s0 v.idx) = .fail s1 c x e b →
        s1.g.vps.find? (fun w => w.idx == v.idx) = some v1 →
        ∃ t, exec .vpIssue s = .next t ∧
          t.g.vps.find? (fun w => w.idx == v.idx) = some { v1 with st := .stopped aib pos (some (c, x)) false })) ∧
    (∀ t0, Mine s → s.g.halt = none → s.g.saving = none → teamOf s s.g = some t0 →
      (∀ r, s.g.waits.cwait = none → s.g.arrived.find? (fun r => r.pc == s.g.pc) = some r → r.rd < 32 →
        (myBar s false r.barrier).gen ≠ r.gen →
        ∃ s' t, exec .barrierReturn s = .next t ∧ Reordered s s' ∧ Retired s t ∧ Acquired t ∧
          t.g.arrived = s.g.arrived.filter (fun r => r.pc != s.g.pc) ∧
          OnlyX { s' with g := { s'.g with arrived := t.g.arrived } } t r.rd (BitVec.ofNat 64 r.gen)) ∧
      (∀ b p, s.g.waits.cwait = some (b, p) → (p = 2 ∨ (if (myBar s true b).p then 1 else 0) ≠ p) →
        ∃ s' t, exec .barrierReturn s = .next t ∧ Reordered s s' ∧ OnlyControl s' t ∧ Retired s t ∧ Acquired t)) ∧
    (∀ g t0 b c, s.msg.barrier = b → s.msg.cluster = c → findGroup s s.msg.member = some g → teamOf s g = some t0 →
      b < (if c then 8 else 16) → (c = true → (clusterOf s t0).isSome = true ∧ (barOf s t0 c b).marks.contains s.msg.member = false) →
      let x := barOf s t0 c b
      ∃ t t1, exec .barrierArrival s = .next t ∧ teamOf t g = some t1 ∧ t.pm = s.pm ∧ t.g.x = s.g.x ∧
        (x.arr + 1 = x.memb → Completed x (barOf t t1 c b)) ∧
        (x.arr + 1 ≠ x.memb → (barOf t t1 c b).arr = x.arr + 1 ∧ (barOf t t1 c b).gen = x.gen)) ∧
    (∀ g, findGroup s s.msg.gid = some g → PursesForm s → (∀ e ∈ g.vq.head?, e.begun = true) →
      ∃ t, exec .convoyDispatch s = .next t ∧ findGroup t s.msg.gid = some { g with toll := 0 } ∧ t.pm = s.pm ∧
        purseOf t g.pl.core g.pl.slot = max (purseOf s g.pl.core g.pl.slot - g.toll) (-1048576) ∧
        ∀ c k, (c ≠ g.pl.core ∨ k ≠ g.pl.slot) → purseOf t c k = purseOf s c k) ∧
    (∀ e rest, Mine s → s.g.vq = e :: rest → e.begun = false → queueBusy s = false →
      (convoyConflict s.g e.words = none → (∀ i ∈ e.words, isVmul i = false) →
        ∃ t, exec .convoyDispatch s = .next t ∧ t.pm = s.pm ∧
          t.g = { s.g with toll := 0, vq := { e with begun := true } :: rest }) ∧
      (∀ k, convoyConflict s.g e.words = some k → ¬ halts (e.enter s.g) e.pc →
        ∃ t, exec .convoyDispatch s = .next t ∧ t.pm = s.pm ∧ t.g.vq = [] ∧ t.g.x = e.x ∧ t.g.pc = e.tr.handler ∧
          t.g.tr.tcause = 0x03 ∧ t.g.tr.tval = BitVec.ofNat 64 k ∧ t.g.tr.tepc = e.pc &&& ~~~3#64)) ∧
    (PursesForm s → ((allGroups s).map (fun g => (g.pl.core, g.pl.slot))).Nodup →
      ∃ t, exec .epochRefill s = .next t ∧ t = { s with cores := t.cores } ∧
        ∀ g ∈ allGroups s, let n := (ownedSections s g).length
          let f : Int := 1024 * (prioOf s g + 1) * n
          purseOf t g.pl.core g.pl.slot
            = if n = 0 then purseOf s g.pl.core g.pl.slot else min (purseOf s g.pl.core g.pl.slot + f) (2 * f))

/-- R23, R218: a step that acts on a group does to a group that has not its turn what it does to one that has. -/
def Obligations.StepsOfOtherGroups : Prop :=
  ∀ (i : Instr) (s : State) (k : Nat) (g : Group), i ∈ groupUnitSteps → Elsewhere s k g →
    ∃ t, exec i (inTurn s k g) = .next t ∧ exec i s = .next (backInTurn t k)

/-- R361, R403, R422, R426 to R432: a request is met at a safe point by its entry, or by a full save where the entry is bad;
a full save comes at the deadline, and never where there is none; the group leaves its slot and its frame stands in the
arena; it is restored with its scalar, shared and trap registers and its tokens; context commands hold, release and kill,
and complete in order, a hold or a kill once every group of its address space has left. -/
def Obligations.SaveSteps : Prop :=
  ∀ s : State,
    (∀ idx pc, Mine s → AtSafePoint s idx pc →
      (∀ r h s1, s.g.request = some r → r.saves = true → readEntry s idx pc = (some (some h), s1) →
        ∃ t, exec .safePointSave s = .next t ∧ t.g.saving = some h ∧ t.g.atSpt = none ∧ t.g.x = s.g.x ∧ t.g.v = s.g.v) ∧
      (∀ r s1, s.g.request = some r → readEntry s idx pc = (some none, s1) →
        ∃ t, exec .safePointSave s = .next t ∧ t.g.saving = some (fullSaving s.g.pc .leave) ∧ t.g.atSpt = none ∧
          t.g.x = s.g.x ∧ t.g.v = s.g.v) ∧
      (∀ e s1, s.g.request = none → growth s1 = [] → readEntry s idx pc = (some e, s1) →
        ∃ t, exec .safePointSave s = .next t ∧ t.g.saving = none ∧ t.g.atSpt = none ∧ t.g.x = s.g.x ∧
          t.g.pc = s.g.pc)) ∧
    (∀ r, Mine s → s.g.request = some r → r.deadline = none → exec .fullSaveDeadline s = .next s) ∧
    (∀ r d, Mine s → FullSaveDue s r d →
      ∃ t, exec .fullSaveDeadline s = .next t ∧ t.g.saving = some (fullSaving s.g.pc .leave) ∧ t.g.x = s.g.x ∧
        t.g.v = s.g.v ∧ (∀ f ∈ t.futs, f.who ≠ .group s.g.gid) ∧
        ((∀ f ∈ s.futs, waiterGid f.who = some s.g.gid → f.emptying = false) → t.pm = s.pm)) ∧
    (∀ h b ws, Mine s → s.g.saving = some h → h.goal = .leave → h.full = true → saveQuiet s = true → s.g.halt = none →
      NothingAwaited s →
      ws = frameWords s { h with resume := s.g.pc } (s.eng.strips.filter (fun q => q.owner == s.g.gid)) →
      (freeGranules s (ceilDiv (8 * ws.length) 65536) = some b →
        ∃ t v, exec .saveFrameWrite s = .next t ∧ t.g.live = false ∧ t.saved = s.saved ++ [v] ∧ v.granule = b ∧
          v.granules = ceilDiv (8 * ws.length) 65536 ∧ v.how.resume = s.g.pc ∧ v.group.x = s.g.x ∧ v.group.v = s.g.v ∧
          v.group.m = s.g.m ∧ v.group.tr = s.g.tr ∧ v.group.tok = s.g.tok ∧ v.group.pl.slot ≥ 4096 ∧
          (∀ c ∈ t.io.ctx, s.g.gid ∉ c.left) ∧
          (Memory.wf s.pm = true → s.chains = [] → paKind s (granuleAddr s b) = .hbm →
            HoldsWords t (granuleAddr s b) ws)) ∧
      (freeGranules s (ceilDiv (8 * ws.length) 65536) = none →
        (h.waited = true → exec .saveFrameWrite s = .next s) ∧
        (h.waited = false → ∃ t, exec .saveFrameWrite s = .next t ∧ t.g.live = s.g.live ∧
          t.g.saving.map Saving.waited = some true))) ∧
    (∀ v secs slot, Restorable s v secs slot →
      ∃ t g, exec .restore s = .next t ∧ (t.g = g ∨ g ∈ t.others) ∧ g.live = v.group.live ∧ g.pl.core = s.msg.core ∧
        g.pl.slot = slot ∧ g.pc = v.how.resume ∧ g.x = v.group.x ∧ g.h = v.group.h ∧ g.tr = v.group.tr ∧
        g.launch = v.group.launch ∧ g.tok = v.group.tok ∧ t.saved = s.saved.eraseIdx s.msg.idx ∧ BytesKept s t) ∧
    (∃ t, exec .ctxHold s = .next t ∧
      t.io = { s.io with
        ctxacc := (s.io.ctxacc + 1) % 2 ^ 32, ctx := s.io.ctx ++ [⟨0, s.msg.asid, residentsOf s s.msg.asid⟩] } ∧ t.pm = s.pm ∧
      (∀ g ∈ allGroups t, g.asid = s.msg.asid → ∃ r, g.request = some r ∧ r.saves = true ∧ r.held = true ∧
        (0 < s.msg.wait → ∃ d, r.deadline = some d ∧ d ≤ s.cycle.toNat + s.msg.wait)) ∧
      (s.msg.wait = 0 → (allGroups t).map (fun g => g.request.bind Request.deadline)
        = (allGroups s).map (fun g => g.request.bind Request.deadline)) ∧
      (∀ v ∈ t.saved, v.group.asid = s.msg.asid → v.held = true) ∧
      (∀ l ∈ t.launches, l.asid = s.msg.asid → 0 < l.unplaced → l.held = true)) ∧
    (∃ t, exec .ctxRelease s = .next t ∧
      t.io = { s.io with
        ctxacc := (s.io.ctxacc + 1) % 2 ^ 32, ctx := s.io.ctx ++ [⟨1, s.msg.asid, residentsOf s s.msg.asid⟩] } ∧ t.pm = s.pm ∧
      (∀ g ∈ allGroups t, g.asid = s.msg.asid → ∀ r, g.request = some r → r.held = false) ∧
      (∀ v ∈ t.saved, v.group.asid = s.msg.asid → v.held = false) ∧
      (∀ l ∈ t.launches, l.asid = s.msg.asid → l.held = false)) ∧
    (∃ t, exec .ctxKill s = .next t ∧ (∀ v ∈ t.saved, v.group.asid ≠ s.msg.asid) ∧
      (∀ l ∈ t.launches, l.asid = s.msg.asid → l.killed = true ∧ l.tasks = []) ∧
      t.launches.map Launch.id = s.launches.map Launch.id) ∧
    exec .ctxIgnored s = .next s ∧
    (∀ c rest, s.io.ctx = c :: rest →
      ((c.op = 0 ∨ c.op = 2 → c.left = []) → exec .ctxCommandComplete s
        = .next { s with io := { s.io with ctx := rest, ctxdone := (s.io.ctxdone + 1) % 2 ^ 32 } }) ∧
      (c.op = 0 ∨ c.op = 2 → c.left ≠ [] → exec .ctxCommandComplete s = .next s))

/-- R395 to R406, R412, R413, R476 to R478: a queue begins to be read, follows its tail word and gives its records, each
accepted or refused; clusters are placed where they fit, groups start, spawned groups follow; a launch that has waited
65,536 cycles reserves the rectangle whose cores hold the fewest sections of its priority or more; sections are checked by
their CRC; a launch without a future that is done ends; the Watchman traps once its counter has reached the limit. -/
def Obligations.LaunchSteps : Prop :=
  ∀ s : State,
    (∀ q h, s.msg.queue = q → q < 128 → h = hqOf s q →
      (∃ t, exec .hqEnable s = .next t ∧ OnlyIo s t ∧
        hqOf t q = { h with en := true, head := 0, stopped := false, reread := true, seen := 0 }) ∧
      (TailWritable s (hostPa s (h.tail * 8)) → ∃ t, exec .hqTailSnoop s = .next t ∧
        t.pm.word (hostPa s (h.tail * 8)) 8 = s.msg.val % 2 ^ 64 ∧ t.g = s.g ∧
        (h.en = true → hqOf t q = { h with reread := true })) ∧
      (∀ seen far, h.en = true → h.reread = true → h.stopped = false → s.io.bootStage = 5 → Memory.wf s.pm = true →
        seen = s.pm.word (hostPa s (h.tail * 8)) 8 % 2 ^ 32 →
        far = decide (2 ^ (h.size + 4) < (seen + 2 ^ 32 - h.head) % 2 ^ 32) →
        ∃ t, exec .hqTailReread s = .next t ∧ t.g = s.g ∧ BytesKept s t ∧
          hqOf t q = { h with seen := seen, reread := false, err := h.err || far, stopped := far }) ∧
      (h.en = false ∨ h.reread = false ∨ h.stopped = true → exec .hqTailReread s = .next s) ∧
      (∀ r s1 ws, hqReady s q = true → readRecord s (h.base * 128 + h.head % 2 ^ (h.size + 4) * 128) = (some r, s1) →
        ws = (Vector.ofFn (fun i => BitVec.ofNat 64 (word64 r i.val)) : Vector Word 16) →
        let s2 := setHq s1 q { h with head := (h.head + 1) % 2 ^ 32 }
        (recordCode s2 ws ≠ 0 → ∃ t, exec .startRecordAccept s = .next t ∧ t.launches = s.launches ∧ t.g = s.g) ∧
        (∀ img s3, recordCode s2 ws = 0 → recordImage s2 ws = (some img, s3) → everFits s3 ws = true →
          ∃ t l, exec .startRecordAccept s = .next t ∧ t.launches = s.launches ++ [l] ∧ l.id = s.nextLaunch ∧
            t.nextLaunch = s.nextLaunch + 1 ∧ l.queue = q ∧ l.number = h.head ∧ l.words = ws ∧ l.image = img ∧
            l.placed = 0 ∧ (hqOf t q).head = (h.head + 1) % 2 ^ 32))) ∧
    (∀ l k, nextPlacement s = some (l, k) → findLaunch s l.id = some l →
      ∃ t l', exec .placeNext s = .next t ∧ findLaunch t l.id = some l' ∧ l'.placed = l.placed + 1 ∧
        (∃ c ∈ t.clusters, c.launch = l.id ∧ c.idx = l.placed ∧ c.origin = k ∧ c.rows = recRows l.words ∧
          c.cols = recCols l.words) ∧ t.g.x = s.g.x ∧ t.g.pc = s.g.pc ∧ t.pm = s.pm) ∧
    (nextPlacement s = none → exec .placeNext s = .next s) ∧
    (Mine s → exec .groupStart s = .next { s with g := { s.g with begun := true } }) ∧
    (∀ l, findLaunch s s.msg.launch = some l → (s.cycle - l.since).toNat < 65536 → exec .reservation s = .next s) ∧
    (∀ l k core g, findLaunch s s.msg.launch = some l → l.unplaced ≠ 0 → l.reserved = none → l.killed = false →
      l.held = false → 65536 ≤ (s.cycle - l.since).toNat → k ∈ legalCorners (recCols l.words) (recRows l.words) →
      core ∈ rectCores k (recCols l.words) (recRows l.words) → g ∈ allGroups s → g.pl.core = core →
      prioOf s g < l.prio → ownedSections s g ≠ [] →
      ∃ t k', exec .reservation s = .next t ∧ k' ∈ legalCorners (recCols l.words) (recRows l.words) ∧
        (∀ j ∈ legalCorners (recCols l.words) (recRows l.words),
          dearness s l k' < dearness s l j ∨ dearness s l k' = dearness s l j ∧ k' ≤ j) ∧
        (findLaunch t l.id).map Launch.reserved = some (some k') ∧ t.pm = s.pm ∧
        ∀ g ∈ allGroups t, g.pl.core ∈ rectCores k' (recCols l.words) (recRows l.words) → prioOf s g < l.prio →
          ∃ r, g.request = some r ∧ l.id ∈ r.yields) ∧
    (∀ l a rest core slot secs, findLaunch s s.msg.launch = some l → l.tasks = a :: rest →
      spawnCore s l = some (core, slot, secs) →
      ∃ t g l', exec .spawnGroupStart s = .next t ∧ t.others = s.others ++ [g] ∧ g.live = true ∧ g.begun = true ∧
        g.pl.det = true ∧ g.pl.core = core ∧ g.pl.slot = slot ∧ g.pl.gix = l.spawned ∧ g.launch = l.id ∧
        g.pc = l.image.codeBase + BitVec.ofNat 64 (l.image.entries.getD (bits (recWord l.words 10) 15 0) 0) ∧
        g.x.toList.getD 11 0 = a ∧ g.tr.lev = false ∧ findLaunch t l.id = some l' ∧ l'.started = l.started + 1 ∧
        (l.spawnGrp ≤ l.spawned + 1 → l'.tasks = rest) ∧ (l.spawned + 1 < l.spawnGrp → l'.tasks = l.tasks) ∧
        t.g = s.g ∧ t.pm = s.pm) ∧
    (∀ l, findLaunch s s.msg.launch = some l →
      (launchDone s l = true → recWord l.words 5 = 0 → ∃ t, exec .launchComplete s = .next t ∧
        findLaunch t l.id = none ∧ (∀ c ∈ t.channels, c.launch ≠ l.id) ∧ (∀ u ∈ t.teams, u.launch ≠ l.id) ∧
        t.g = s.g ∧ t.pm = s.pm.unwatch l.id) ∧
      (launchDone s l = false → exec .launchComplete s = .next s)) ∧
    (∀ l, Fires s l → NoQueueFor s (some l.id) → ∃ t, exec .watchdogFire s = .next t ∧
      t.g.tr.tcause = 0x11 ∧ t.g.tr.tval = BitVec.ofNat 64 l.wdlimit ∧ t.g.tr.tepc = s.g.pc &&& ~~~3#64 ∧
      t.g.tr.lev = true ∧ t.g.tr.plev = s.g.tr.lev ∧ t.g.pc = s.g.tr.handler ∧ t.g.x = s.g.x ∧ t.g.v = s.g.v ∧
      (findLaunch t l.id).map Launch.wdcount = some 0 ∧ (∀ f ∈ t.futs, f.who ≠ .group s.g.gid) ∧
      ((∀ f ∈ s.futs, waiterGid f.who = some s.g.gid → f.emptying = false) → t.pm = s.pm)) ∧
    (∀ l, findLaunch s s.msg.launch = some l → l.wdlimit = 0 ∨ l.wdcount < l.wdlimit → exec .watchdogFire s = .next s) ∧
    (∀ l x bs, SectionRead s l x (some bs) →
      (x.start = true → l.placed = 0 → crc32c bs = x.crc → ∃ t, exec .sectionArriveStartSet s = .next t ∧
        secKnown t l.id x.idx = some .good ∧ t.g = s.g) ∧
      (x.start = true → l.placed = 0 → crc32c bs ≠ x.crc → ∃ t, exec .sectionArriveStartSet s = .next t ∧
        findLaunch t l.id = none ∧ t.g = s.g) ∧
      (∀ g ∈ allGroups s, g.launch = l.id → g.external = true ∨ vpFetching g = true → ∃ t, exec .sectionFirstUse s = .next t ∧ t.g = s.g ∧
        secKnown t l.id x.idx = some (if crc32c bs = x.crc then .good else .bad)))

/-- R414: the Clerk begins where RUN is set and stops at HALT; each command does what its operation code says, on a word of
memory or on a register of the device, and the next one follows, or the one at T; a WAITGE stays until its word has
reached B. -/
def Obligations.ClerkCommands : Prop :=
  ∀ (s : State) (a b t k : Nat) (c : Clerk), c = s.io.clerk →
    (c.run = false → exec .clerkRun s
      = .next { s with io := { s.io with clerk := { c with run := true, wait := false } } }) ∧
    (c.run = true → 0x0B < clerkOp s → exec .clerkRun s = .next { s with io := { s.io with
      clerk := { c with run := false, err := true, errop := clerkOp s % 256, wait := false } } }) ∧
    (ClerkAt s 0x00 a b t k → exec .clerkHalt s
      = .next { s with io := { s.io with clerk := { onward c with run := false } } }) ∧
    (ClerkAt s 0x03 a b t k → ClerkWord s a → ∀ i w, i = Instr.clerkWaitge ∧ w = false ∨ i = Instr.clerkWaitgePoll ∧ w = true →
      c.wait = w →
      (b ≤ s.pm.word a 8 → ∃ u, exec i s = .next u ∧ ClerkDid s u (onward c) ∧ MemoryKept s u) ∧
      (s.pm.word a 8 < b → ∃ u, exec i s = .next u ∧ ClerkDid s u { c with wait := true } ∧ MemoryKept s u)) ∧
    (ClerkAt s 0x03 a b t k → ClerkRegister s a → ∀ i w, i = Instr.clerkWaitge ∧ w = false ∨ i = Instr.clerkWaitgePoll ∧ w = true →
      c.wait = w → ∀ v, v = ioRead s false (offOf a) % 2 ^ 64 → exec i s = .next { s with io := { s.io with
        clerk := if b ≤ v then onward c else { c with wait := true } } }) ∧
    (ClerkAt s 0x04 a b t k → ClerkRegister s a → ioRead s false (offOf a) < 2 ^ 64 → exec .clerkStore s
      = .next (ioWrite { s with io := { s.io with clerk := onward c } } false (offOf a) (b % 2 ^ 64))) ∧
    (ClerkAt s 0x04 a b t k → ClerkPlaceAt s a →
      ∃ u, exec .clerkStore s = .next u ∧ ClerkDid s u (onward c) ∧ u.pm.word a 8 = b % 2 ^ 64 ∧ MemoryKeptBut s u a 8) ∧
    (ClerkAt s 0x05 a b t k → ClerkWord s a →
      ∃ u, exec .clerkAdd s = .next u ∧ ClerkDid s u (onward c) ∧ u.pm.word a 8 = (s.pm.word a 8 + b) % 2 ^ 64 ∧
        MemoryKeptBut s u a 8) ∧
    (ClerkAt s 0x06 a b t k → exec .clerkSetc s
      = .next { s with io := { s.io with clerk := onward (withCounter c k (BitVec.ofNat 64 b)) } }) ∧
    (ClerkAt s 0x07 a b t k →
      let d : Clerk := withCounter c k (counter c k - 1)
      exec .clerkLoop s = .next { s with io := { s.io with clerk := if counter c k = 1 then onward d else jumpTo d t } }) ∧
    (ClerkAt s 0x08 a b t k → ClerkWord s a →
      ∃ u, exec .clerkJge s = .next u ∧ MemoryKept s u ∧
        ClerkDid s u (if b ≤ s.pm.word a 8 then jumpTo c t else onward c)) ∧
    (ClerkAt s 0x09 a b t k → ClerkWord s a →
      ∃ u, exec .clerkJlt s = .next u ∧ MemoryKept s u ∧
        ClerkDid s u (if s.pm.word a 8 < b then jumpTo c t else onward c)) ∧
    (ClerkAt s 0x0A a b t k → ∃ u, exec .clerkIrq s = .next u ∧ u = { s with io := u.io } ∧ u.io.clerk = onward c ∧
      (32 + k % 32 ∈ u.io.msix.pending ∨ 32 + k % 32 ∈ u.io.msix.sent)) ∧
    (ClerkAt s 0x0B a b t k → exec .clerkJump s = .next { s with io := { s.io with clerk := jumpTo c t } }) ∧
    (∀ op, op ≠ 0x00 → ClerkAt s op a b t k → exec .clerkHalt s = .next s)

/-- R396, R399, R414: LAUNCH and LAUNCHI give a start record in memory to the launch unit as one of queue 128, numbered in
order; it is refused with nothing launched, or launched with the GRID that LAUNCHI read; the next command follows. -/
def Obligations.ClerkLaunches : Prop :=
  ∀ (s : State) (a b t k : Nat) (s1 s2 : State) (v : Nat) (ws : Vector Word 16),
    launchRoom s = true → InMemory s1 a → clerkPlace s1 a 128 = true → sliceRead s1 a 128 = (v, false, s2) →
    let s3 := setClerk s2 { s2.io.clerk with count := s2.io.clerk.count + 1 }
    let Launches (i : Instr) : Prop :=
      (recordCode s3 ws ≠ 0 → ∃ u, exec i s = .next u ∧ u.launches = s.launches ∧ u.g = s.g ∧
        u.io.clerk.pc = (s.io.clerk.pc + 1) % 2 ^ 47 ∧ u.io.clerk.count = s.io.clerk.count + 1) ∧
      (∀ img s4, recordCode s3 ws = 0 → recordImage s3 ws = (some img, s4) → everFits s4 ws = true →
        ∃ u l, exec i s = .next u ∧ u.launches = s.launches ++ [l] ∧ l.queue = 128 ∧ l.number = s.io.clerk.count ∧
          l.words = ws ∧ l.image = img ∧ l.id = s.nextLaunch ∧ u.g = s.g ∧
          u.io.clerk.pc = (s.io.clerk.pc + 1) % 2 ^ 47 ∧ u.io.clerk.count = s.io.clerk.count + 1)
    (ClerkAt s 0x01 a b t k → s1 = s → ws = Vector.ofFn (fun i => BitVec.ofNat 64 (word64 v i.val)) →
      Launches .clerkLaunch) ∧
    (∀ n, ClerkAt s 0x02 a b t k → InMemory s b → clerkPlace s b 8 = true → sliceRead s b 8 = (n, false, s1) → v < 2 ^ 1024 →
      ws = Vector.ofFn (fun i => if i.val = 9
        then BitVec.ofNat 64 (word64 v 9 / 2 ^ 16 * 2 ^ 16 + n % 2 ^ 16) else BitVec.ofNat 64 (word64 v i.val)) →
      Launches .clerkLaunchi)

/-- R415 to R418: a release queue that is enabled begins at entry 0; it takes READY of its next entry and then its verdict,
emptying both words; an entry that the verdict does not allow is dropped; one that it allows is delivered to
the host's ring and counted there, and once there is room the next entry follows. -/
def Obligations.ReleaseSteps : Prop :=
  ∀ (s : State) (r : Nat) (q : RelQueue), tabWf s.io.rq = true → s.msg.queue = r → r < 16 → q = rqOf s r →
    (∃ t, exec .rqEnable s = .next t ∧ t.g = s.g ∧ t.pm = s.pm ∧ futOf t (.queue r) = none ∧
      rqOf t r = { q with en := true, head := 0, prod := 0, drop := 0, entry := none, ready := false }) ∧
    (∀ pa s1, q.en = true → q.entry = none → LoadFull s r (rqEntry q q.head + 24) pa s1 →
      (∃ t, exec .releaseReadyTaken s = .next t ∧ t.g = s.g ∧ t.pm.isFull (pa / 8) = false ∧
        ((∃ e, rqOf t r = { q with entry := some e, ready := false }) ∨
          rqOf t r = { q with en := false, entry := none, ready := false }))) ∧
    (∀ w0 w1 w2 pa s1, q.en = true → q.entry = some (w0, w1, w2) → q.ready = false →
      LoadFull s r w2.toNat pa s1 →
      (s1.pm.word pa 8 = 1 → entryGood w1 = true → ∃ t, exec .releaseVerdictTaken s = .next t ∧ t.g = s.g ∧
        rqOf t r = { q with ready := true } ∧ t.pm.isFull (pa / 8) = false) ∧
      (s1.pm.word pa 8 = 2 → entryGood w1 = true → ∃ t, exec .releaseVerdictTaken s = .next t ∧ t.g = s.g ∧
        (rqOf t r).drop = (q.drop + 1) % 2 ^ 32 ∧ (rqOf t r).entry = none ∧ (rqOf t r).ready = false)) ∧
    (∀ w0 w1 w2, q.en = true → q.entry = some (w0, w1, w2) → q.ready = true →
      (rqRoom q = true → ∃ t, exec .releaseItemDeliver s = .next t ∧ t.g = s.g ∧ (rqOf t r).entry = none ∧
        ((rqOf t r).en = true → (rqOf t r).prod = (q.prod + 1) % 2 ^ 32 ∧ (rqOf t r).head = (q.head + 1) % 2 ^ 32)) ∧
      (rqRoom q = false → exec .releaseItemDeliver s = .next s))

/-- R18, R136, R411, R424, R442 to R444, R488 to R496: links take flits in order and replay the others; boot passes its
stages, recovery and attestation as its rules say; a hot die's budget falls and a cap sets every budget; an error of a unit
is counted, one in a register poisons it, and a unit whose count is full is retired and fused; a window opens and a test
ends. -/
def Obligations.BootLinksAndRepair : Prop :=
  ∀ s : State,
    (∀ p, p = portOf s s.msg.port → s.msg.port < 16 → p.up = true →
      (s.msg.ok = true → s.msg.seq = p.expect → ∃ t, exec .flitReceive s = .next t ∧ OnlyIo s t ∧
        (portOf t s.msg.port).expect = p.expect + 1 ∧ (portOf t s.msg.port).refused = 0 ∧
        (portOf t s.msg.port).replay = false ∧ (portOf t s.msg.port).up = true) ∧
      (s.msg.ok = false ∨ s.msg.seq ≠ p.expect → ∃ t, exec .flitReceive s = .next t ∧ OnlyIo s t ∧
        portOf t s.msg.port = { p with replay := true })) ∧
    (∀ p, p = portOf s s.msg.port → p.replay = true → tabWf s.io.ports = true →
      ∃ t, exec .flitReplay s = .next t ∧ OnlyIo s t ∧ (portOf t s.msg.port).refused = p.refused + 1 ∧
        (portOf t s.msg.port).replays = min (p.replays + 1) 0xFFFFFFFF ∧
        (portOf t s.msg.port).up = (p.up && decide (p.refused + 1 < 16))) ∧
    (∃ t, exec .powerGood s = .next t ∧ t.io.bootStage = 1 ∧ t.io.fuses = s.io.fuses ∧ t.g = Group.reset ∧
      t.others = [] ∧ t.launches = [] ∧ t.cycle = 0 ∧ t.io.nodeid = 0 ∧ t.io.nodeidSet = false) ∧
    ((s.io.bootStage = 1 → ∃ t, exec .bootStageComplete s = .next t ∧ OnlyIo s t ∧ t.io.bootStage = 2) ∧
     (s.io.bootStage = 2 → ∃ t, exec .bootStageComplete s = .next t ∧ Checked s t s.io.flash ∧
       t.io.flash = s.io.flash) ∧
     (s.io.bootStage = 3 → s.io.testing = [] → s.msg.val = 0 → ∃ t, exec .bootStageComplete s = .next t ∧
       t.io.bootStage = 4 ∧ ∀ w, t.pm.isFull w = false) ∧
     (s.io.bootStage = 3 → s.io.testing ≠ [] → exec .bootStageComplete s = .next s) ∧
     (s.io.bootStage = 4 → s.io.nodeidSet = true → s.io.pounden = 255 → ∃ t, exec .bootStageComplete s = .next t ∧
       OnlyIo s t ∧ t.io.bootStage = 5) ∧
     (s.io.bootStage = 4 → s.io.nodeidSet = false ∨ s.io.pounden ≠ 255 → exec .bootStageComplete s = .next s)) ∧
    (s.io.bootStage = 0xE →
      (2 ^ 24 < s.io.rcvlen ∨ s.io.rcvaddr.toNat % 4096 ≠ 0 → ∃ t, exec .recoveryGo s = .next t ∧ OnlyIo s t ∧
        t.io.bootStage = 0xE ∧ t.io.bootCode = 5) ∧
      (s.io.rcvlen ≤ 2 ^ 24 → s.io.rcvaddr.toNat % 4096 = 0 → ∃ t, exec .recoveryGo s = .next t ∧
        Checked s t (recoveryImage s) ∧
        t.io.flash = if imageCheck (recoveryImage s) = 0 then recoveryImage s else s.io.flash)) ∧
    (s.io.bootStage ≠ 0xE → exec .recoveryGo s = .next s) ∧
    ((s.io.bootStage = 5 ∨ s.io.bootStage = 0xE → ∃ t r, exec .attestRequest s = .next t ∧
        t = { s with freeCtr := t.freeCtr, io := { s.io with reports := s.io.reports ++ [r] } } ∧
        r.nonce = s.msg.val % 2 ^ 256 ∧ r.node = s.io.nodeid ∧ r.repairs = s.io.fuses.length ∧
        r.hash = (if s.io.bootStage = 5 then Config.sha384 s.io.firmware else 0) ∧
        (s.io.bootStage = 5 → r.version = Config.imageVersion s.io.firmware) ∧
        r.edSign = Config.signature 0 [r.nonce, r.hash, r.version, r.node, r.repairs] ∧
        r.mlSign = Config.signature 1 [r.nonce, r.hash, r.version, r.node, r.repairs]) ∧
     (s.io.bootStage ≠ 5 → s.io.bootStage ≠ 0xE → exec .attestRequest s = .next s)) ∧
    (tripped s.msg.vals = false →
      (∃ t, exec .thermalSample s = .next t ∧ OnlyIo s t ∧ ∀ d, d < 8 →
        (100 ≤ s.msg.vals.getD d 97 → t.io.pwbudget.toList.getD d 0 = max 8 (s.io.pwbudget.toList.getD d 0 - 8)) ∧
        (95 ≤ s.msg.vals.getD d 97 → s.msg.vals.getD d 97 < 100 →
          t.io.pwbudget.toList.getD d 0 = s.io.pwbudget.toList.getD d 0)) ∧
      (∃ t u, exec .powerCapSet s = .next t ∧ OnlyIo s t ∧ 8 ≤ u ∧ u < 256 ∧ t.io.pwbudget = Vector.replicate 8 u)) ∧
    (tripped s.msg.vals = true → ∀ i, i = Instr.thermalSample ∨ i = Instr.powerCapSet →
      ∃ t, exec i s = .next t ∧ t.io.bootStage = 0 ∧ t.g = Group.reset ∧ t.others = [] ∧ t.launches = []) ∧
    (∀ u, countsErrors u = true → ErrorOf s u → ¬ RetireDue s u →
      ∃ t, exec .unitRetire s = .next t ∧ t = { s with io := { s.io with
        errors := (s.io.errors.filter (fun e => decide ((s.cycle - e.cycle).toNat < 2 ^ 32)))
          ++ [⟨u, s.msg.num, s.cycle, !s.msg.ok⟩] } }) ∧
    (∀ r, s.msg.err = .x s.g.gid r → s.msg.ok = false → s.g.live = true → r < 32 → NoQueueFor s (some s.g.launch) →
      ∃ t, exec .unitRetire s = .next t ∧ (r ≠ 0 → r ∈ t.g.xPoison) ∧ t.g.x = s.g.x ∧ t.pm = s.pm ∧ t.io = s.io) ∧
    (∀ slice set, ErrorOf s (.l2way slice set) → RetireDue s (.l2way slice set) → slice < 256 → set < 768 →
      NoDeviceQueue s → Memory.wf s.pm = true →
      s.io.fuses.length < 1024 →
      ∃ t, exec .unitRetire s = .next t ∧ t.io.fuses = s.io.fuses ++ [.l2way slice set] ∧ BytesKept s t ∧
        tabGet t.pm.waysLost (slice * 768 + set) 0 = min 16 (tabGet s.pm.waysLost (slice * 768 + set) 0 + 1)) ∧
    (∀ port lane, ErrorOf s (.serdes port lane) → RetireDue s (.serdes port lane) → port < 16 → lane < 9 →
      NoDeviceQueue s → s.io.fuses.length < 1024 →
      ∃ t, exec .unitRetire s = .next t ∧ t.io.fuses = s.io.fuses ++ [.serdes port lane] ∧
        t.io.repairs = s.io.repairs ++ [.serdes port lane] ∧ (portOf t port).lost = (portOf s port).lost + 1 ∧
        t.pm = s.pm ∧ t.g = s.g) ∧
    (∀ core phys, ErrorOf s (.lane core phys) → RetireDue s (.lane core phys) → core < 256 → phys < 68 → (coreOf s core).retired.contains phys = false →
      NoDeviceQueue s → s.io.fuses.length < 1024 → s.io.repairs = [] → affectedSlots (coreOf s core) phys = [] →
      ∃ t, exec .unitRetire s = .next t ∧ t.io.fuses = s.io.fuses ++ [.lane core phys] ∧ t.pm = s.pm ∧ t.g = s.g ∧
        phys ∈ (coreOf t core).retired ∧ t.io.repairs = []) ∧
    (∀ u stack n, u = .hbmRow stack n ∨ u = .pseudoChannel stack n → ErrorOf s u →
      exec .unitRetire s = .next { s with io := { s.io with repairs := s.io.repairs ++ [u] } }) ∧
    (∀ lane, .serdes s.msg.port lane ∈ s.io.repairs → tabWf s.io.ports = true →
      ∃ t, exec .retrainedOnSpare s = .next t ∧ OnlyIo s t ∧
        (portOf t s.msg.port).lanes = min 8 (9 - min 9 (portOf s s.msg.port).lost) ∧
        ∀ n, .serdes s.msg.port n ∉ t.io.repairs) ∧
    ((s.msg.die < 8 → s.io.maintOpen = none → ∃ t, exec .maintWindowOpen s = .next t ∧
        t.io.maintOpen = some s.msg.die ∧ t.pm = s.pm ∧
        (∀ g ∈ allGroups t, dieOf g.pl.core = s.msg.die → ∃ r, g.request = some r ∧ r.saves = true ∧
          (0 < s.io.maintWait → ∃ d, r.deadline = some d ∧ d ≤ s.cycle.toNat + s.io.maintWait)) ∧
        (dieEmpty s s.msg.die = true → s.msg.die ∈ t.io.testing)) ∧
     (s.io.maintOpen ≠ none → exec .maintWindowOpen s = .next s)) ∧
    (s.io.testing.contains s.msg.die = true → s.msg.found = [] → s.io.repairs = [] →
      ∃ t, exec .selfTestComplete s = .next t ∧ OnlyIo s t ∧ s.msg.die ∉ t.io.testing ∧
        t.io.maintOpen ≠ some s.msg.die)

/-- R201 to R208: words written out from the encoding tables are read as the instructions that they stand for. -/
def Obligations.DecodeWords : Prop :=
  -- add x3, x4, x5: major 0x01, fields 3, 4, 5, function 0.
  decodeControl 0b000001_00011_00100_00101_00000000000 = some (.add 3 4 5) ∧
  -- addi x1, x0, -1: major 0x02, imm16 0xFFFF.
  decodeControl 0b000010_00001_00000_1111111111111111 = some (.addi 1 0 0xFFFF) ∧
  -- ld.d x7, [x8 - 8]: major 0x12, width 3, off13 0x1FF8.
  decodeControl 0b010010_00111_01000_011_1111111111000 = some (.ldD 7 8 0x1FF8) ∧
  -- trap 0x123: major 0x16, number 0x123, function 2.
  decodeControl 0b010110_00000_00000_000100100011_0010 = some (.trap 0x123) ∧
  -- No row of the opcode table has major 0x00, whatever the other bits.
  (∀ w, w < 2 ^ 26 → decodeControl w = none)

/-- R218, R209, R215, R217, R297, R359: a group's turn fetches the word at its pc, decodes it and performs that
instruction, the illegal word as such; a turn of a vector queue performs the word at its head on the control thread as it
stood when the word entered; a unit's turn performs the unit's step. Which turn comes, and that a step that meets a line at
which it must wait is not performed yet, is the model's choice (log entries 2 and 119). -/
def Obligations.StepRuns : Prop :=
  ∀ s : State,
    (∀ wait t, (t.barred = false → finish wait (.next t) = .next t) ∧
      (t.barred = true → finish wait (.next t) = .next { wait with snoops := t.snoops })) ∧
    (∀ i m rest u, s.inputs = (i, m) :: rest → u = tick { s with inputs := rest } →
      let kept := { u with waiting := u.waiting ++ [(i, m)] }
      (waitsBehind u.waiting i m = true → step s = .next kept) ∧
      (waitsBehind u.waiting i m = false →
        (isUnitStep i = true → step s = finish kept (exec i (withMsg u m))) ∧
        (isUnitStep i = false → step s = .fault .noSuchUnit))) ∧
    (s.inputs = [] →
      (s.g.live = true → s.g.canRun = true → s.stalled = false → s.g.vq = [] → s.others = [] → s.waiting = [] →
        s.hostReads = [] → enabled s = [] → turnOf s = .run s.g.gid) ∧
      (∀ i m, turnOf s = .unit i m → isUnitStep i = true → step s = finish (tick s) (exec i (withMsg (tick s) m))) ∧
      (turnOf s = .idle → step s = .next (tick s)) ∧
      (∀ gid u e rest i more t, turnOf s = .queue gid → u = focus (tick s) gid → u.g.vq = e :: rest →
        e.words = i :: more → exec i { u with g := e.enter u.g } = .next t → t.stalled = false →
        (t.g.retired ≠ e.retired → step s = finish u (.next (afterHead t u.g e i more rest))) ∧
        (t.g.retired = e.retired → step s = finish u (.next t))) ∧
      (∀ gid u, turnOf s = .run gid → u = noteTurn (focus (tick s) gid) → u.g.vq = [] → ∀ w s1,
        fetchWord u (whoG u) u.g.pc.toNat = .word w s1 → ∀ s2,
        s2 = { s1 with g := { s1.g with external := false } } → queueHeld s2 = false →
        (decodeControl w = none → step s = finish { u with stalled := true } (exec .illegalInstruction s2)) ∧
        ∀ i, decodeControl w = some i →
          (bodyOnly i = true ∨ joins i = true ∧ s2.g.flow = .seq false →
            step s = finish { u with stalled := true } (exec .illegalInstruction s2)) ∧
          (bodyOnly i = false → (joins i = true → s2.g.flow ≠ .seq false) →
            (counts i = true → illegalHere s2 i = false → s2.g.tr.lev = false → s2.g.splimit < s2.g.spcount + 1 →
              step s = finish { u with stalled := true } (.next (trap s2 cSpDistance (BitVec.ofNat 64 s2.g.spcount)))) ∧
            (counts i = false ∨ illegalHere s2 i = true ∨ s2.g.tr.lev = true ∨ s2.g.spcount + 1 ≤ s2.g.splimit →
              (joins i = true → s2.g.flow = .seq true → step s = finish { u with stalled := true } (exec i s2)) ∧
              (convoyable i = false → s2.g.convoyLen = 0 → step s = finish { u with stalled := true } (exec i s2)) ∧
              (∀ l, convoyable i = true → joins i = false ∨ s2.g.flow = .jumped → s2.g.convoyLen = 0 →
                convoyHere s2 i = some l →
                (∀ k, convoyConflict s2.g l = some k →
                  step s = finish { u with stalled := true } (.next (trap s2 cConvoy (BitVec.ofNat 64 k)))) ∧
                (convoyConflict s2.g l = none → convoyLeave s2 l = none → step s = finish { u with stalled := true } (exec i
                  { s2 with seqServed := tabPut s2.seqServed s2.g.pl.core s2.g.pl.slot })))))))

/-- R18, R32, R64, R78, R87, R89, R90, R128, R134, R135, R243, R395, R404, R411, R414, R415, R427, R441, R444, R486, R493:
what the register tables give as values at reset, and the record that no group runs in at reset. That this record holds
the launch values, and that no line is present, is the model's choice (log entries 3 and 6). -/
def Obligations.ResetValues : Prop :=
  ∀ s, s = State.reset →
    (s.io.nodeid = 0 ∧ s.io.pounden = 0 ∧ s.io.astbase = 0 ∧ s.io.xinvacc = 0 ∧ s.io.xinvdone = 0 ∧ s.io.hfqBase = 0 ∧
      s.io.hfqProd = 0 ∧ s.io.hfqCons = 0 ∧ s.io.hfqLost = 0 ∧ s.io.hfutval = 0 ∧ s.io.hfutdone = 0) ∧
    (s.io.ctxacc = 0 ∧ s.io.ctxdone = 0 ∧ s.io.deverrq = 0 ∧ s.io.bootStage = 1 ∧ s.io.bootCode = 0 ∧ s.io.rcvaddr = 0 ∧
      s.io.rcvlen = 0 ∧ ∀ d, d < 8 → s.io.pwbudget.toList.getD d 0 = 64 ∧ s.io.pwheld.toList.getD d 0 = 0) ∧
    s.io.clerk = Clerk.reset ∧ s.cycle = 0 ∧
    (∀ c, (coreOf s c).lanepart = Vector.replicate 8 none ∧ (coreOf s c).lanemod = 64) ∧
    (∀ r, getX s r = 0) ∧
    (s.g.retired = 0 ∧ s.g.nackcnt = 0 ∧ s.g.splimit = 2048 ∧ s.g.spcount = 0 ∧ s.g.tr.tcause = 0 ∧ s.g.tr.tval = 0 ∧
      s.g.tr.tepc = 0 ∧ s.g.tr.lev = false ∧ s.g.tr.plev = false ∧ s.g.pl.rows = 1 ∧ s.g.pl.cols = 1 ∧
      s.g.vc.vl = 0 ∧ s.g.vc.vlmax = 0 ∧ s.g.vc.vstart = 0) ∧
    (∀ l, s.pm.present l = false)

/-- The canonical form of memory holds at reset. -/
def Obligations.ResetMemoryForm : Prop := Memory.wf State.reset.pm = true

/-- R201 to R208: the encoder and the decoder agree. Every instruction of the opcode table that has a word is read back
from it with every operand, as a word of the control thread or, for the three forms that only a body holds, of a body; and
every word that is read as an instruction is the word of that instruction, so that no two rows share a word and no bit of
a word is dropped. -/
def Obligations.DecodeEncode : Prop :=
  (∀ i w, encode i = some w → w < 2 ^ 32 ∧ decode (bodyOnly i) w = some i) ∧
  (∀ i w, encode i = some w → i.wellFormed = true → bodyOnly i = false → decodeControl w = some i) ∧
  (∀ b w i, w < 2 ^ 32 → decode b w = some i → encode i = some w)

/-- Whatever a step does, it keeps the canonical form of memory: in every list addresses strictly rise, no listed byte
equals what an unlisted address reads as, and no line is held twice. -/
def Obligations.StepKeepsMemoryForm : Prop :=
  ∀ s t, Memory.wf s.pm = true → step s = .next t → Memory.wf t.pm = true
end

