-- ==== Sys2Proof/Laws/State.lean ====
section
/-!
SUPPORT. What each named update of the state leaves alone: one lemma a field, true by unfolding.
-/

namespace Sys2Proof.Machine

@[simp] theorem setX_others (s : State) (r : Nat) (v : Word) : (setX s r v).others = s.others := by
  unfold setX; split <;> rfl
@[simp] theorem setX_saved (s : State) (r : Nat) (v : Word) : (setX s r v).saved = s.saved := by
  unfold setX; split <;> rfl
@[simp] theorem setX_pm (s : State) (r : Nat) (v : Word) : (setX s r v).pm = s.pm := by
  unfold setX; split <;> rfl
@[simp] theorem setX_sp (s : State) (r : Nat) (v : Word) : (setX s r v).sp = s.sp := by
  unfold setX; split <;> rfl
@[simp] theorem setX_xl (s : State) (r : Nat) (v : Word) : (setX s r v).xl = s.xl := by
  unfold setX; split <;> rfl
@[simp] theorem setX_ra (s : State) (r : Nat) (v : Word) : (setX s r v).ra = s.ra := by
  unfold setX; split <;> rfl
@[simp] theorem setX_chains (s : State) (r : Nat) (v : Word) : (setX s r v).chains = s.chains := by
  unfold setX; split <;> rfl
@[simp] theorem setX_futs (s : State) (r : Nat) (v : Word) : (setX s r v).futs = s.futs := by
  unfold setX; split <;> rfl
@[simp] theorem setX_sent (s : State) (r : Nat) (v : Word) : (setX s r v).sent = s.sent := by
  unfold setX; split <;> rfl
@[simp] theorem setX_eng (s : State) (r : Nat) (v : Word) : (setX s r v).eng = s.eng := by
  unfold setX; split <;> rfl
@[simp] theorem setX_cores (s : State) (r : Nat) (v : Word) : (setX s r v).cores = s.cores := by
  unfold setX; split <;> rfl
@[simp] theorem setX_served (s : State) (r : Nat) (v : Word) : (setX s r v).served = s.served := by
  unfold setX; split <;> rfl
@[simp] theorem setX_seqServed (s : State) (r : Nat) (v : Word) : (setX s r v).seqServed = s.seqServed := by
  unfold setX; split <;> rfl
@[simp] theorem setX_passed (s : State) (r : Nat) (v : Word) : (setX s r v).passed = s.passed := by
  unfold setX; split <;> rfl
@[simp] theorem setX_teams (s : State) (r : Nat) (v : Word) : (setX s r v).teams = s.teams := by
  unfold setX; split <;> rfl
@[simp] theorem setX_clusters (s : State) (r : Nat) (v : Word) : (setX s r v).clusters = s.clusters := by
  unfold setX; split <;> rfl
@[simp] theorem setX_channels (s : State) (r : Nat) (v : Word) : (setX s r v).channels = s.channels := by
  unfold setX; split <;> rfl
@[simp] theorem setX_posts (s : State) (r : Nat) (v : Word) : (setX s r v).posts = s.posts := by
  unfold setX; split <;> rfl
@[simp] theorem setX_granules (s : State) (r : Nat) (v : Word) : (setX s r v).granules = s.granules := by
  unfold setX; split <;> rfl
@[simp] theorem setX_launches (s : State) (r : Nat) (v : Word) : (setX s r v).launches = s.launches := by
  unfold setX; split <;> rfl
@[simp] theorem setX_nextLaunch (s : State) (r : Nat) (v : Word) : (setX s r v).nextLaunch = s.nextLaunch := by
  unfold setX; split <;> rfl
@[simp] theorem setX_io (s : State) (r : Nat) (v : Word) : (setX s r v).io = s.io := by
  unfold setX; split <;> rfl
@[simp] theorem setX_cycle (s : State) (r : Nat) (v : Word) : (setX s r v).cycle = s.cycle := by
  unfold setX; split <;> rfl
@[simp] theorem setX_clock (s : State) (r : Nat) (v : Word) : (setX s r v).clock = s.clock := by
  unfold setX; split <;> rfl
@[simp] theorem setX_inputs (s : State) (r : Nat) (v : Word) : (setX s r v).inputs = s.inputs := by
  unfold setX; split <;> rfl
@[simp] theorem setX_msg (s : State) (r : Nat) (v : Word) : (setX s r v).msg = s.msg := by
  unfold setX; split <;> rfl
@[simp] theorem setX_stalled (s : State) (r : Nat) (v : Word) : (setX s r v).stalled = s.stalled := by
  unfold setX; split <;> rfl
@[simp] theorem setX_barred (s : State) (r : Nat) (v : Word) : (setX s r v).barred = s.barred := by
  unfold setX; split <;> rfl
@[simp] theorem setX_hostReads (s : State) (r : Nat) (v : Word) : (setX s r v).hostReads = s.hostReads := by
  unfold setX; split <;> rfl
@[simp] theorem setX_snoops (s : State) (r : Nat) (v : Word) : (setX s r v).snoops = s.snoops := by
  unfold setX; split <;> rfl
@[simp] theorem setX_waiting (s : State) (r : Nat) (v : Word) : (setX s r v).waiting = s.waiting := by
  unfold setX; split <;> rfl
@[simp] theorem setX_answer (s : State) (r : Nat) (v : Word) : (setX s r v).answer = s.answer := by
  unfold setX; split <;> rfl

@[simp] theorem setCore_g (s : State) (c : Nat) (k : Core) : (setCore s c k).g = s.g := rfl
@[simp] theorem setCore_others (s : State) (c : Nat) (k : Core) : (setCore s c k).others = s.others := rfl
@[simp] theorem setCore_saved (s : State) (c : Nat) (k : Core) : (setCore s c k).saved = s.saved := rfl
@[simp] theorem setCore_pm (s : State) (c : Nat) (k : Core) : (setCore s c k).pm = s.pm := rfl
@[simp] theorem setCore_sp (s : State) (c : Nat) (k : Core) : (setCore s c k).sp = s.sp := rfl
@[simp] theorem setCore_xl (s : State) (c : Nat) (k : Core) : (setCore s c k).xl = s.xl := rfl
@[simp] theorem setCore_ra (s : State) (c : Nat) (k : Core) : (setCore s c k).ra = s.ra := rfl
@[simp] theorem setCore_chains (s : State) (c : Nat) (k : Core) : (setCore s c k).chains = s.chains := rfl
@[simp] theorem setCore_futs (s : State) (c : Nat) (k : Core) : (setCore s c k).futs = s.futs := rfl
@[simp] theorem setCore_sent (s : State) (c : Nat) (k : Core) : (setCore s c k).sent = s.sent := rfl
@[simp] theorem setCore_eng (s : State) (c : Nat) (k : Core) : (setCore s c k).eng = s.eng := rfl
@[simp] theorem setCore_served (s : State) (c : Nat) (k : Core) : (setCore s c k).served = s.served := rfl
@[simp] theorem setCore_seqServed (s : State) (c : Nat) (k : Core) : (setCore s c k).seqServed = s.seqServed := rfl
@[simp] theorem setCore_passed (s : State) (c : Nat) (k : Core) : (setCore s c k).passed = s.passed := rfl
@[simp] theorem setCore_teams (s : State) (c : Nat) (k : Core) : (setCore s c k).teams = s.teams := rfl
@[simp] theorem setCore_clusters (s : State) (c : Nat) (k : Core) : (setCore s c k).clusters = s.clusters := rfl
@[simp] theorem setCore_channels (s : State) (c : Nat) (k : Core) : (setCore s c k).channels = s.channels := rfl
@[simp] theorem setCore_posts (s : State) (c : Nat) (k : Core) : (setCore s c k).posts = s.posts := rfl
@[simp] theorem setCore_granules (s : State) (c : Nat) (k : Core) : (setCore s c k).granules = s.granules := rfl
@[simp] theorem setCore_launches (s : State) (c : Nat) (k : Core) : (setCore s c k).launches = s.launches := rfl
@[simp] theorem setCore_nextLaunch (s : State) (c : Nat) (k : Core) : (setCore s c k).nextLaunch = s.nextLaunch := rfl
@[simp] theorem setCore_io (s : State) (c : Nat) (k : Core) : (setCore s c k).io = s.io := rfl
@[simp] theorem setCore_cycle (s : State) (c : Nat) (k : Core) : (setCore s c k).cycle = s.cycle := rfl
@[simp] theorem setCore_clock (s : State) (c : Nat) (k : Core) : (setCore s c k).clock = s.clock := rfl
@[simp] theorem setCore_freeCtr (s : State) (c : Nat) (k : Core) : (setCore s c k).freeCtr = s.freeCtr := rfl
@[simp] theorem setCore_inputs (s : State) (c : Nat) (k : Core) : (setCore s c k).inputs = s.inputs := rfl
@[simp] theorem setCore_msg (s : State) (c : Nat) (k : Core) : (setCore s c k).msg = s.msg := rfl
@[simp] theorem setCore_stalled (s : State) (c : Nat) (k : Core) : (setCore s c k).stalled = s.stalled := rfl
@[simp] theorem setCore_barred (s : State) (c : Nat) (k : Core) : (setCore s c k).barred = s.barred := rfl
@[simp] theorem setCore_hostReads (s : State) (c : Nat) (k : Core) : (setCore s c k).hostReads = s.hostReads := rfl
@[simp] theorem setCore_snoops (s : State) (c : Nat) (k : Core) : (setCore s c k).snoops = s.snoops := rfl
@[simp] theorem setCore_waiting (s : State) (c : Nat) (k : Core) : (setCore s c k).waiting = s.waiting := rfl
@[simp] theorem setCore_answer (s : State) (c : Nat) (k : Core) : (setCore s c k).answer = s.answer := rfl

@[simp] theorem retireAs_others (s : State) (conv : Bool) : (retireAs s conv).others = s.others := rfl
@[simp] theorem retireAs_saved (s : State) (conv : Bool) : (retireAs s conv).saved = s.saved := rfl
@[simp] theorem retireAs_pm (s : State) (conv : Bool) : (retireAs s conv).pm = s.pm := rfl
@[simp] theorem retireAs_sp (s : State) (conv : Bool) : (retireAs s conv).sp = s.sp := rfl
@[simp] theorem retireAs_xl (s : State) (conv : Bool) : (retireAs s conv).xl = s.xl := rfl
@[simp] theorem retireAs_ra (s : State) (conv : Bool) : (retireAs s conv).ra = s.ra := rfl
@[simp] theorem retireAs_chains (s : State) (conv : Bool) : (retireAs s conv).chains = s.chains := rfl
@[simp] theorem retireAs_futs (s : State) (conv : Bool) : (retireAs s conv).futs = s.futs := rfl
@[simp] theorem retireAs_sent (s : State) (conv : Bool) : (retireAs s conv).sent = s.sent := rfl
@[simp] theorem retireAs_eng (s : State) (conv : Bool) : (retireAs s conv).eng = s.eng := rfl
@[simp] theorem retireAs_cores (s : State) (conv : Bool) : (retireAs s conv).cores = s.cores := rfl
@[simp] theorem retireAs_served (s : State) (conv : Bool) : (retireAs s conv).served = s.served := rfl
@[simp] theorem retireAs_seqServed (s : State) (conv : Bool) : (retireAs s conv).seqServed = s.seqServed := rfl
@[simp] theorem retireAs_passed (s : State) (conv : Bool) : (retireAs s conv).passed = s.passed := rfl
@[simp] theorem retireAs_teams (s : State) (conv : Bool) : (retireAs s conv).teams = s.teams := rfl
@[simp] theorem retireAs_clusters (s : State) (conv : Bool) : (retireAs s conv).clusters = s.clusters := rfl
@[simp] theorem retireAs_channels (s : State) (conv : Bool) : (retireAs s conv).channels = s.channels := rfl
@[simp] theorem retireAs_posts (s : State) (conv : Bool) : (retireAs s conv).posts = s.posts := rfl
@[simp] theorem retireAs_granules (s : State) (conv : Bool) : (retireAs s conv).granules = s.granules := rfl
@[simp] theorem retireAs_launches (s : State) (conv : Bool) : (retireAs s conv).launches = s.launches := rfl
@[simp] theorem retireAs_nextLaunch (s : State) (conv : Bool) : (retireAs s conv).nextLaunch = s.nextLaunch := rfl
@[simp] theorem retireAs_io (s : State) (conv : Bool) : (retireAs s conv).io = s.io := rfl
@[simp] theorem retireAs_cycle (s : State) (conv : Bool) : (retireAs s conv).cycle = s.cycle := rfl
@[simp] theorem retireAs_clock (s : State) (conv : Bool) : (retireAs s conv).clock = s.clock := rfl
@[simp] theorem retireAs_freeCtr (s : State) (conv : Bool) : (retireAs s conv).freeCtr = s.freeCtr := rfl
@[simp] theorem retireAs_inputs (s : State) (conv : Bool) : (retireAs s conv).inputs = s.inputs := rfl
@[simp] theorem retireAs_msg (s : State) (conv : Bool) : (retireAs s conv).msg = s.msg := rfl
@[simp] theorem retireAs_barred (s : State) (conv : Bool) : (retireAs s conv).barred = s.barred := rfl
@[simp] theorem retireAs_hostReads (s : State) (conv : Bool) : (retireAs s conv).hostReads = s.hostReads := rfl
@[simp] theorem retireAs_snoops (s : State) (conv : Bool) : (retireAs s conv).snoops = s.snoops := rfl
@[simp] theorem retireAs_waiting (s : State) (conv : Bool) : (retireAs s conv).waiting = s.waiting := rfl
@[simp] theorem retireAs_answer (s : State) (conv : Bool) : (retireAs s conv).answer = s.answer := rfl

@[simp] theorem retire_others (s : State) : (retire s).others = s.others := rfl
@[simp] theorem retire_saved (s : State) : (retire s).saved = s.saved := rfl
@[simp] theorem retire_pm (s : State) : (retire s).pm = s.pm := rfl
@[simp] theorem retire_sp (s : State) : (retire s).sp = s.sp := rfl
@[simp] theorem retire_xl (s : State) : (retire s).xl = s.xl := rfl
@[simp] theorem retire_ra (s : State) : (retire s).ra = s.ra := rfl
@[simp] theorem retire_chains (s : State) : (retire s).chains = s.chains := rfl
@[simp] theorem retire_futs (s : State) : (retire s).futs = s.futs := rfl
@[simp] theorem retire_sent (s : State) : (retire s).sent = s.sent := rfl
@[simp] theorem retire_eng (s : State) : (retire s).eng = s.eng := rfl
@[simp] theorem retire_cores (s : State) : (retire s).cores = s.cores := rfl
@[simp] theorem retire_served (s : State) : (retire s).served = s.served := rfl
@[simp] theorem retire_seqServed (s : State) : (retire s).seqServed = s.seqServed := rfl
@[simp] theorem retire_passed (s : State) : (retire s).passed = s.passed := rfl
@[simp] theorem retire_teams (s : State) : (retire s).teams = s.teams := rfl
@[simp] theorem retire_clusters (s : State) : (retire s).clusters = s.clusters := rfl
@[simp] theorem retire_channels (s : State) : (retire s).channels = s.channels := rfl
@[simp] theorem retire_posts (s : State) : (retire s).posts = s.posts := rfl
@[simp] theorem retire_granules (s : State) : (retire s).granules = s.granules := rfl
@[simp] theorem retire_launches (s : State) : (retire s).launches = s.launches := rfl
@[simp] theorem retire_nextLaunch (s : State) : (retire s).nextLaunch = s.nextLaunch := rfl
@[simp] theorem retire_io (s : State) : (retire s).io = s.io := rfl
@[simp] theorem retire_cycle (s : State) : (retire s).cycle = s.cycle := rfl
@[simp] theorem retire_clock (s : State) : (retire s).clock = s.clock := rfl
@[simp] theorem retire_freeCtr (s : State) : (retire s).freeCtr = s.freeCtr := rfl
@[simp] theorem retire_inputs (s : State) : (retire s).inputs = s.inputs := rfl
@[simp] theorem retire_msg (s : State) : (retire s).msg = s.msg := rfl
@[simp] theorem retire_barred (s : State) : (retire s).barred = s.barred := rfl
@[simp] theorem retire_hostReads (s : State) : (retire s).hostReads = s.hostReads := rfl
@[simp] theorem retire_snoops (s : State) : (retire s).snoops = s.snoops := rfl
@[simp] theorem retire_waiting (s : State) : (retire s).waiting = s.waiting := rfl
@[simp] theorem retire_answer (s : State) : (retire s).answer = s.answer := rfl

@[simp] theorem retireV_others (s : State) : (retireV s).others = s.others := rfl
@[simp] theorem retireV_saved (s : State) : (retireV s).saved = s.saved := rfl
@[simp] theorem retireV_pm (s : State) : (retireV s).pm = s.pm := rfl
@[simp] theorem retireV_sp (s : State) : (retireV s).sp = s.sp := rfl
@[simp] theorem retireV_xl (s : State) : (retireV s).xl = s.xl := rfl
@[simp] theorem retireV_ra (s : State) : (retireV s).ra = s.ra := rfl
@[simp] theorem retireV_chains (s : State) : (retireV s).chains = s.chains := rfl
@[simp] theorem retireV_futs (s : State) : (retireV s).futs = s.futs := rfl
@[simp] theorem retireV_sent (s : State) : (retireV s).sent = s.sent := rfl
@[simp] theorem retireV_eng (s : State) : (retireV s).eng = s.eng := rfl
@[simp] theorem retireV_cores (s : State) : (retireV s).cores = s.cores := rfl
@[simp] theorem retireV_served (s : State) : (retireV s).served = s.served := rfl
@[simp] theorem retireV_seqServed (s : State) : (retireV s).seqServed = s.seqServed := rfl
@[simp] theorem retireV_passed (s : State) : (retireV s).passed = s.passed := rfl
@[simp] theorem retireV_teams (s : State) : (retireV s).teams = s.teams := rfl
@[simp] theorem retireV_clusters (s : State) : (retireV s).clusters = s.clusters := rfl
@[simp] theorem retireV_channels (s : State) : (retireV s).channels = s.channels := rfl
@[simp] theorem retireV_posts (s : State) : (retireV s).posts = s.posts := rfl
@[simp] theorem retireV_granules (s : State) : (retireV s).granules = s.granules := rfl
@[simp] theorem retireV_launches (s : State) : (retireV s).launches = s.launches := rfl
@[simp] theorem retireV_nextLaunch (s : State) : (retireV s).nextLaunch = s.nextLaunch := rfl
@[simp] theorem retireV_io (s : State) : (retireV s).io = s.io := rfl
@[simp] theorem retireV_cycle (s : State) : (retireV s).cycle = s.cycle := rfl
@[simp] theorem retireV_clock (s : State) : (retireV s).clock = s.clock := rfl
@[simp] theorem retireV_freeCtr (s : State) : (retireV s).freeCtr = s.freeCtr := rfl
@[simp] theorem retireV_inputs (s : State) : (retireV s).inputs = s.inputs := rfl
@[simp] theorem retireV_msg (s : State) : (retireV s).msg = s.msg := rfl
@[simp] theorem retireV_barred (s : State) : (retireV s).barred = s.barred := rfl
@[simp] theorem retireV_hostReads (s : State) : (retireV s).hostReads = s.hostReads := rfl
@[simp] theorem retireV_snoops (s : State) : (retireV s).snoops = s.snoops := rfl
@[simp] theorem retireV_waiting (s : State) : (retireV s).waiting = s.waiting := rfl
@[simp] theorem retireV_answer (s : State) : (retireV s).answer = s.answer := rfl

@[simp] theorem retireTo_others (s : State) (t : Word) : (retireTo s t).others = s.others := rfl
@[simp] theorem retireTo_saved (s : State) (t : Word) : (retireTo s t).saved = s.saved := rfl
@[simp] theorem retireTo_pm (s : State) (t : Word) : (retireTo s t).pm = s.pm := rfl
@[simp] theorem retireTo_sp (s : State) (t : Word) : (retireTo s t).sp = s.sp := rfl
@[simp] theorem retireTo_xl (s : State) (t : Word) : (retireTo s t).xl = s.xl := rfl
@[simp] theorem retireTo_ra (s : State) (t : Word) : (retireTo s t).ra = s.ra := rfl
@[simp] theorem retireTo_chains (s : State) (t : Word) : (retireTo s t).chains = s.chains := rfl
@[simp] theorem retireTo_futs (s : State) (t : Word) : (retireTo s t).futs = s.futs := rfl
@[simp] theorem retireTo_sent (s : State) (t : Word) : (retireTo s t).sent = s.sent := rfl
@[simp] theorem retireTo_eng (s : State) (t : Word) : (retireTo s t).eng = s.eng := rfl
@[simp] theorem retireTo_cores (s : State) (t : Word) : (retireTo s t).cores = s.cores := rfl
@[simp] theorem retireTo_served (s : State) (t : Word) : (retireTo s t).served = s.served := rfl
@[simp] theorem retireTo_seqServed (s : State) (t : Word) : (retireTo s t).seqServed = s.seqServed := rfl
@[simp] theorem retireTo_passed (s : State) (t : Word) : (retireTo s t).passed = s.passed := rfl
@[simp] theorem retireTo_teams (s : State) (t : Word) : (retireTo s t).teams = s.teams := rfl
@[simp] theorem retireTo_clusters (s : State) (t : Word) : (retireTo s t).clusters = s.clusters := rfl
@[simp] theorem retireTo_channels (s : State) (t : Word) : (retireTo s t).channels = s.channels := rfl
@[simp] theorem retireTo_posts (s : State) (t : Word) : (retireTo s t).posts = s.posts := rfl
@[simp] theorem retireTo_granules (s : State) (t : Word) : (retireTo s t).granules = s.granules := rfl
@[simp] theorem retireTo_launches (s : State) (t : Word) : (retireTo s t).launches = s.launches := rfl
@[simp] theorem retireTo_nextLaunch (s : State) (t : Word) : (retireTo s t).nextLaunch = s.nextLaunch := rfl
@[simp] theorem retireTo_io (s : State) (t : Word) : (retireTo s t).io = s.io := rfl
@[simp] theorem retireTo_cycle (s : State) (t : Word) : (retireTo s t).cycle = s.cycle := rfl
@[simp] theorem retireTo_clock (s : State) (t : Word) : (retireTo s t).clock = s.clock := rfl
@[simp] theorem retireTo_freeCtr (s : State) (t : Word) : (retireTo s t).freeCtr = s.freeCtr := rfl
@[simp] theorem retireTo_inputs (s : State) (t : Word) : (retireTo s t).inputs = s.inputs := rfl
@[simp] theorem retireTo_msg (s : State) (t : Word) : (retireTo s t).msg = s.msg := rfl
@[simp] theorem retireTo_barred (s : State) (t : Word) : (retireTo s t).barred = s.barred := rfl
@[simp] theorem retireTo_hostReads (s : State) (t : Word) : (retireTo s t).hostReads = s.hostReads := rfl
@[simp] theorem retireTo_snoops (s : State) (t : Word) : (retireTo s t).snoops = s.snoops := rfl
@[simp] theorem retireTo_waiting (s : State) (t : Word) : (retireTo s t).waiting = s.waiting := rfl
@[simp] theorem retireTo_answer (s : State) (t : Word) : (retireTo s t).answer = s.answer := rfl

@[simp] theorem waitHere_g (s : State) : (waitHere s).g = s.g := rfl
@[simp] theorem waitHere_others (s : State) : (waitHere s).others = s.others := rfl
@[simp] theorem waitHere_saved (s : State) : (waitHere s).saved = s.saved := rfl
@[simp] theorem waitHere_pm (s : State) : (waitHere s).pm = s.pm := rfl
@[simp] theorem waitHere_sp (s : State) : (waitHere s).sp = s.sp := rfl
@[simp] theorem waitHere_xl (s : State) : (waitHere s).xl = s.xl := rfl
@[simp] theorem waitHere_ra (s : State) : (waitHere s).ra = s.ra := rfl
@[simp] theorem waitHere_chains (s : State) : (waitHere s).chains = s.chains := rfl
@[simp] theorem waitHere_futs (s : State) : (waitHere s).futs = s.futs := rfl
@[simp] theorem waitHere_sent (s : State) : (waitHere s).sent = s.sent := rfl
@[simp] theorem waitHere_eng (s : State) : (waitHere s).eng = s.eng := rfl
@[simp] theorem waitHere_cores (s : State) : (waitHere s).cores = s.cores := rfl
@[simp] theorem waitHere_served (s : State) : (waitHere s).served = s.served := rfl
@[simp] theorem waitHere_seqServed (s : State) : (waitHere s).seqServed = s.seqServed := rfl
@[simp] theorem waitHere_passed (s : State) : (waitHere s).passed = s.passed := rfl
@[simp] theorem waitHere_teams (s : State) : (waitHere s).teams = s.teams := rfl
@[simp] theorem waitHere_clusters (s : State) : (waitHere s).clusters = s.clusters := rfl
@[simp] theorem waitHere_channels (s : State) : (waitHere s).channels = s.channels := rfl
@[simp] theorem waitHere_posts (s : State) : (waitHere s).posts = s.posts := rfl
@[simp] theorem waitHere_granules (s : State) : (waitHere s).granules = s.granules := rfl
@[simp] theorem waitHere_launches (s : State) : (waitHere s).launches = s.launches := rfl
@[simp] theorem waitHere_nextLaunch (s : State) : (waitHere s).nextLaunch = s.nextLaunch := rfl
@[simp] theorem waitHere_io (s : State) : (waitHere s).io = s.io := rfl
@[simp] theorem waitHere_cycle (s : State) : (waitHere s).cycle = s.cycle := rfl
@[simp] theorem waitHere_clock (s : State) : (waitHere s).clock = s.clock := rfl
@[simp] theorem waitHere_freeCtr (s : State) : (waitHere s).freeCtr = s.freeCtr := rfl
@[simp] theorem waitHere_inputs (s : State) : (waitHere s).inputs = s.inputs := rfl
@[simp] theorem waitHere_msg (s : State) : (waitHere s).msg = s.msg := rfl
@[simp] theorem waitHere_barred (s : State) : (waitHere s).barred = s.barred := rfl
@[simp] theorem waitHere_hostReads (s : State) : (waitHere s).hostReads = s.hostReads := rfl
@[simp] theorem waitHere_snoops (s : State) : (waitHere s).snoops = s.snoops := rfl
@[simp] theorem waitHere_waiting (s : State) : (waitHere s).waiting = s.waiting := rfl
@[simp] theorem waitHere_answer (s : State) : (waitHere s).answer = s.answer := rfl

@[simp] theorem updToken_others (s : State) (k : Nat) (f : Token → Token) : (updToken s k f).others = s.others := rfl
@[simp] theorem updToken_saved (s : State) (k : Nat) (f : Token → Token) : (updToken s k f).saved = s.saved := rfl
@[simp] theorem updToken_pm (s : State) (k : Nat) (f : Token → Token) : (updToken s k f).pm = s.pm := rfl
@[simp] theorem updToken_sp (s : State) (k : Nat) (f : Token → Token) : (updToken s k f).sp = s.sp := rfl
@[simp] theorem updToken_xl (s : State) (k : Nat) (f : Token → Token) : (updToken s k f).xl = s.xl := rfl
@[simp] theorem updToken_ra (s : State) (k : Nat) (f : Token → Token) : (updToken s k f).ra = s.ra := rfl
@[simp] theorem updToken_chains (s : State) (k : Nat) (f : Token → Token) : (updToken s k f).chains = s.chains := rfl
@[simp] theorem updToken_futs (s : State) (k : Nat) (f : Token → Token) : (updToken s k f).futs = s.futs := rfl
@[simp] theorem updToken_sent (s : State) (k : Nat) (f : Token → Token) : (updToken s k f).sent = s.sent := rfl
@[simp] theorem updToken_eng (s : State) (k : Nat) (f : Token → Token) : (updToken s k f).eng = s.eng := rfl
@[simp] theorem updToken_cores (s : State) (k : Nat) (f : Token → Token) : (updToken s k f).cores = s.cores := rfl
@[simp] theorem updToken_served (s : State) (k : Nat) (f : Token → Token) : (updToken s k f).served = s.served := rfl
@[simp] theorem updToken_seqServed (s : State) (k : Nat) (f : Token → Token) : (updToken s k f).seqServed = s.seqServed := rfl
@[simp] theorem updToken_passed (s : State) (k : Nat) (f : Token → Token) : (updToken s k f).passed = s.passed := rfl
@[simp] theorem updToken_teams (s : State) (k : Nat) (f : Token → Token) : (updToken s k f).teams = s.teams := rfl
@[simp] theorem updToken_clusters (s : State) (k : Nat) (f : Token → Token) : (updToken s k f).clusters = s.clusters := rfl
@[simp] theorem updToken_channels (s : State) (k : Nat) (f : Token → Token) : (updToken s k f).channels = s.channels := rfl
@[simp] theorem updToken_posts (s : State) (k : Nat) (f : Token → Token) : (updToken s k f).posts = s.posts := rfl
@[simp] theorem updToken_granules (s : State) (k : Nat) (f : Token → Token) : (updToken s k f).granules = s.granules := rfl
@[simp] theorem updToken_launches (s : State) (k : Nat) (f : Token → Token) : (updToken s k f).launches = s.launches := rfl
@[simp] theorem updToken_nextLaunch (s : State) (k : Nat) (f : Token → Token) : (updToken s k f).nextLaunch = s.nextLaunch := rfl
@[simp] theorem updToken_io (s : State) (k : Nat) (f : Token → Token) : (updToken s k f).io = s.io := rfl
@[simp] theorem updToken_cycle (s : State) (k : Nat) (f : Token → Token) : (updToken s k f).cycle = s.cycle := rfl
@[simp] theorem updToken_clock (s : State) (k : Nat) (f : Token → Token) : (updToken s k f).clock = s.clock := rfl
@[simp] theorem updToken_freeCtr (s : State) (k : Nat) (f : Token → Token) : (updToken s k f).freeCtr = s.freeCtr := rfl
@[simp] theorem updToken_inputs (s : State) (k : Nat) (f : Token → Token) : (updToken s k f).inputs = s.inputs := rfl
@[simp] theorem updToken_msg (s : State) (k : Nat) (f : Token → Token) : (updToken s k f).msg = s.msg := rfl
@[simp] theorem updToken_stalled (s : State) (k : Nat) (f : Token → Token) : (updToken s k f).stalled = s.stalled := rfl
@[simp] theorem updToken_barred (s : State) (k : Nat) (f : Token → Token) : (updToken s k f).barred = s.barred := rfl
@[simp] theorem updToken_hostReads (s : State) (k : Nat) (f : Token → Token) : (updToken s k f).hostReads = s.hostReads := rfl
@[simp] theorem updToken_snoops (s : State) (k : Nat) (f : Token → Token) : (updToken s k f).snoops = s.snoops := rfl
@[simp] theorem updToken_waiting (s : State) (k : Nat) (f : Token → Token) : (updToken s k f).waiting = s.waiting := rfl
@[simp] theorem updToken_answer (s : State) (k : Nat) (f : Token → Token) : (updToken s k f).answer = s.answer := rfl

@[simp] theorem updLaunch_g (s : State) (id : Nat) (f : Launch → Launch) : (updLaunch s id f).g = s.g := rfl
@[simp] theorem updLaunch_others (s : State) (id : Nat) (f : Launch → Launch) : (updLaunch s id f).others = s.others := rfl
@[simp] theorem updLaunch_saved (s : State) (id : Nat) (f : Launch → Launch) : (updLaunch s id f).saved = s.saved := rfl
@[simp] theorem updLaunch_pm (s : State) (id : Nat) (f : Launch → Launch) : (updLaunch s id f).pm = s.pm := rfl
@[simp] theorem updLaunch_sp (s : State) (id : Nat) (f : Launch → Launch) : (updLaunch s id f).sp = s.sp := rfl
@[simp] theorem updLaunch_xl (s : State) (id : Nat) (f : Launch → Launch) : (updLaunch s id f).xl = s.xl := rfl
@[simp] theorem updLaunch_ra (s : State) (id : Nat) (f : Launch → Launch) : (updLaunch s id f).ra = s.ra := rfl
@[simp] theorem updLaunch_chains (s : State) (id : Nat) (f : Launch → Launch) : (updLaunch s id f).chains = s.chains := rfl
@[simp] theorem updLaunch_futs (s : State) (id : Nat) (f : Launch → Launch) : (updLaunch s id f).futs = s.futs := rfl
@[simp] theorem updLaunch_sent (s : State) (id : Nat) (f : Launch → Launch) : (updLaunch s id f).sent = s.sent := rfl
@[simp] theorem updLaunch_eng (s : State) (id : Nat) (f : Launch → Launch) : (updLaunch s id f).eng = s.eng := rfl
@[simp] theorem updLaunch_cores (s : State) (id : Nat) (f : Launch → Launch) : (updLaunch s id f).cores = s.cores := rfl
@[simp] theorem updLaunch_served (s : State) (id : Nat) (f : Launch → Launch) : (updLaunch s id f).served = s.served := rfl
@[simp] theorem updLaunch_seqServed (s : State) (id : Nat) (f : Launch → Launch) : (updLaunch s id f).seqServed = s.seqServed := rfl
@[simp] theorem updLaunch_passed (s : State) (id : Nat) (f : Launch → Launch) : (updLaunch s id f).passed = s.passed := rfl
@[simp] theorem updLaunch_teams (s : State) (id : Nat) (f : Launch → Launch) : (updLaunch s id f).teams = s.teams := rfl
@[simp] theorem updLaunch_clusters (s : State) (id : Nat) (f : Launch → Launch) : (updLaunch s id f).clusters = s.clusters := rfl
@[simp] theorem updLaunch_channels (s : State) (id : Nat) (f : Launch → Launch) : (updLaunch s id f).channels = s.channels := rfl
@[simp] theorem updLaunch_posts (s : State) (id : Nat) (f : Launch → Launch) : (updLaunch s id f).posts = s.posts := rfl
@[simp] theorem updLaunch_granules (s : State) (id : Nat) (f : Launch → Launch) : (updLaunch s id f).granules = s.granules := rfl
@[simp] theorem updLaunch_nextLaunch (s : State) (id : Nat) (f : Launch → Launch) : (updLaunch s id f).nextLaunch = s.nextLaunch := rfl
@[simp] theorem updLaunch_io (s : State) (id : Nat) (f : Launch → Launch) : (updLaunch s id f).io = s.io := rfl
@[simp] theorem updLaunch_cycle (s : State) (id : Nat) (f : Launch → Launch) : (updLaunch s id f).cycle = s.cycle := rfl
@[simp] theorem updLaunch_clock (s : State) (id : Nat) (f : Launch → Launch) : (updLaunch s id f).clock = s.clock := rfl
@[simp] theorem updLaunch_freeCtr (s : State) (id : Nat) (f : Launch → Launch) : (updLaunch s id f).freeCtr = s.freeCtr := rfl
@[simp] theorem updLaunch_inputs (s : State) (id : Nat) (f : Launch → Launch) : (updLaunch s id f).inputs = s.inputs := rfl
@[simp] theorem updLaunch_msg (s : State) (id : Nat) (f : Launch → Launch) : (updLaunch s id f).msg = s.msg := rfl
@[simp] theorem updLaunch_stalled (s : State) (id : Nat) (f : Launch → Launch) : (updLaunch s id f).stalled = s.stalled := rfl
@[simp] theorem updLaunch_barred (s : State) (id : Nat) (f : Launch → Launch) : (updLaunch s id f).barred = s.barred := rfl
@[simp] theorem updLaunch_hostReads (s : State) (id : Nat) (f : Launch → Launch) : (updLaunch s id f).hostReads = s.hostReads := rfl
@[simp] theorem updLaunch_snoops (s : State) (id : Nat) (f : Launch → Launch) : (updLaunch s id f).snoops = s.snoops := rfl
@[simp] theorem updLaunch_waiting (s : State) (id : Nat) (f : Launch → Launch) : (updLaunch s id f).waiting = s.waiting := rfl
@[simp] theorem updLaunch_answer (s : State) (id : Nat) (f : Launch → Launch) : (updLaunch s id f).answer = s.answer := rfl

@[simp] theorem updGroups_saved (s : State) (p : Group → Bool) (f : Group → Group) : (updGroups s p f).saved = s.saved := rfl
@[simp] theorem updGroups_pm (s : State) (p : Group → Bool) (f : Group → Group) : (updGroups s p f).pm = s.pm := rfl
@[simp] theorem updGroups_sp (s : State) (p : Group → Bool) (f : Group → Group) : (updGroups s p f).sp = s.sp := rfl
@[simp] theorem updGroups_xl (s : State) (p : Group → Bool) (f : Group → Group) : (updGroups s p f).xl = s.xl := rfl
@[simp] theorem updGroups_ra (s : State) (p : Group → Bool) (f : Group → Group) : (updGroups s p f).ra = s.ra := rfl
@[simp] theorem updGroups_chains (s : State) (p : Group → Bool) (f : Group → Group) : (updGroups s p f).chains = s.chains := rfl
@[simp] theorem updGroups_futs (s : State) (p : Group → Bool) (f : Group → Group) : (updGroups s p f).futs = s.futs := rfl
@[simp] theorem updGroups_sent (s : State) (p : Group → Bool) (f : Group → Group) : (updGroups s p f).sent = s.sent := rfl
@[simp] theorem updGroups_eng (s : State) (p : Group → Bool) (f : Group → Group) : (updGroups s p f).eng = s.eng := rfl
@[simp] theorem updGroups_cores (s : State) (p : Group → Bool) (f : Group → Group) : (updGroups s p f).cores = s.cores := rfl
@[simp] theorem updGroups_served (s : State) (p : Group → Bool) (f : Group → Group) : (updGroups s p f).served = s.served := rfl
@[simp] theorem updGroups_seqServed (s : State) (p : Group → Bool) (f : Group → Group) : (updGroups s p f).seqServed = s.seqServed := rfl
@[simp] theorem updGroups_passed (s : State) (p : Group → Bool) (f : Group → Group) : (updGroups s p f).passed = s.passed := rfl
@[simp] theorem updGroups_teams (s : State) (p : Group → Bool) (f : Group → Group) : (updGroups s p f).teams = s.teams := rfl
@[simp] theorem updGroups_clusters (s : State) (p : Group → Bool) (f : Group → Group) : (updGroups s p f).clusters = s.clusters := rfl
@[simp] theorem updGroups_channels (s : State) (p : Group → Bool) (f : Group → Group) : (updGroups s p f).channels = s.channels := rfl
@[simp] theorem updGroups_posts (s : State) (p : Group → Bool) (f : Group → Group) : (updGroups s p f).posts = s.posts := rfl
@[simp] theorem updGroups_granules (s : State) (p : Group → Bool) (f : Group → Group) : (updGroups s p f).granules = s.granules := rfl
@[simp] theorem updGroups_launches (s : State) (p : Group → Bool) (f : Group → Group) : (updGroups s p f).launches = s.launches := rfl
@[simp] theorem updGroups_nextLaunch (s : State) (p : Group → Bool) (f : Group → Group) : (updGroups s p f).nextLaunch = s.nextLaunch := rfl
@[simp] theorem updGroups_io (s : State) (p : Group → Bool) (f : Group → Group) : (updGroups s p f).io = s.io := rfl
@[simp] theorem updGroups_cycle (s : State) (p : Group → Bool) (f : Group → Group) : (updGroups s p f).cycle = s.cycle := rfl
@[simp] theorem updGroups_clock (s : State) (p : Group → Bool) (f : Group → Group) : (updGroups s p f).clock = s.clock := rfl
@[simp] theorem updGroups_freeCtr (s : State) (p : Group → Bool) (f : Group → Group) : (updGroups s p f).freeCtr = s.freeCtr := rfl
@[simp] theorem updGroups_inputs (s : State) (p : Group → Bool) (f : Group → Group) : (updGroups s p f).inputs = s.inputs := rfl
@[simp] theorem updGroups_msg (s : State) (p : Group → Bool) (f : Group → Group) : (updGroups s p f).msg = s.msg := rfl
@[simp] theorem updGroups_stalled (s : State) (p : Group → Bool) (f : Group → Group) : (updGroups s p f).stalled = s.stalled := rfl
@[simp] theorem updGroups_barred (s : State) (p : Group → Bool) (f : Group → Group) : (updGroups s p f).barred = s.barred := rfl
@[simp] theorem updGroups_hostReads (s : State) (p : Group → Bool) (f : Group → Group) : (updGroups s p f).hostReads = s.hostReads := rfl
@[simp] theorem updGroups_snoops (s : State) (p : Group → Bool) (f : Group → Group) : (updGroups s p f).snoops = s.snoops := rfl
@[simp] theorem updGroups_waiting (s : State) (p : Group → Bool) (f : Group → Group) : (updGroups s p f).waiting = s.waiting := rfl
@[simp] theorem updGroups_answer (s : State) (p : Group → Bool) (f : Group → Group) : (updGroups s p f).answer = s.answer := rfl

@[simp] theorem setTr_others (s : State) (f : TrapRegs → TrapRegs) : (setTr s f).others = s.others := rfl
@[simp] theorem setTr_saved (s : State) (f : TrapRegs → TrapRegs) : (setTr s f).saved = s.saved := rfl
@[simp] theorem setTr_pm (s : State) (f : TrapRegs → TrapRegs) : (setTr s f).pm = s.pm := rfl
@[simp] theorem setTr_sp (s : State) (f : TrapRegs → TrapRegs) : (setTr s f).sp = s.sp := rfl
@[simp] theorem setTr_xl (s : State) (f : TrapRegs → TrapRegs) : (setTr s f).xl = s.xl := rfl
@[simp] theorem setTr_ra (s : State) (f : TrapRegs → TrapRegs) : (setTr s f).ra = s.ra := rfl
@[simp] theorem setTr_chains (s : State) (f : TrapRegs → TrapRegs) : (setTr s f).chains = s.chains := rfl
@[simp] theorem setTr_futs (s : State) (f : TrapRegs → TrapRegs) : (setTr s f).futs = s.futs := rfl
@[simp] theorem setTr_sent (s : State) (f : TrapRegs → TrapRegs) : (setTr s f).sent = s.sent := rfl
@[simp] theorem setTr_eng (s : State) (f : TrapRegs → TrapRegs) : (setTr s f).eng = s.eng := rfl
@[simp] theorem setTr_cores (s : State) (f : TrapRegs → TrapRegs) : (setTr s f).cores = s.cores := rfl
@[simp] theorem setTr_served (s : State) (f : TrapRegs → TrapRegs) : (setTr s f).served = s.served := rfl
@[simp] theorem setTr_seqServed (s : State) (f : TrapRegs → TrapRegs) : (setTr s f).seqServed = s.seqServed := rfl
@[simp] theorem setTr_passed (s : State) (f : TrapRegs → TrapRegs) : (setTr s f).passed = s.passed := rfl
@[simp] theorem setTr_teams (s : State) (f : TrapRegs → TrapRegs) : (setTr s f).teams = s.teams := rfl
@[simp] theorem setTr_clusters (s : State) (f : TrapRegs → TrapRegs) : (setTr s f).clusters = s.clusters := rfl
@[simp] theorem setTr_channels (s : State) (f : TrapRegs → TrapRegs) : (setTr s f).channels = s.channels := rfl
@[simp] theorem setTr_posts (s : State) (f : TrapRegs → TrapRegs) : (setTr s f).posts = s.posts := rfl
@[simp] theorem setTr_granules (s : State) (f : TrapRegs → TrapRegs) : (setTr s f).granules = s.granules := rfl
@[simp] theorem setTr_launches (s : State) (f : TrapRegs → TrapRegs) : (setTr s f).launches = s.launches := rfl
@[simp] theorem setTr_nextLaunch (s : State) (f : TrapRegs → TrapRegs) : (setTr s f).nextLaunch = s.nextLaunch := rfl
@[simp] theorem setTr_io (s : State) (f : TrapRegs → TrapRegs) : (setTr s f).io = s.io := rfl
@[simp] theorem setTr_cycle (s : State) (f : TrapRegs → TrapRegs) : (setTr s f).cycle = s.cycle := rfl
@[simp] theorem setTr_clock (s : State) (f : TrapRegs → TrapRegs) : (setTr s f).clock = s.clock := rfl
@[simp] theorem setTr_freeCtr (s : State) (f : TrapRegs → TrapRegs) : (setTr s f).freeCtr = s.freeCtr := rfl
@[simp] theorem setTr_inputs (s : State) (f : TrapRegs → TrapRegs) : (setTr s f).inputs = s.inputs := rfl
@[simp] theorem setTr_msg (s : State) (f : TrapRegs → TrapRegs) : (setTr s f).msg = s.msg := rfl
@[simp] theorem setTr_stalled (s : State) (f : TrapRegs → TrapRegs) : (setTr s f).stalled = s.stalled := rfl
@[simp] theorem setTr_barred (s : State) (f : TrapRegs → TrapRegs) : (setTr s f).barred = s.barred := rfl
@[simp] theorem setTr_hostReads (s : State) (f : TrapRegs → TrapRegs) : (setTr s f).hostReads = s.hostReads := rfl
@[simp] theorem setTr_snoops (s : State) (f : TrapRegs → TrapRegs) : (setTr s f).snoops = s.snoops := rfl
@[simp] theorem setTr_waiting (s : State) (f : TrapRegs → TrapRegs) : (setTr s f).waiting = s.waiting := rfl
@[simp] theorem setTr_answer (s : State) (f : TrapRegs → TrapRegs) : (setTr s f).answer = s.answer := rfl

@[simp] theorem setVc_others (s : State) (f : VecRegs → VecRegs) : (setVc s f).others = s.others := rfl
@[simp] theorem setVc_saved (s : State) (f : VecRegs → VecRegs) : (setVc s f).saved = s.saved := rfl
@[simp] theorem setVc_pm (s : State) (f : VecRegs → VecRegs) : (setVc s f).pm = s.pm := rfl
@[simp] theorem setVc_sp (s : State) (f : VecRegs → VecRegs) : (setVc s f).sp = s.sp := rfl
@[simp] theorem setVc_xl (s : State) (f : VecRegs → VecRegs) : (setVc s f).xl = s.xl := rfl
@[simp] theorem setVc_ra (s : State) (f : VecRegs → VecRegs) : (setVc s f).ra = s.ra := rfl
@[simp] theorem setVc_chains (s : State) (f : VecRegs → VecRegs) : (setVc s f).chains = s.chains := rfl
@[simp] theorem setVc_futs (s : State) (f : VecRegs → VecRegs) : (setVc s f).futs = s.futs := rfl
@[simp] theorem setVc_sent (s : State) (f : VecRegs → VecRegs) : (setVc s f).sent = s.sent := rfl
@[simp] theorem setVc_eng (s : State) (f : VecRegs → VecRegs) : (setVc s f).eng = s.eng := rfl
@[simp] theorem setVc_cores (s : State) (f : VecRegs → VecRegs) : (setVc s f).cores = s.cores := rfl
@[simp] theorem setVc_served (s : State) (f : VecRegs → VecRegs) : (setVc s f).served = s.served := rfl
@[simp] theorem setVc_seqServed (s : State) (f : VecRegs → VecRegs) : (setVc s f).seqServed = s.seqServed := rfl
@[simp] theorem setVc_passed (s : State) (f : VecRegs → VecRegs) : (setVc s f).passed = s.passed := rfl
@[simp] theorem setVc_teams (s : State) (f : VecRegs → VecRegs) : (setVc s f).teams = s.teams := rfl
@[simp] theorem setVc_clusters (s : State) (f : VecRegs → VecRegs) : (setVc s f).clusters = s.clusters := rfl
@[simp] theorem setVc_channels (s : State) (f : VecRegs → VecRegs) : (setVc s f).channels = s.channels := rfl
@[simp] theorem setVc_posts (s : State) (f : VecRegs → VecRegs) : (setVc s f).posts = s.posts := rfl
@[simp] theorem setVc_granules (s : State) (f : VecRegs → VecRegs) : (setVc s f).granules = s.granules := rfl
@[simp] theorem setVc_launches (s : State) (f : VecRegs → VecRegs) : (setVc s f).launches = s.launches := rfl
@[simp] theorem setVc_nextLaunch (s : State) (f : VecRegs → VecRegs) : (setVc s f).nextLaunch = s.nextLaunch := rfl
@[simp] theorem setVc_io (s : State) (f : VecRegs → VecRegs) : (setVc s f).io = s.io := rfl
@[simp] theorem setVc_cycle (s : State) (f : VecRegs → VecRegs) : (setVc s f).cycle = s.cycle := rfl
@[simp] theorem setVc_clock (s : State) (f : VecRegs → VecRegs) : (setVc s f).clock = s.clock := rfl
@[simp] theorem setVc_freeCtr (s : State) (f : VecRegs → VecRegs) : (setVc s f).freeCtr = s.freeCtr := rfl
@[simp] theorem setVc_inputs (s : State) (f : VecRegs → VecRegs) : (setVc s f).inputs = s.inputs := rfl
@[simp] theorem setVc_msg (s : State) (f : VecRegs → VecRegs) : (setVc s f).msg = s.msg := rfl
@[simp] theorem setVc_stalled (s : State) (f : VecRegs → VecRegs) : (setVc s f).stalled = s.stalled := rfl
@[simp] theorem setVc_barred (s : State) (f : VecRegs → VecRegs) : (setVc s f).barred = s.barred := rfl
@[simp] theorem setVc_hostReads (s : State) (f : VecRegs → VecRegs) : (setVc s f).hostReads = s.hostReads := rfl
@[simp] theorem setVc_snoops (s : State) (f : VecRegs → VecRegs) : (setVc s f).snoops = s.snoops := rfl
@[simp] theorem setVc_waiting (s : State) (f : VecRegs → VecRegs) : (setVc s f).waiting = s.waiting := rfl
@[simp] theorem setVc_answer (s : State) (f : VecRegs → VecRegs) : (setVc s f).answer = s.answer := rfl

@[simp] theorem setV_others (s : State) (r : Nat) (v : VReg) : (setV s r v).others = s.others := by
  unfold setV; split <;> rfl
@[simp] theorem setV_saved (s : State) (r : Nat) (v : VReg) : (setV s r v).saved = s.saved := by
  unfold setV; split <;> rfl
@[simp] theorem setV_pm (s : State) (r : Nat) (v : VReg) : (setV s r v).pm = s.pm := by
  unfold setV; split <;> rfl
@[simp] theorem setV_sp (s : State) (r : Nat) (v : VReg) : (setV s r v).sp = s.sp := by
  unfold setV; split <;> rfl
@[simp] theorem setV_xl (s : State) (r : Nat) (v : VReg) : (setV s r v).xl = s.xl := by
  unfold setV; split <;> rfl
@[simp] theorem setV_ra (s : State) (r : Nat) (v : VReg) : (setV s r v).ra = s.ra := by
  unfold setV; split <;> rfl
@[simp] theorem setV_chains (s : State) (r : Nat) (v : VReg) : (setV s r v).chains = s.chains := by
  unfold setV; split <;> rfl
@[simp] theorem setV_futs (s : State) (r : Nat) (v : VReg) : (setV s r v).futs = s.futs := by
  unfold setV; split <;> rfl
@[simp] theorem setV_sent (s : State) (r : Nat) (v : VReg) : (setV s r v).sent = s.sent := by
  unfold setV; split <;> rfl
@[simp] theorem setV_eng (s : State) (r : Nat) (v : VReg) : (setV s r v).eng = s.eng := by
  unfold setV; split <;> rfl
@[simp] theorem setV_cores (s : State) (r : Nat) (v : VReg) : (setV s r v).cores = s.cores := by
  unfold setV; split <;> rfl
@[simp] theorem setV_served (s : State) (r : Nat) (v : VReg) : (setV s r v).served = s.served := by
  unfold setV; split <;> rfl
@[simp] theorem setV_seqServed (s : State) (r : Nat) (v : VReg) : (setV s r v).seqServed = s.seqServed := by
  unfold setV; split <;> rfl
@[simp] theorem setV_passed (s : State) (r : Nat) (v : VReg) : (setV s r v).passed = s.passed := by
  unfold setV; split <;> rfl
@[simp] theorem setV_teams (s : State) (r : Nat) (v : VReg) : (setV s r v).teams = s.teams := by
  unfold setV; split <;> rfl
@[simp] theorem setV_clusters (s : State) (r : Nat) (v : VReg) : (setV s r v).clusters = s.clusters := by
  unfold setV; split <;> rfl
@[simp] theorem setV_channels (s : State) (r : Nat) (v : VReg) : (setV s r v).channels = s.channels := by
  unfold setV; split <;> rfl
@[simp] theorem setV_posts (s : State) (r : Nat) (v : VReg) : (setV s r v).posts = s.posts := by
  unfold setV; split <;> rfl
@[simp] theorem setV_granules (s : State) (r : Nat) (v : VReg) : (setV s r v).granules = s.granules := by
  unfold setV; split <;> rfl
@[simp] theorem setV_launches (s : State) (r : Nat) (v : VReg) : (setV s r v).launches = s.launches := by
  unfold setV; split <;> rfl
@[simp] theorem setV_nextLaunch (s : State) (r : Nat) (v : VReg) : (setV s r v).nextLaunch = s.nextLaunch := by
  unfold setV; split <;> rfl
@[simp] theorem setV_io (s : State) (r : Nat) (v : VReg) : (setV s r v).io = s.io := by
  unfold setV; split <;> rfl
@[simp] theorem setV_cycle (s : State) (r : Nat) (v : VReg) : (setV s r v).cycle = s.cycle := by
  unfold setV; split <;> rfl
@[simp] theorem setV_inputs (s : State) (r : Nat) (v : VReg) : (setV s r v).inputs = s.inputs := by
  unfold setV; split <;> rfl
@[simp] theorem setV_msg (s : State) (r : Nat) (v : VReg) : (setV s r v).msg = s.msg := by
  unfold setV; split <;> rfl
@[simp] theorem setV_stalled (s : State) (r : Nat) (v : VReg) : (setV s r v).stalled = s.stalled := by
  unfold setV; split <;> rfl
@[simp] theorem setV_barred (s : State) (r : Nat) (v : VReg) : (setV s r v).barred = s.barred := by
  unfold setV; split <;> rfl
@[simp] theorem setV_hostReads (s : State) (r : Nat) (v : VReg) : (setV s r v).hostReads = s.hostReads := by
  unfold setV; split <;> rfl
@[simp] theorem setV_snoops (s : State) (r : Nat) (v : VReg) : (setV s r v).snoops = s.snoops := by
  unfold setV; split <;> rfl
@[simp] theorem setV_waiting (s : State) (r : Nat) (v : VReg) : (setV s r v).waiting = s.waiting := by
  unfold setV; split <;> rfl
@[simp] theorem setV_answer (s : State) (r : Nat) (v : VReg) : (setV s r v).answer = s.answer := by
  unfold setV; split <;> rfl

@[simp] theorem setBinding_others (s : State) (r : Nat) (t : Target) : (setBinding s r t).others = s.others := rfl
@[simp] theorem setBinding_saved (s : State) (r : Nat) (t : Target) : (setBinding s r t).saved = s.saved := rfl
@[simp] theorem setBinding_pm (s : State) (r : Nat) (t : Target) : (setBinding s r t).pm = s.pm := rfl
@[simp] theorem setBinding_sp (s : State) (r : Nat) (t : Target) : (setBinding s r t).sp = s.sp := rfl
@[simp] theorem setBinding_xl (s : State) (r : Nat) (t : Target) : (setBinding s r t).xl = s.xl := rfl
@[simp] theorem setBinding_ra (s : State) (r : Nat) (t : Target) : (setBinding s r t).ra = s.ra := rfl
@[simp] theorem setBinding_chains (s : State) (r : Nat) (t : Target) : (setBinding s r t).chains = s.chains := rfl
@[simp] theorem setBinding_futs (s : State) (r : Nat) (t : Target) : (setBinding s r t).futs = s.futs := rfl
@[simp] theorem setBinding_sent (s : State) (r : Nat) (t : Target) : (setBinding s r t).sent = s.sent := rfl
@[simp] theorem setBinding_eng (s : State) (r : Nat) (t : Target) : (setBinding s r t).eng = s.eng := rfl
@[simp] theorem setBinding_cores (s : State) (r : Nat) (t : Target) : (setBinding s r t).cores = s.cores := rfl
@[simp] theorem setBinding_served (s : State) (r : Nat) (t : Target) : (setBinding s r t).served = s.served := rfl
@[simp] theorem setBinding_seqServed (s : State) (r : Nat) (t : Target) : (setBinding s r t).seqServed = s.seqServed := rfl
@[simp] theorem setBinding_passed (s : State) (r : Nat) (t : Target) : (setBinding s r t).passed = s.passed := rfl
@[simp] theorem setBinding_teams (s : State) (r : Nat) (t : Target) : (setBinding s r t).teams = s.teams := rfl
@[simp] theorem setBinding_clusters (s : State) (r : Nat) (t : Target) : (setBinding s r t).clusters = s.clusters := rfl
@[simp] theorem setBinding_channels (s : State) (r : Nat) (t : Target) : (setBinding s r t).channels = s.channels := rfl
@[simp] theorem setBinding_posts (s : State) (r : Nat) (t : Target) : (setBinding s r t).posts = s.posts := rfl
@[simp] theorem setBinding_granules (s : State) (r : Nat) (t : Target) : (setBinding s r t).granules = s.granules := rfl
@[simp] theorem setBinding_launches (s : State) (r : Nat) (t : Target) : (setBinding s r t).launches = s.launches := rfl
@[simp] theorem setBinding_nextLaunch (s : State) (r : Nat) (t : Target) : (setBinding s r t).nextLaunch = s.nextLaunch := rfl
@[simp] theorem setBinding_io (s : State) (r : Nat) (t : Target) : (setBinding s r t).io = s.io := rfl
@[simp] theorem setBinding_cycle (s : State) (r : Nat) (t : Target) : (setBinding s r t).cycle = s.cycle := rfl
@[simp] theorem setBinding_clock (s : State) (r : Nat) (t : Target) : (setBinding s r t).clock = s.clock := rfl
@[simp] theorem setBinding_freeCtr (s : State) (r : Nat) (t : Target) : (setBinding s r t).freeCtr = s.freeCtr := rfl
@[simp] theorem setBinding_inputs (s : State) (r : Nat) (t : Target) : (setBinding s r t).inputs = s.inputs := rfl
@[simp] theorem setBinding_msg (s : State) (r : Nat) (t : Target) : (setBinding s r t).msg = s.msg := rfl
@[simp] theorem setBinding_stalled (s : State) (r : Nat) (t : Target) : (setBinding s r t).stalled = s.stalled := rfl
@[simp] theorem setBinding_barred (s : State) (r : Nat) (t : Target) : (setBinding s r t).barred = s.barred := rfl
@[simp] theorem setBinding_hostReads (s : State) (r : Nat) (t : Target) : (setBinding s r t).hostReads = s.hostReads := rfl
@[simp] theorem setBinding_snoops (s : State) (r : Nat) (t : Target) : (setBinding s r t).snoops = s.snoops := rfl
@[simp] theorem setBinding_waiting (s : State) (r : Nat) (t : Target) : (setBinding s r t).waiting = s.waiting := rfl
@[simp] theorem setBinding_answer (s : State) (r : Nat) (t : Target) : (setBinding s r t).answer = s.answer := rfl

@[simp] theorem setExternal_others (s : State) (b : Bool) : (setExternal s b).others = s.others := rfl
@[simp] theorem setExternal_saved (s : State) (b : Bool) : (setExternal s b).saved = s.saved := rfl
@[simp] theorem setExternal_pm (s : State) (b : Bool) : (setExternal s b).pm = s.pm := rfl
@[simp] theorem setExternal_sp (s : State) (b : Bool) : (setExternal s b).sp = s.sp := rfl
@[simp] theorem setExternal_xl (s : State) (b : Bool) : (setExternal s b).xl = s.xl := rfl
@[simp] theorem setExternal_ra (s : State) (b : Bool) : (setExternal s b).ra = s.ra := rfl
@[simp] theorem setExternal_chains (s : State) (b : Bool) : (setExternal s b).chains = s.chains := rfl
@[simp] theorem setExternal_futs (s : State) (b : Bool) : (setExternal s b).futs = s.futs := rfl
@[simp] theorem setExternal_sent (s : State) (b : Bool) : (setExternal s b).sent = s.sent := rfl
@[simp] theorem setExternal_eng (s : State) (b : Bool) : (setExternal s b).eng = s.eng := rfl
@[simp] theorem setExternal_cores (s : State) (b : Bool) : (setExternal s b).cores = s.cores := rfl
@[simp] theorem setExternal_served (s : State) (b : Bool) : (setExternal s b).served = s.served := rfl
@[simp] theorem setExternal_seqServed (s : State) (b : Bool) : (setExternal s b).seqServed = s.seqServed := rfl
@[simp] theorem setExternal_passed (s : State) (b : Bool) : (setExternal s b).passed = s.passed := rfl
@[simp] theorem setExternal_teams (s : State) (b : Bool) : (setExternal s b).teams = s.teams := rfl
@[simp] theorem setExternal_clusters (s : State) (b : Bool) : (setExternal s b).clusters = s.clusters := rfl
@[simp] theorem setExternal_channels (s : State) (b : Bool) : (setExternal s b).channels = s.channels := rfl
@[simp] theorem setExternal_posts (s : State) (b : Bool) : (setExternal s b).posts = s.posts := rfl
@[simp] theorem setExternal_granules (s : State) (b : Bool) : (setExternal s b).granules = s.granules := rfl
@[simp] theorem setExternal_launches (s : State) (b : Bool) : (setExternal s b).launches = s.launches := rfl
@[simp] theorem setExternal_nextLaunch (s : State) (b : Bool) : (setExternal s b).nextLaunch = s.nextLaunch := rfl
@[simp] theorem setExternal_io (s : State) (b : Bool) : (setExternal s b).io = s.io := rfl
@[simp] theorem setExternal_cycle (s : State) (b : Bool) : (setExternal s b).cycle = s.cycle := rfl
@[simp] theorem setExternal_clock (s : State) (b : Bool) : (setExternal s b).clock = s.clock := rfl
@[simp] theorem setExternal_freeCtr (s : State) (b : Bool) : (setExternal s b).freeCtr = s.freeCtr := rfl
@[simp] theorem setExternal_inputs (s : State) (b : Bool) : (setExternal s b).inputs = s.inputs := rfl
@[simp] theorem setExternal_msg (s : State) (b : Bool) : (setExternal s b).msg = s.msg := rfl
@[simp] theorem setExternal_stalled (s : State) (b : Bool) : (setExternal s b).stalled = s.stalled := rfl
@[simp] theorem setExternal_barred (s : State) (b : Bool) : (setExternal s b).barred = s.barred := rfl
@[simp] theorem setExternal_hostReads (s : State) (b : Bool) : (setExternal s b).hostReads = s.hostReads := rfl
@[simp] theorem setExternal_snoops (s : State) (b : Bool) : (setExternal s b).snoops = s.snoops := rfl
@[simp] theorem setExternal_waiting (s : State) (b : Bool) : (setExternal s b).waiting = s.waiting := rfl
@[simp] theorem setExternal_answer (s : State) (b : Bool) : (setExternal s b).answer = s.answer := rfl

@[simp] theorem setPort_g (s : State) (p : Nat) (x : Port) : (setPort s p x).g = s.g := rfl
@[simp] theorem setPort_others (s : State) (p : Nat) (x : Port) : (setPort s p x).others = s.others := rfl
@[simp] theorem setPort_saved (s : State) (p : Nat) (x : Port) : (setPort s p x).saved = s.saved := rfl
@[simp] theorem setPort_pm (s : State) (p : Nat) (x : Port) : (setPort s p x).pm = s.pm := rfl
@[simp] theorem setPort_sp (s : State) (p : Nat) (x : Port) : (setPort s p x).sp = s.sp := rfl
@[simp] theorem setPort_xl (s : State) (p : Nat) (x : Port) : (setPort s p x).xl = s.xl := rfl
@[simp] theorem setPort_ra (s : State) (p : Nat) (x : Port) : (setPort s p x).ra = s.ra := rfl
@[simp] theorem setPort_chains (s : State) (p : Nat) (x : Port) : (setPort s p x).chains = s.chains := rfl
@[simp] theorem setPort_futs (s : State) (p : Nat) (x : Port) : (setPort s p x).futs = s.futs := rfl
@[simp] theorem setPort_sent (s : State) (p : Nat) (x : Port) : (setPort s p x).sent = s.sent := rfl
@[simp] theorem setPort_eng (s : State) (p : Nat) (x : Port) : (setPort s p x).eng = s.eng := rfl
@[simp] theorem setPort_cores (s : State) (p : Nat) (x : Port) : (setPort s p x).cores = s.cores := rfl
@[simp] theorem setPort_served (s : State) (p : Nat) (x : Port) : (setPort s p x).served = s.served := rfl
@[simp] theorem setPort_seqServed (s : State) (p : Nat) (x : Port) : (setPort s p x).seqServed = s.seqServed := rfl
@[simp] theorem setPort_passed (s : State) (p : Nat) (x : Port) : (setPort s p x).passed = s.passed := rfl
@[simp] theorem setPort_teams (s : State) (p : Nat) (x : Port) : (setPort s p x).teams = s.teams := rfl
@[simp] theorem setPort_clusters (s : State) (p : Nat) (x : Port) : (setPort s p x).clusters = s.clusters := rfl
@[simp] theorem setPort_channels (s : State) (p : Nat) (x : Port) : (setPort s p x).channels = s.channels := rfl
@[simp] theorem setPort_posts (s : State) (p : Nat) (x : Port) : (setPort s p x).posts = s.posts := rfl
@[simp] theorem setPort_granules (s : State) (p : Nat) (x : Port) : (setPort s p x).granules = s.granules := rfl
@[simp] theorem setPort_launches (s : State) (p : Nat) (x : Port) : (setPort s p x).launches = s.launches := rfl
@[simp] theorem setPort_nextLaunch (s : State) (p : Nat) (x : Port) : (setPort s p x).nextLaunch = s.nextLaunch := rfl
@[simp] theorem setPort_cycle (s : State) (p : Nat) (x : Port) : (setPort s p x).cycle = s.cycle := rfl
@[simp] theorem setPort_clock (s : State) (p : Nat) (x : Port) : (setPort s p x).clock = s.clock := rfl
@[simp] theorem setPort_freeCtr (s : State) (p : Nat) (x : Port) : (setPort s p x).freeCtr = s.freeCtr := rfl
@[simp] theorem setPort_inputs (s : State) (p : Nat) (x : Port) : (setPort s p x).inputs = s.inputs := rfl
@[simp] theorem setPort_msg (s : State) (p : Nat) (x : Port) : (setPort s p x).msg = s.msg := rfl
@[simp] theorem setPort_stalled (s : State) (p : Nat) (x : Port) : (setPort s p x).stalled = s.stalled := rfl
@[simp] theorem setPort_barred (s : State) (p : Nat) (x : Port) : (setPort s p x).barred = s.barred := rfl
@[simp] theorem setPort_hostReads (s : State) (p : Nat) (x : Port) : (setPort s p x).hostReads = s.hostReads := rfl
@[simp] theorem setPort_snoops (s : State) (p : Nat) (x : Port) : (setPort s p x).snoops = s.snoops := rfl
@[simp] theorem setPort_waiting (s : State) (p : Nat) (x : Port) : (setPort s p x).waiting = s.waiting := rfl
@[simp] theorem setPort_answer (s : State) (p : Nat) (x : Port) : (setPort s p x).answer = s.answer := rfl

@[simp] theorem updFut_g (s : State) (w : Waiter) (g : FutWait → FutWait) : (updFut s w g).g = s.g := rfl
@[simp] theorem updFut_others (s : State) (w : Waiter) (g : FutWait → FutWait) : (updFut s w g).others = s.others := rfl
@[simp] theorem updFut_saved (s : State) (w : Waiter) (g : FutWait → FutWait) : (updFut s w g).saved = s.saved := rfl
@[simp] theorem updFut_pm (s : State) (w : Waiter) (g : FutWait → FutWait) : (updFut s w g).pm = s.pm := rfl
@[simp] theorem updFut_sp (s : State) (w : Waiter) (g : FutWait → FutWait) : (updFut s w g).sp = s.sp := rfl
@[simp] theorem updFut_xl (s : State) (w : Waiter) (g : FutWait → FutWait) : (updFut s w g).xl = s.xl := rfl
@[simp] theorem updFut_ra (s : State) (w : Waiter) (g : FutWait → FutWait) : (updFut s w g).ra = s.ra := rfl
@[simp] theorem updFut_chains (s : State) (w : Waiter) (g : FutWait → FutWait) : (updFut s w g).chains = s.chains := rfl
@[simp] theorem updFut_sent (s : State) (w : Waiter) (g : FutWait → FutWait) : (updFut s w g).sent = s.sent := rfl
@[simp] theorem updFut_eng (s : State) (w : Waiter) (g : FutWait → FutWait) : (updFut s w g).eng = s.eng := rfl
@[simp] theorem updFut_cores (s : State) (w : Waiter) (g : FutWait → FutWait) : (updFut s w g).cores = s.cores := rfl
@[simp] theorem updFut_served (s : State) (w : Waiter) (g : FutWait → FutWait) : (updFut s w g).served = s.served := rfl
@[simp] theorem updFut_seqServed (s : State) (w : Waiter) (g : FutWait → FutWait) : (updFut s w g).seqServed = s.seqServed := rfl
@[simp] theorem updFut_passed (s : State) (w : Waiter) (g : FutWait → FutWait) : (updFut s w g).passed = s.passed := rfl
@[simp] theorem updFut_teams (s : State) (w : Waiter) (g : FutWait → FutWait) : (updFut s w g).teams = s.teams := rfl
@[simp] theorem updFut_clusters (s : State) (w : Waiter) (g : FutWait → FutWait) : (updFut s w g).clusters = s.clusters := rfl
@[simp] theorem updFut_channels (s : State) (w : Waiter) (g : FutWait → FutWait) : (updFut s w g).channels = s.channels := rfl
@[simp] theorem updFut_posts (s : State) (w : Waiter) (g : FutWait → FutWait) : (updFut s w g).posts = s.posts := rfl
@[simp] theorem updFut_granules (s : State) (w : Waiter) (g : FutWait → FutWait) : (updFut s w g).granules = s.granules := rfl
@[simp] theorem updFut_launches (s : State) (w : Waiter) (g : FutWait → FutWait) : (updFut s w g).launches = s.launches := rfl
@[simp] theorem updFut_nextLaunch (s : State) (w : Waiter) (g : FutWait → FutWait) : (updFut s w g).nextLaunch = s.nextLaunch := rfl
@[simp] theorem updFut_io (s : State) (w : Waiter) (g : FutWait → FutWait) : (updFut s w g).io = s.io := rfl
@[simp] theorem updFut_cycle (s : State) (w : Waiter) (g : FutWait → FutWait) : (updFut s w g).cycle = s.cycle := rfl
@[simp] theorem updFut_clock (s : State) (w : Waiter) (g : FutWait → FutWait) : (updFut s w g).clock = s.clock := rfl
@[simp] theorem updFut_freeCtr (s : State) (w : Waiter) (g : FutWait → FutWait) : (updFut s w g).freeCtr = s.freeCtr := rfl
@[simp] theorem updFut_inputs (s : State) (w : Waiter) (g : FutWait → FutWait) : (updFut s w g).inputs = s.inputs := rfl
@[simp] theorem updFut_msg (s : State) (w : Waiter) (g : FutWait → FutWait) : (updFut s w g).msg = s.msg := rfl
@[simp] theorem updFut_stalled (s : State) (w : Waiter) (g : FutWait → FutWait) : (updFut s w g).stalled = s.stalled := rfl
@[simp] theorem updFut_barred (s : State) (w : Waiter) (g : FutWait → FutWait) : (updFut s w g).barred = s.barred := rfl
@[simp] theorem updFut_hostReads (s : State) (w : Waiter) (g : FutWait → FutWait) : (updFut s w g).hostReads = s.hostReads := rfl
@[simp] theorem updFut_snoops (s : State) (w : Waiter) (g : FutWait → FutWait) : (updFut s w g).snoops = s.snoops := rfl
@[simp] theorem updFut_waiting (s : State) (w : Waiter) (g : FutWait → FutWait) : (updFut s w g).waiting = s.waiting := rfl
@[simp] theorem updFut_answer (s : State) (w : Waiter) (g : FutWait → FutWait) : (updFut s w g).answer = s.answer := rfl

@[simp] theorem futDrop_g (s : State) (w : Waiter) : (futDrop s w).g = s.g := rfl
@[simp] theorem futDrop_others (s : State) (w : Waiter) : (futDrop s w).others = s.others := rfl
@[simp] theorem futDrop_saved (s : State) (w : Waiter) : (futDrop s w).saved = s.saved := rfl
@[simp] theorem futDrop_pm (s : State) (w : Waiter) : (futDrop s w).pm = s.pm := rfl
@[simp] theorem futDrop_sp (s : State) (w : Waiter) : (futDrop s w).sp = s.sp := rfl
@[simp] theorem futDrop_xl (s : State) (w : Waiter) : (futDrop s w).xl = s.xl := rfl
@[simp] theorem futDrop_ra (s : State) (w : Waiter) : (futDrop s w).ra = s.ra := rfl
@[simp] theorem futDrop_chains (s : State) (w : Waiter) : (futDrop s w).chains = s.chains := rfl
@[simp] theorem futDrop_eng (s : State) (w : Waiter) : (futDrop s w).eng = s.eng := rfl
@[simp] theorem futDrop_cores (s : State) (w : Waiter) : (futDrop s w).cores = s.cores := rfl
@[simp] theorem futDrop_served (s : State) (w : Waiter) : (futDrop s w).served = s.served := rfl
@[simp] theorem futDrop_seqServed (s : State) (w : Waiter) : (futDrop s w).seqServed = s.seqServed := rfl
@[simp] theorem futDrop_passed (s : State) (w : Waiter) : (futDrop s w).passed = s.passed := rfl
@[simp] theorem futDrop_teams (s : State) (w : Waiter) : (futDrop s w).teams = s.teams := rfl
@[simp] theorem futDrop_clusters (s : State) (w : Waiter) : (futDrop s w).clusters = s.clusters := rfl
@[simp] theorem futDrop_channels (s : State) (w : Waiter) : (futDrop s w).channels = s.channels := rfl
@[simp] theorem futDrop_posts (s : State) (w : Waiter) : (futDrop s w).posts = s.posts := rfl
@[simp] theorem futDrop_granules (s : State) (w : Waiter) : (futDrop s w).granules = s.granules := rfl
@[simp] theorem futDrop_launches (s : State) (w : Waiter) : (futDrop s w).launches = s.launches := rfl
@[simp] theorem futDrop_nextLaunch (s : State) (w : Waiter) : (futDrop s w).nextLaunch = s.nextLaunch := rfl
@[simp] theorem futDrop_io (s : State) (w : Waiter) : (futDrop s w).io = s.io := rfl
@[simp] theorem futDrop_cycle (s : State) (w : Waiter) : (futDrop s w).cycle = s.cycle := rfl
@[simp] theorem futDrop_clock (s : State) (w : Waiter) : (futDrop s w).clock = s.clock := rfl
@[simp] theorem futDrop_freeCtr (s : State) (w : Waiter) : (futDrop s w).freeCtr = s.freeCtr := rfl
@[simp] theorem futDrop_inputs (s : State) (w : Waiter) : (futDrop s w).inputs = s.inputs := rfl
@[simp] theorem futDrop_msg (s : State) (w : Waiter) : (futDrop s w).msg = s.msg := rfl
@[simp] theorem futDrop_stalled (s : State) (w : Waiter) : (futDrop s w).stalled = s.stalled := rfl
@[simp] theorem futDrop_barred (s : State) (w : Waiter) : (futDrop s w).barred = s.barred := rfl
@[simp] theorem futDrop_hostReads (s : State) (w : Waiter) : (futDrop s w).hostReads = s.hostReads := rfl
@[simp] theorem futDrop_snoops (s : State) (w : Waiter) : (futDrop s w).snoops = s.snoops := rfl
@[simp] theorem futDrop_waiting (s : State) (w : Waiter) : (futDrop s w).waiting = s.waiting := rfl
@[simp] theorem futDrop_answer (s : State) (w : Waiter) : (futDrop s w).answer = s.answer := rfl

@[simp] theorem updVp_others (s : State) (e : Nat) (f : Vp → Vp) : (updVp s e f).others = s.others := rfl
@[simp] theorem updVp_saved (s : State) (e : Nat) (f : Vp → Vp) : (updVp s e f).saved = s.saved := rfl
@[simp] theorem updVp_pm (s : State) (e : Nat) (f : Vp → Vp) : (updVp s e f).pm = s.pm := rfl
@[simp] theorem updVp_sp (s : State) (e : Nat) (f : Vp → Vp) : (updVp s e f).sp = s.sp := rfl
@[simp] theorem updVp_xl (s : State) (e : Nat) (f : Vp → Vp) : (updVp s e f).xl = s.xl := rfl
@[simp] theorem updVp_ra (s : State) (e : Nat) (f : Vp → Vp) : (updVp s e f).ra = s.ra := rfl
@[simp] theorem updVp_chains (s : State) (e : Nat) (f : Vp → Vp) : (updVp s e f).chains = s.chains := rfl
@[simp] theorem updVp_futs (s : State) (e : Nat) (f : Vp → Vp) : (updVp s e f).futs = s.futs := rfl
@[simp] theorem updVp_sent (s : State) (e : Nat) (f : Vp → Vp) : (updVp s e f).sent = s.sent := rfl
@[simp] theorem updVp_eng (s : State) (e : Nat) (f : Vp → Vp) : (updVp s e f).eng = s.eng := rfl
@[simp] theorem updVp_cores (s : State) (e : Nat) (f : Vp → Vp) : (updVp s e f).cores = s.cores := rfl
@[simp] theorem updVp_served (s : State) (e : Nat) (f : Vp → Vp) : (updVp s e f).served = s.served := rfl
@[simp] theorem updVp_seqServed (s : State) (e : Nat) (f : Vp → Vp) : (updVp s e f).seqServed = s.seqServed := rfl
@[simp] theorem updVp_passed (s : State) (e : Nat) (f : Vp → Vp) : (updVp s e f).passed = s.passed := rfl
@[simp] theorem updVp_teams (s : State) (e : Nat) (f : Vp → Vp) : (updVp s e f).teams = s.teams := rfl
@[simp] theorem updVp_clusters (s : State) (e : Nat) (f : Vp → Vp) : (updVp s e f).clusters = s.clusters := rfl
@[simp] theorem updVp_channels (s : State) (e : Nat) (f : Vp → Vp) : (updVp s e f).channels = s.channels := rfl
@[simp] theorem updVp_posts (s : State) (e : Nat) (f : Vp → Vp) : (updVp s e f).posts = s.posts := rfl
@[simp] theorem updVp_granules (s : State) (e : Nat) (f : Vp → Vp) : (updVp s e f).granules = s.granules := rfl
@[simp] theorem updVp_launches (s : State) (e : Nat) (f : Vp → Vp) : (updVp s e f).launches = s.launches := rfl
@[simp] theorem updVp_nextLaunch (s : State) (e : Nat) (f : Vp → Vp) : (updVp s e f).nextLaunch = s.nextLaunch := rfl
@[simp] theorem updVp_io (s : State) (e : Nat) (f : Vp → Vp) : (updVp s e f).io = s.io := rfl
@[simp] theorem updVp_cycle (s : State) (e : Nat) (f : Vp → Vp) : (updVp s e f).cycle = s.cycle := rfl
@[simp] theorem updVp_clock (s : State) (e : Nat) (f : Vp → Vp) : (updVp s e f).clock = s.clock := rfl
@[simp] theorem updVp_freeCtr (s : State) (e : Nat) (f : Vp → Vp) : (updVp s e f).freeCtr = s.freeCtr := rfl
@[simp] theorem updVp_inputs (s : State) (e : Nat) (f : Vp → Vp) : (updVp s e f).inputs = s.inputs := rfl
@[simp] theorem updVp_msg (s : State) (e : Nat) (f : Vp → Vp) : (updVp s e f).msg = s.msg := rfl
@[simp] theorem updVp_stalled (s : State) (e : Nat) (f : Vp → Vp) : (updVp s e f).stalled = s.stalled := rfl
@[simp] theorem updVp_barred (s : State) (e : Nat) (f : Vp → Vp) : (updVp s e f).barred = s.barred := rfl
@[simp] theorem updVp_hostReads (s : State) (e : Nat) (f : Vp → Vp) : (updVp s e f).hostReads = s.hostReads := rfl
@[simp] theorem updVp_snoops (s : State) (e : Nat) (f : Vp → Vp) : (updVp s e f).snoops = s.snoops := rfl
@[simp] theorem updVp_waiting (s : State) (e : Nat) (f : Vp → Vp) : (updVp s e f).waiting = s.waiting := rfl
@[simp] theorem updVp_answer (s : State) (e : Nat) (f : Vp → Vp) : (updVp s e f).answer = s.answer := rfl

@[simp] theorem post_g (s : State) (i : Instr) (m : Msg) : (post s i m).g = s.g := rfl
@[simp] theorem post_others (s : State) (i : Instr) (m : Msg) : (post s i m).others = s.others := rfl
@[simp] theorem post_saved (s : State) (i : Instr) (m : Msg) : (post s i m).saved = s.saved := rfl
@[simp] theorem post_pm (s : State) (i : Instr) (m : Msg) : (post s i m).pm = s.pm := rfl
@[simp] theorem post_sp (s : State) (i : Instr) (m : Msg) : (post s i m).sp = s.sp := rfl
@[simp] theorem post_xl (s : State) (i : Instr) (m : Msg) : (post s i m).xl = s.xl := rfl
@[simp] theorem post_ra (s : State) (i : Instr) (m : Msg) : (post s i m).ra = s.ra := rfl
@[simp] theorem post_chains (s : State) (i : Instr) (m : Msg) : (post s i m).chains = s.chains := rfl
@[simp] theorem post_futs (s : State) (i : Instr) (m : Msg) : (post s i m).futs = s.futs := rfl
@[simp] theorem post_sent (s : State) (i : Instr) (m : Msg) : (post s i m).sent = s.sent := rfl
@[simp] theorem post_eng (s : State) (i : Instr) (m : Msg) : (post s i m).eng = s.eng := rfl
@[simp] theorem post_cores (s : State) (i : Instr) (m : Msg) : (post s i m).cores = s.cores := rfl
@[simp] theorem post_served (s : State) (i : Instr) (m : Msg) : (post s i m).served = s.served := rfl
@[simp] theorem post_seqServed (s : State) (i : Instr) (m : Msg) : (post s i m).seqServed = s.seqServed := rfl
@[simp] theorem post_passed (s : State) (i : Instr) (m : Msg) : (post s i m).passed = s.passed := rfl
@[simp] theorem post_teams (s : State) (i : Instr) (m : Msg) : (post s i m).teams = s.teams := rfl
@[simp] theorem post_clusters (s : State) (i : Instr) (m : Msg) : (post s i m).clusters = s.clusters := rfl
@[simp] theorem post_channels (s : State) (i : Instr) (m : Msg) : (post s i m).channels = s.channels := rfl
@[simp] theorem post_posts (s : State) (i : Instr) (m : Msg) : (post s i m).posts = s.posts := rfl
@[simp] theorem post_granules (s : State) (i : Instr) (m : Msg) : (post s i m).granules = s.granules := rfl
@[simp] theorem post_launches (s : State) (i : Instr) (m : Msg) : (post s i m).launches = s.launches := rfl
@[simp] theorem post_nextLaunch (s : State) (i : Instr) (m : Msg) : (post s i m).nextLaunch = s.nextLaunch := rfl
@[simp] theorem post_io (s : State) (i : Instr) (m : Msg) : (post s i m).io = s.io := rfl
@[simp] theorem post_cycle (s : State) (i : Instr) (m : Msg) : (post s i m).cycle = s.cycle := rfl
@[simp] theorem post_clock (s : State) (i : Instr) (m : Msg) : (post s i m).clock = s.clock := rfl
@[simp] theorem post_freeCtr (s : State) (i : Instr) (m : Msg) : (post s i m).freeCtr = s.freeCtr := rfl
@[simp] theorem post_msg (s : State) (i : Instr) (m : Msg) : (post s i m).msg = s.msg := rfl
@[simp] theorem post_stalled (s : State) (i : Instr) (m : Msg) : (post s i m).stalled = s.stalled := rfl
@[simp] theorem post_barred (s : State) (i : Instr) (m : Msg) : (post s i m).barred = s.barred := rfl
@[simp] theorem post_hostReads (s : State) (i : Instr) (m : Msg) : (post s i m).hostReads = s.hostReads := rfl
@[simp] theorem post_snoops (s : State) (i : Instr) (m : Msg) : (post s i m).snoops = s.snoops := rfl
@[simp] theorem post_waiting (s : State) (i : Instr) (m : Msg) : (post s i m).waiting = s.waiting := rfl
@[simp] theorem post_answer (s : State) (i : Instr) (m : Msg) : (post s i m).answer = s.answer := rfl

@[simp] theorem withMsg_g (s : State) (m : Msg) : (withMsg s m).g = s.g := rfl
@[simp] theorem withMsg_others (s : State) (m : Msg) : (withMsg s m).others = s.others := rfl
@[simp] theorem withMsg_saved (s : State) (m : Msg) : (withMsg s m).saved = s.saved := rfl
@[simp] theorem withMsg_pm (s : State) (m : Msg) : (withMsg s m).pm = s.pm := rfl
@[simp] theorem withMsg_sp (s : State) (m : Msg) : (withMsg s m).sp = s.sp := rfl
@[simp] theorem withMsg_xl (s : State) (m : Msg) : (withMsg s m).xl = s.xl := rfl
@[simp] theorem withMsg_ra (s : State) (m : Msg) : (withMsg s m).ra = s.ra := rfl
@[simp] theorem withMsg_chains (s : State) (m : Msg) : (withMsg s m).chains = s.chains := rfl
@[simp] theorem withMsg_futs (s : State) (m : Msg) : (withMsg s m).futs = s.futs := rfl
@[simp] theorem withMsg_sent (s : State) (m : Msg) : (withMsg s m).sent = s.sent := rfl
@[simp] theorem withMsg_eng (s : State) (m : Msg) : (withMsg s m).eng = s.eng := rfl
@[simp] theorem withMsg_cores (s : State) (m : Msg) : (withMsg s m).cores = s.cores := rfl
@[simp] theorem withMsg_served (s : State) (m : Msg) : (withMsg s m).served = s.served := rfl
@[simp] theorem withMsg_seqServed (s : State) (m : Msg) : (withMsg s m).seqServed = s.seqServed := rfl
@[simp] theorem withMsg_passed (s : State) (m : Msg) : (withMsg s m).passed = s.passed := rfl
@[simp] theorem withMsg_teams (s : State) (m : Msg) : (withMsg s m).teams = s.teams := rfl
@[simp] theorem withMsg_clusters (s : State) (m : Msg) : (withMsg s m).clusters = s.clusters := rfl
@[simp] theorem withMsg_channels (s : State) (m : Msg) : (withMsg s m).channels = s.channels := rfl
@[simp] theorem withMsg_posts (s : State) (m : Msg) : (withMsg s m).posts = s.posts := rfl
@[simp] theorem withMsg_granules (s : State) (m : Msg) : (withMsg s m).granules = s.granules := rfl
@[simp] theorem withMsg_launches (s : State) (m : Msg) : (withMsg s m).launches = s.launches := rfl
@[simp] theorem withMsg_nextLaunch (s : State) (m : Msg) : (withMsg s m).nextLaunch = s.nextLaunch := rfl
@[simp] theorem withMsg_io (s : State) (m : Msg) : (withMsg s m).io = s.io := rfl
@[simp] theorem withMsg_cycle (s : State) (m : Msg) : (withMsg s m).cycle = s.cycle := rfl
@[simp] theorem withMsg_clock (s : State) (m : Msg) : (withMsg s m).clock = s.clock := rfl
@[simp] theorem withMsg_freeCtr (s : State) (m : Msg) : (withMsg s m).freeCtr = s.freeCtr := rfl
@[simp] theorem withMsg_inputs (s : State) (m : Msg) : (withMsg s m).inputs = s.inputs := rfl
@[simp] theorem withMsg_barred (s : State) (m : Msg) : (withMsg s m).barred = s.barred := rfl
@[simp] theorem withMsg_hostReads (s : State) (m : Msg) : (withMsg s m).hostReads = s.hostReads := rfl
@[simp] theorem withMsg_snoops (s : State) (m : Msg) : (withMsg s m).snoops = s.snoops := rfl
@[simp] theorem withMsg_waiting (s : State) (m : Msg) : (withMsg s m).waiting = s.waiting := rfl
@[simp] theorem withMsg_answer (s : State) (m : Msg) : (withMsg s m).answer = s.answer := rfl

@[simp] theorem touchLine_g (s : State) (l : Nat) : (touchLine s l).g = s.g := rfl
@[simp] theorem touchLine_others (s : State) (l : Nat) : (touchLine s l).others = s.others := rfl
@[simp] theorem touchLine_saved (s : State) (l : Nat) : (touchLine s l).saved = s.saved := rfl
@[simp] theorem touchLine_sp (s : State) (l : Nat) : (touchLine s l).sp = s.sp := rfl
@[simp] theorem touchLine_xl (s : State) (l : Nat) : (touchLine s l).xl = s.xl := rfl
@[simp] theorem touchLine_ra (s : State) (l : Nat) : (touchLine s l).ra = s.ra := rfl
@[simp] theorem touchLine_futs (s : State) (l : Nat) : (touchLine s l).futs = s.futs := rfl
@[simp] theorem touchLine_sent (s : State) (l : Nat) : (touchLine s l).sent = s.sent := rfl
@[simp] theorem touchLine_eng (s : State) (l : Nat) : (touchLine s l).eng = s.eng := rfl
@[simp] theorem touchLine_cores (s : State) (l : Nat) : (touchLine s l).cores = s.cores := rfl
@[simp] theorem touchLine_served (s : State) (l : Nat) : (touchLine s l).served = s.served := rfl
@[simp] theorem touchLine_seqServed (s : State) (l : Nat) : (touchLine s l).seqServed = s.seqServed := rfl
@[simp] theorem touchLine_passed (s : State) (l : Nat) : (touchLine s l).passed = s.passed := rfl
@[simp] theorem touchLine_teams (s : State) (l : Nat) : (touchLine s l).teams = s.teams := rfl
@[simp] theorem touchLine_clusters (s : State) (l : Nat) : (touchLine s l).clusters = s.clusters := rfl
@[simp] theorem touchLine_channels (s : State) (l : Nat) : (touchLine s l).channels = s.channels := rfl
@[simp] theorem touchLine_posts (s : State) (l : Nat) : (touchLine s l).posts = s.posts := rfl
@[simp] theorem touchLine_granules (s : State) (l : Nat) : (touchLine s l).granules = s.granules := rfl
@[simp] theorem touchLine_launches (s : State) (l : Nat) : (touchLine s l).launches = s.launches := rfl
@[simp] theorem touchLine_nextLaunch (s : State) (l : Nat) : (touchLine s l).nextLaunch = s.nextLaunch := rfl
@[simp] theorem touchLine_io (s : State) (l : Nat) : (touchLine s l).io = s.io := rfl
@[simp] theorem touchLine_cycle (s : State) (l : Nat) : (touchLine s l).cycle = s.cycle := rfl
@[simp] theorem touchLine_clock (s : State) (l : Nat) : (touchLine s l).clock = s.clock := rfl
@[simp] theorem touchLine_inputs (s : State) (l : Nat) : (touchLine s l).inputs = s.inputs := rfl
@[simp] theorem touchLine_msg (s : State) (l : Nat) : (touchLine s l).msg = s.msg := rfl
@[simp] theorem touchLine_stalled (s : State) (l : Nat) : (touchLine s l).stalled = s.stalled := rfl
@[simp] theorem touchLine_hostReads (s : State) (l : Nat) : (touchLine s l).hostReads = s.hostReads := rfl
@[simp] theorem touchLine_waiting (s : State) (l : Nat) : (touchLine s l).waiting = s.waiting := rfl
@[simp] theorem touchLine_answer (s : State) (l : Nat) : (touchLine s l).answer = s.answer := rfl

@[simp] theorem accessLine_g (s : State) (wr : Bool) (a n : Nat) : (accessLine s wr a n).g = s.g := rfl
@[simp] theorem accessLine_others (s : State) (wr : Bool) (a n : Nat) : (accessLine s wr a n).others = s.others := rfl
@[simp] theorem accessLine_saved (s : State) (wr : Bool) (a n : Nat) : (accessLine s wr a n).saved = s.saved := rfl
@[simp] theorem accessLine_sp (s : State) (wr : Bool) (a n : Nat) : (accessLine s wr a n).sp = s.sp := rfl
@[simp] theorem accessLine_xl (s : State) (wr : Bool) (a n : Nat) : (accessLine s wr a n).xl = s.xl := rfl
@[simp] theorem accessLine_ra (s : State) (wr : Bool) (a n : Nat) : (accessLine s wr a n).ra = s.ra := rfl
@[simp] theorem accessLine_futs (s : State) (wr : Bool) (a n : Nat) : (accessLine s wr a n).futs = s.futs := rfl
@[simp] theorem accessLine_sent (s : State) (wr : Bool) (a n : Nat) : (accessLine s wr a n).sent = s.sent := rfl
@[simp] theorem accessLine_eng (s : State) (wr : Bool) (a n : Nat) : (accessLine s wr a n).eng = s.eng := rfl
@[simp] theorem accessLine_cores (s : State) (wr : Bool) (a n : Nat) : (accessLine s wr a n).cores = s.cores := rfl
@[simp] theorem accessLine_served (s : State) (wr : Bool) (a n : Nat) : (accessLine s wr a n).served = s.served := rfl
@[simp] theorem accessLine_seqServed (s : State) (wr : Bool) (a n : Nat) : (accessLine s wr a n).seqServed = s.seqServed := rfl
@[simp] theorem accessLine_passed (s : State) (wr : Bool) (a n : Nat) : (accessLine s wr a n).passed = s.passed := rfl
@[simp] theorem accessLine_teams (s : State) (wr : Bool) (a n : Nat) : (accessLine s wr a n).teams = s.teams := rfl
@[simp] theorem accessLine_clusters (s : State) (wr : Bool) (a n : Nat) : (accessLine s wr a n).clusters = s.clusters := rfl
@[simp] theorem accessLine_channels (s : State) (wr : Bool) (a n : Nat) : (accessLine s wr a n).channels = s.channels := rfl
@[simp] theorem accessLine_posts (s : State) (wr : Bool) (a n : Nat) : (accessLine s wr a n).posts = s.posts := rfl
@[simp] theorem accessLine_granules (s : State) (wr : Bool) (a n : Nat) : (accessLine s wr a n).granules = s.granules := rfl
@[simp] theorem accessLine_launches (s : State) (wr : Bool) (a n : Nat) : (accessLine s wr a n).launches = s.launches := rfl
@[simp] theorem accessLine_nextLaunch (s : State) (wr : Bool) (a n : Nat) : (accessLine s wr a n).nextLaunch = s.nextLaunch := rfl
@[simp] theorem accessLine_io (s : State) (wr : Bool) (a n : Nat) : (accessLine s wr a n).io = s.io := rfl
@[simp] theorem accessLine_cycle (s : State) (wr : Bool) (a n : Nat) : (accessLine s wr a n).cycle = s.cycle := rfl
@[simp] theorem accessLine_clock (s : State) (wr : Bool) (a n : Nat) : (accessLine s wr a n).clock = s.clock := rfl
@[simp] theorem accessLine_inputs (s : State) (wr : Bool) (a n : Nat) : (accessLine s wr a n).inputs = s.inputs := rfl
@[simp] theorem accessLine_msg (s : State) (wr : Bool) (a n : Nat) : (accessLine s wr a n).msg = s.msg := rfl
@[simp] theorem accessLine_stalled (s : State) (wr : Bool) (a n : Nat) : (accessLine s wr a n).stalled = s.stalled := rfl
@[simp] theorem accessLine_hostReads (s : State) (wr : Bool) (a n : Nat) : (accessLine s wr a n).hostReads = s.hostReads := rfl
@[simp] theorem accessLine_waiting (s : State) (wr : Bool) (a n : Nat) : (accessLine s wr a n).waiting = s.waiting := rfl
@[simp] theorem accessLine_answer (s : State) (wr : Bool) (a n : Nat) : (accessLine s wr a n).answer = s.answer := rfl

@[simp] theorem sliceWrite_g (s : State) (a n val : Nat) : (sliceWrite s a n val).g = s.g := rfl
@[simp] theorem sliceWrite_others (s : State) (a n val : Nat) : (sliceWrite s a n val).others = s.others := rfl
@[simp] theorem sliceWrite_saved (s : State) (a n val : Nat) : (sliceWrite s a n val).saved = s.saved := rfl
@[simp] theorem sliceWrite_sp (s : State) (a n val : Nat) : (sliceWrite s a n val).sp = s.sp := rfl
@[simp] theorem sliceWrite_xl (s : State) (a n val : Nat) : (sliceWrite s a n val).xl = s.xl := rfl
@[simp] theorem sliceWrite_ra (s : State) (a n val : Nat) : (sliceWrite s a n val).ra = s.ra := rfl
@[simp] theorem sliceWrite_futs (s : State) (a n val : Nat) : (sliceWrite s a n val).futs = s.futs := rfl
@[simp] theorem sliceWrite_sent (s : State) (a n val : Nat) : (sliceWrite s a n val).sent = s.sent := rfl
@[simp] theorem sliceWrite_eng (s : State) (a n val : Nat) : (sliceWrite s a n val).eng = s.eng := rfl
@[simp] theorem sliceWrite_cores (s : State) (a n val : Nat) : (sliceWrite s a n val).cores = s.cores := rfl
@[simp] theorem sliceWrite_served (s : State) (a n val : Nat) : (sliceWrite s a n val).served = s.served := rfl
@[simp] theorem sliceWrite_seqServed (s : State) (a n val : Nat) : (sliceWrite s a n val).seqServed = s.seqServed := rfl
@[simp] theorem sliceWrite_passed (s : State) (a n val : Nat) : (sliceWrite s a n val).passed = s.passed := rfl
@[simp] theorem sliceWrite_teams (s : State) (a n val : Nat) : (sliceWrite s a n val).teams = s.teams := rfl
@[simp] theorem sliceWrite_clusters (s : State) (a n val : Nat) : (sliceWrite s a n val).clusters = s.clusters := rfl
@[simp] theorem sliceWrite_channels (s : State) (a n val : Nat) : (sliceWrite s a n val).channels = s.channels := rfl
@[simp] theorem sliceWrite_posts (s : State) (a n val : Nat) : (sliceWrite s a n val).posts = s.posts := rfl
@[simp] theorem sliceWrite_granules (s : State) (a n val : Nat) : (sliceWrite s a n val).granules = s.granules := rfl
@[simp] theorem sliceWrite_launches (s : State) (a n val : Nat) : (sliceWrite s a n val).launches = s.launches := rfl
@[simp] theorem sliceWrite_nextLaunch (s : State) (a n val : Nat) : (sliceWrite s a n val).nextLaunch = s.nextLaunch := rfl
@[simp] theorem sliceWrite_io (s : State) (a n val : Nat) : (sliceWrite s a n val).io = s.io := rfl
@[simp] theorem sliceWrite_cycle (s : State) (a n val : Nat) : (sliceWrite s a n val).cycle = s.cycle := rfl
@[simp] theorem sliceWrite_clock (s : State) (a n val : Nat) : (sliceWrite s a n val).clock = s.clock := rfl
@[simp] theorem sliceWrite_inputs (s : State) (a n val : Nat) : (sliceWrite s a n val).inputs = s.inputs := rfl
@[simp] theorem sliceWrite_msg (s : State) (a n val : Nat) : (sliceWrite s a n val).msg = s.msg := rfl
@[simp] theorem sliceWrite_stalled (s : State) (a n val : Nat) : (sliceWrite s a n val).stalled = s.stalled := rfl
@[simp] theorem sliceWrite_hostReads (s : State) (a n val : Nat) : (sliceWrite s a n val).hostReads = s.hostReads := rfl
@[simp] theorem sliceWrite_waiting (s : State) (a n val : Nat) : (sliceWrite s a n val).waiting = s.waiting := rfl
@[simp] theorem sliceWrite_answer (s : State) (a n val : Nat) : (sliceWrite s a n val).answer = s.answer := rfl

@[simp] theorem sliceWriteBy_g (s : State) (src : Option (Nat × Stream)) (a n val : Nat) : (sliceWriteBy s src a n val).g = s.g := rfl
@[simp] theorem sliceWriteBy_others (s : State) (src : Option (Nat × Stream)) (a n val : Nat) : (sliceWriteBy s src a n val).others = s.others := rfl
@[simp] theorem sliceWriteBy_saved (s : State) (src : Option (Nat × Stream)) (a n val : Nat) : (sliceWriteBy s src a n val).saved = s.saved := rfl
@[simp] theorem sliceWriteBy_sp (s : State) (src : Option (Nat × Stream)) (a n val : Nat) : (sliceWriteBy s src a n val).sp = s.sp := rfl
@[simp] theorem sliceWriteBy_xl (s : State) (src : Option (Nat × Stream)) (a n val : Nat) : (sliceWriteBy s src a n val).xl = s.xl := rfl
@[simp] theorem sliceWriteBy_ra (s : State) (src : Option (Nat × Stream)) (a n val : Nat) : (sliceWriteBy s src a n val).ra = s.ra := rfl
@[simp] theorem sliceWriteBy_futs (s : State) (src : Option (Nat × Stream)) (a n val : Nat) : (sliceWriteBy s src a n val).futs = s.futs := rfl
@[simp] theorem sliceWriteBy_sent (s : State) (src : Option (Nat × Stream)) (a n val : Nat) : (sliceWriteBy s src a n val).sent = s.sent := rfl
@[simp] theorem sliceWriteBy_eng (s : State) (src : Option (Nat × Stream)) (a n val : Nat) : (sliceWriteBy s src a n val).eng = s.eng := rfl
@[simp] theorem sliceWriteBy_cores (s : State) (src : Option (Nat × Stream)) (a n val : Nat) : (sliceWriteBy s src a n val).cores = s.cores := rfl
@[simp] theorem sliceWriteBy_served (s : State) (src : Option (Nat × Stream)) (a n val : Nat) : (sliceWriteBy s src a n val).served = s.served := rfl
@[simp] theorem sliceWriteBy_seqServed (s : State) (src : Option (Nat × Stream)) (a n val : Nat) : (sliceWriteBy s src a n val).seqServed = s.seqServed := rfl
@[simp] theorem sliceWriteBy_passed (s : State) (src : Option (Nat × Stream)) (a n val : Nat) : (sliceWriteBy s src a n val).passed = s.passed := rfl
@[simp] theorem sliceWriteBy_teams (s : State) (src : Option (Nat × Stream)) (a n val : Nat) : (sliceWriteBy s src a n val).teams = s.teams := rfl
@[simp] theorem sliceWriteBy_clusters (s : State) (src : Option (Nat × Stream)) (a n val : Nat) : (sliceWriteBy s src a n val).clusters = s.clusters := rfl
@[simp] theorem sliceWriteBy_channels (s : State) (src : Option (Nat × Stream)) (a n val : Nat) : (sliceWriteBy s src a n val).channels = s.channels := rfl
@[simp] theorem sliceWriteBy_posts (s : State) (src : Option (Nat × Stream)) (a n val : Nat) : (sliceWriteBy s src a n val).posts = s.posts := rfl
@[simp] theorem sliceWriteBy_granules (s : State) (src : Option (Nat × Stream)) (a n val : Nat) : (sliceWriteBy s src a n val).granules = s.granules := rfl
@[simp] theorem sliceWriteBy_launches (s : State) (src : Option (Nat × Stream)) (a n val : Nat) : (sliceWriteBy s src a n val).launches = s.launches := rfl
@[simp] theorem sliceWriteBy_nextLaunch (s : State) (src : Option (Nat × Stream)) (a n val : Nat) : (sliceWriteBy s src a n val).nextLaunch = s.nextLaunch := rfl
@[simp] theorem sliceWriteBy_io (s : State) (src : Option (Nat × Stream)) (a n val : Nat) : (sliceWriteBy s src a n val).io = s.io := rfl
@[simp] theorem sliceWriteBy_cycle (s : State) (src : Option (Nat × Stream)) (a n val : Nat) : (sliceWriteBy s src a n val).cycle = s.cycle := rfl
@[simp] theorem sliceWriteBy_clock (s : State) (src : Option (Nat × Stream)) (a n val : Nat) : (sliceWriteBy s src a n val).clock = s.clock := rfl
@[simp] theorem sliceWriteBy_inputs (s : State) (src : Option (Nat × Stream)) (a n val : Nat) : (sliceWriteBy s src a n val).inputs = s.inputs := rfl
@[simp] theorem sliceWriteBy_msg (s : State) (src : Option (Nat × Stream)) (a n val : Nat) : (sliceWriteBy s src a n val).msg = s.msg := rfl
@[simp] theorem sliceWriteBy_stalled (s : State) (src : Option (Nat × Stream)) (a n val : Nat) : (sliceWriteBy s src a n val).stalled = s.stalled := rfl
@[simp] theorem sliceWriteBy_hostReads (s : State) (src : Option (Nat × Stream)) (a n val : Nat) : (sliceWriteBy s src a n val).hostReads = s.hostReads := rfl
@[simp] theorem sliceWriteBy_waiting (s : State) (src : Option (Nat × Stream)) (a n val : Nat) : (sliceWriteBy s src a n val).waiting = s.waiting := rfl
@[simp] theorem sliceWriteBy_answer (s : State) (src : Option (Nat × Stream)) (a n val : Nat) : (sliceWriteBy s src a n val).answer = s.answer := rfl

@[simp] theorem setFull_g (s : State) (a : Nat) (b : Bool) : (setFull s a b).g = s.g := rfl
@[simp] theorem setFull_others (s : State) (a : Nat) (b : Bool) : (setFull s a b).others = s.others := rfl
@[simp] theorem setFull_saved (s : State) (a : Nat) (b : Bool) : (setFull s a b).saved = s.saved := rfl
@[simp] theorem setFull_sp (s : State) (a : Nat) (b : Bool) : (setFull s a b).sp = s.sp := rfl
@[simp] theorem setFull_xl (s : State) (a : Nat) (b : Bool) : (setFull s a b).xl = s.xl := rfl
@[simp] theorem setFull_ra (s : State) (a : Nat) (b : Bool) : (setFull s a b).ra = s.ra := rfl
@[simp] theorem setFull_chains (s : State) (a : Nat) (b : Bool) : (setFull s a b).chains = s.chains := rfl
@[simp] theorem setFull_futs (s : State) (a : Nat) (b : Bool) : (setFull s a b).futs = s.futs := rfl
@[simp] theorem setFull_sent (s : State) (a : Nat) (b : Bool) : (setFull s a b).sent = s.sent := rfl
@[simp] theorem setFull_eng (s : State) (a : Nat) (b : Bool) : (setFull s a b).eng = s.eng := rfl
@[simp] theorem setFull_cores (s : State) (a : Nat) (b : Bool) : (setFull s a b).cores = s.cores := rfl
@[simp] theorem setFull_served (s : State) (a : Nat) (b : Bool) : (setFull s a b).served = s.served := rfl
@[simp] theorem setFull_seqServed (s : State) (a : Nat) (b : Bool) : (setFull s a b).seqServed = s.seqServed := rfl
@[simp] theorem setFull_passed (s : State) (a : Nat) (b : Bool) : (setFull s a b).passed = s.passed := rfl
@[simp] theorem setFull_teams (s : State) (a : Nat) (b : Bool) : (setFull s a b).teams = s.teams := rfl
@[simp] theorem setFull_clusters (s : State) (a : Nat) (b : Bool) : (setFull s a b).clusters = s.clusters := rfl
@[simp] theorem setFull_channels (s : State) (a : Nat) (b : Bool) : (setFull s a b).channels = s.channels := rfl
@[simp] theorem setFull_posts (s : State) (a : Nat) (b : Bool) : (setFull s a b).posts = s.posts := rfl
@[simp] theorem setFull_granules (s : State) (a : Nat) (b : Bool) : (setFull s a b).granules = s.granules := rfl
@[simp] theorem setFull_launches (s : State) (a : Nat) (b : Bool) : (setFull s a b).launches = s.launches := rfl
@[simp] theorem setFull_nextLaunch (s : State) (a : Nat) (b : Bool) : (setFull s a b).nextLaunch = s.nextLaunch := rfl
@[simp] theorem setFull_io (s : State) (a : Nat) (b : Bool) : (setFull s a b).io = s.io := rfl
@[simp] theorem setFull_cycle (s : State) (a : Nat) (b : Bool) : (setFull s a b).cycle = s.cycle := rfl
@[simp] theorem setFull_clock (s : State) (a : Nat) (b : Bool) : (setFull s a b).clock = s.clock := rfl
@[simp] theorem setFull_freeCtr (s : State) (a : Nat) (b : Bool) : (setFull s a b).freeCtr = s.freeCtr := rfl
@[simp] theorem setFull_inputs (s : State) (a : Nat) (b : Bool) : (setFull s a b).inputs = s.inputs := rfl
@[simp] theorem setFull_msg (s : State) (a : Nat) (b : Bool) : (setFull s a b).msg = s.msg := rfl
@[simp] theorem setFull_stalled (s : State) (a : Nat) (b : Bool) : (setFull s a b).stalled = s.stalled := rfl
@[simp] theorem setFull_barred (s : State) (a : Nat) (b : Bool) : (setFull s a b).barred = s.barred := rfl
@[simp] theorem setFull_hostReads (s : State) (a : Nat) (b : Bool) : (setFull s a b).hostReads = s.hostReads := rfl
@[simp] theorem setFull_snoops (s : State) (a : Nat) (b : Bool) : (setFull s a b).snoops = s.snoops := rfl
@[simp] theorem setFull_waiting (s : State) (a : Nat) (b : Bool) : (setFull s a b).waiting = s.waiting := rfl
@[simp] theorem setFull_answer (s : State) (a : Nat) (b : Bool) : (setFull s a b).answer = s.answer := rfl

@[simp] theorem poisonLine_g (s : State) (l : Nat) : (poisonLine s l).g = s.g := rfl
@[simp] theorem poisonLine_others (s : State) (l : Nat) : (poisonLine s l).others = s.others := rfl
@[simp] theorem poisonLine_saved (s : State) (l : Nat) : (poisonLine s l).saved = s.saved := rfl
@[simp] theorem poisonLine_sp (s : State) (l : Nat) : (poisonLine s l).sp = s.sp := rfl
@[simp] theorem poisonLine_xl (s : State) (l : Nat) : (poisonLine s l).xl = s.xl := rfl
@[simp] theorem poisonLine_ra (s : State) (l : Nat) : (poisonLine s l).ra = s.ra := rfl
@[simp] theorem poisonLine_chains (s : State) (l : Nat) : (poisonLine s l).chains = s.chains := rfl
@[simp] theorem poisonLine_futs (s : State) (l : Nat) : (poisonLine s l).futs = s.futs := rfl
@[simp] theorem poisonLine_sent (s : State) (l : Nat) : (poisonLine s l).sent = s.sent := rfl
@[simp] theorem poisonLine_eng (s : State) (l : Nat) : (poisonLine s l).eng = s.eng := rfl
@[simp] theorem poisonLine_cores (s : State) (l : Nat) : (poisonLine s l).cores = s.cores := rfl
@[simp] theorem poisonLine_served (s : State) (l : Nat) : (poisonLine s l).served = s.served := rfl
@[simp] theorem poisonLine_seqServed (s : State) (l : Nat) : (poisonLine s l).seqServed = s.seqServed := rfl
@[simp] theorem poisonLine_passed (s : State) (l : Nat) : (poisonLine s l).passed = s.passed := rfl
@[simp] theorem poisonLine_teams (s : State) (l : Nat) : (poisonLine s l).teams = s.teams := rfl
@[simp] theorem poisonLine_clusters (s : State) (l : Nat) : (poisonLine s l).clusters = s.clusters := rfl
@[simp] theorem poisonLine_channels (s : State) (l : Nat) : (poisonLine s l).channels = s.channels := rfl
@[simp] theorem poisonLine_posts (s : State) (l : Nat) : (poisonLine s l).posts = s.posts := rfl
@[simp] theorem poisonLine_granules (s : State) (l : Nat) : (poisonLine s l).granules = s.granules := rfl
@[simp] theorem poisonLine_launches (s : State) (l : Nat) : (poisonLine s l).launches = s.launches := rfl
@[simp] theorem poisonLine_nextLaunch (s : State) (l : Nat) : (poisonLine s l).nextLaunch = s.nextLaunch := rfl
@[simp] theorem poisonLine_io (s : State) (l : Nat) : (poisonLine s l).io = s.io := rfl
@[simp] theorem poisonLine_cycle (s : State) (l : Nat) : (poisonLine s l).cycle = s.cycle := rfl
@[simp] theorem poisonLine_clock (s : State) (l : Nat) : (poisonLine s l).clock = s.clock := rfl
@[simp] theorem poisonLine_freeCtr (s : State) (l : Nat) : (poisonLine s l).freeCtr = s.freeCtr := rfl
@[simp] theorem poisonLine_inputs (s : State) (l : Nat) : (poisonLine s l).inputs = s.inputs := rfl
@[simp] theorem poisonLine_msg (s : State) (l : Nat) : (poisonLine s l).msg = s.msg := rfl
@[simp] theorem poisonLine_stalled (s : State) (l : Nat) : (poisonLine s l).stalled = s.stalled := rfl
@[simp] theorem poisonLine_barred (s : State) (l : Nat) : (poisonLine s l).barred = s.barred := rfl
@[simp] theorem poisonLine_hostReads (s : State) (l : Nat) : (poisonLine s l).hostReads = s.hostReads := rfl
@[simp] theorem poisonLine_snoops (s : State) (l : Nat) : (poisonLine s l).snoops = s.snoops := rfl
@[simp] theorem poisonLine_waiting (s : State) (l : Nat) : (poisonLine s l).waiting = s.waiting := rfl
@[simp] theorem poisonLine_answer (s : State) (l : Nat) : (poisonLine s l).answer = s.answer := rfl

@[simp] theorem updStale_g (s : State) (f : Stale → Stale) : (updStale s f).g = s.g := rfl
@[simp] theorem updStale_others (s : State) (f : Stale → Stale) : (updStale s f).others = s.others := rfl
@[simp] theorem updStale_saved (s : State) (f : Stale → Stale) : (updStale s f).saved = s.saved := rfl
@[simp] theorem updStale_sp (s : State) (f : Stale → Stale) : (updStale s f).sp = s.sp := rfl
@[simp] theorem updStale_xl (s : State) (f : Stale → Stale) : (updStale s f).xl = s.xl := rfl
@[simp] theorem updStale_ra (s : State) (f : Stale → Stale) : (updStale s f).ra = s.ra := rfl
@[simp] theorem updStale_chains (s : State) (f : Stale → Stale) : (updStale s f).chains = s.chains := rfl
@[simp] theorem updStale_futs (s : State) (f : Stale → Stale) : (updStale s f).futs = s.futs := rfl
@[simp] theorem updStale_sent (s : State) (f : Stale → Stale) : (updStale s f).sent = s.sent := rfl
@[simp] theorem updStale_eng (s : State) (f : Stale → Stale) : (updStale s f).eng = s.eng := rfl
@[simp] theorem updStale_cores (s : State) (f : Stale → Stale) : (updStale s f).cores = s.cores := rfl
@[simp] theorem updStale_served (s : State) (f : Stale → Stale) : (updStale s f).served = s.served := rfl
@[simp] theorem updStale_seqServed (s : State) (f : Stale → Stale) : (updStale s f).seqServed = s.seqServed := rfl
@[simp] theorem updStale_passed (s : State) (f : Stale → Stale) : (updStale s f).passed = s.passed := rfl
@[simp] theorem updStale_teams (s : State) (f : Stale → Stale) : (updStale s f).teams = s.teams := rfl
@[simp] theorem updStale_clusters (s : State) (f : Stale → Stale) : (updStale s f).clusters = s.clusters := rfl
@[simp] theorem updStale_channels (s : State) (f : Stale → Stale) : (updStale s f).channels = s.channels := rfl
@[simp] theorem updStale_posts (s : State) (f : Stale → Stale) : (updStale s f).posts = s.posts := rfl
@[simp] theorem updStale_granules (s : State) (f : Stale → Stale) : (updStale s f).granules = s.granules := rfl
@[simp] theorem updStale_launches (s : State) (f : Stale → Stale) : (updStale s f).launches = s.launches := rfl
@[simp] theorem updStale_nextLaunch (s : State) (f : Stale → Stale) : (updStale s f).nextLaunch = s.nextLaunch := rfl
@[simp] theorem updStale_io (s : State) (f : Stale → Stale) : (updStale s f).io = s.io := rfl
@[simp] theorem updStale_cycle (s : State) (f : Stale → Stale) : (updStale s f).cycle = s.cycle := rfl
@[simp] theorem updStale_clock (s : State) (f : Stale → Stale) : (updStale s f).clock = s.clock := rfl
@[simp] theorem updStale_freeCtr (s : State) (f : Stale → Stale) : (updStale s f).freeCtr = s.freeCtr := rfl
@[simp] theorem updStale_inputs (s : State) (f : Stale → Stale) : (updStale s f).inputs = s.inputs := rfl
@[simp] theorem updStale_msg (s : State) (f : Stale → Stale) : (updStale s f).msg = s.msg := rfl
@[simp] theorem updStale_stalled (s : State) (f : Stale → Stale) : (updStale s f).stalled = s.stalled := rfl
@[simp] theorem updStale_barred (s : State) (f : Stale → Stale) : (updStale s f).barred = s.barred := rfl
@[simp] theorem updStale_hostReads (s : State) (f : Stale → Stale) : (updStale s f).hostReads = s.hostReads := rfl
@[simp] theorem updStale_snoops (s : State) (f : Stale → Stale) : (updStale s f).snoops = s.snoops := rfl
@[simp] theorem updStale_waiting (s : State) (f : Stale → Stale) : (updStale s f).waiting = s.waiting := rfl
@[simp] theorem updStale_answer (s : State) (f : Stale → Stale) : (updStale s f).answer = s.answer := rfl

@[simp] theorem orderStreams_g (s : State) (p : Stream → Bool) : (orderStreams s p).g = s.g := rfl
@[simp] theorem orderStreams_others (s : State) (p : Stream → Bool) : (orderStreams s p).others = s.others := rfl
@[simp] theorem orderStreams_saved (s : State) (p : Stream → Bool) : (orderStreams s p).saved = s.saved := rfl
@[simp] theorem orderStreams_sp (s : State) (p : Stream → Bool) : (orderStreams s p).sp = s.sp := rfl
@[simp] theorem orderStreams_xl (s : State) (p : Stream → Bool) : (orderStreams s p).xl = s.xl := rfl
@[simp] theorem orderStreams_ra (s : State) (p : Stream → Bool) : (orderStreams s p).ra = s.ra := rfl
@[simp] theorem orderStreams_chains (s : State) (p : Stream → Bool) : (orderStreams s p).chains = s.chains := rfl
@[simp] theorem orderStreams_futs (s : State) (p : Stream → Bool) : (orderStreams s p).futs = s.futs := rfl
@[simp] theorem orderStreams_sent (s : State) (p : Stream → Bool) : (orderStreams s p).sent = s.sent := rfl
@[simp] theorem orderStreams_eng (s : State) (p : Stream → Bool) : (orderStreams s p).eng = s.eng := rfl
@[simp] theorem orderStreams_cores (s : State) (p : Stream → Bool) : (orderStreams s p).cores = s.cores := rfl
@[simp] theorem orderStreams_served (s : State) (p : Stream → Bool) : (orderStreams s p).served = s.served := rfl
@[simp] theorem orderStreams_seqServed (s : State) (p : Stream → Bool) : (orderStreams s p).seqServed = s.seqServed := rfl
@[simp] theorem orderStreams_passed (s : State) (p : Stream → Bool) : (orderStreams s p).passed = s.passed := rfl
@[simp] theorem orderStreams_teams (s : State) (p : Stream → Bool) : (orderStreams s p).teams = s.teams := rfl
@[simp] theorem orderStreams_clusters (s : State) (p : Stream → Bool) : (orderStreams s p).clusters = s.clusters := rfl
@[simp] theorem orderStreams_channels (s : State) (p : Stream → Bool) : (orderStreams s p).channels = s.channels := rfl
@[simp] theorem orderStreams_posts (s : State) (p : Stream → Bool) : (orderStreams s p).posts = s.posts := rfl
@[simp] theorem orderStreams_granules (s : State) (p : Stream → Bool) : (orderStreams s p).granules = s.granules := rfl
@[simp] theorem orderStreams_launches (s : State) (p : Stream → Bool) : (orderStreams s p).launches = s.launches := rfl
@[simp] theorem orderStreams_nextLaunch (s : State) (p : Stream → Bool) : (orderStreams s p).nextLaunch = s.nextLaunch := rfl
@[simp] theorem orderStreams_io (s : State) (p : Stream → Bool) : (orderStreams s p).io = s.io := rfl
@[simp] theorem orderStreams_cycle (s : State) (p : Stream → Bool) : (orderStreams s p).cycle = s.cycle := rfl
@[simp] theorem orderStreams_clock (s : State) (p : Stream → Bool) : (orderStreams s p).clock = s.clock := rfl
@[simp] theorem orderStreams_freeCtr (s : State) (p : Stream → Bool) : (orderStreams s p).freeCtr = s.freeCtr := rfl
@[simp] theorem orderStreams_inputs (s : State) (p : Stream → Bool) : (orderStreams s p).inputs = s.inputs := rfl
@[simp] theorem orderStreams_msg (s : State) (p : Stream → Bool) : (orderStreams s p).msg = s.msg := rfl
@[simp] theorem orderStreams_stalled (s : State) (p : Stream → Bool) : (orderStreams s p).stalled = s.stalled := rfl
@[simp] theorem orderStreams_barred (s : State) (p : Stream → Bool) : (orderStreams s p).barred = s.barred := rfl
@[simp] theorem orderStreams_hostReads (s : State) (p : Stream → Bool) : (orderStreams s p).hostReads = s.hostReads := rfl
@[simp] theorem orderStreams_snoops (s : State) (p : Stream → Bool) : (orderStreams s p).snoops = s.snoops := rfl
@[simp] theorem orderStreams_waiting (s : State) (p : Stream → Bool) : (orderStreams s p).waiting = s.waiting := rfl
@[simp] theorem orderStreams_answer (s : State) (p : Stream → Bool) : (orderStreams s p).answer = s.answer := rfl

@[simp] theorem releaseAt_g (s : State) (scope : Nat) : (releaseAt s scope).g = s.g := by
  unfold releaseAt; split <;> rfl
@[simp] theorem releaseAt_others (s : State) (scope : Nat) : (releaseAt s scope).others = s.others := by
  unfold releaseAt; split <;> rfl
@[simp] theorem releaseAt_saved (s : State) (scope : Nat) : (releaseAt s scope).saved = s.saved := by
  unfold releaseAt; split <;> rfl
@[simp] theorem releaseAt_sp (s : State) (scope : Nat) : (releaseAt s scope).sp = s.sp := by
  unfold releaseAt; split <;> rfl
@[simp] theorem releaseAt_xl (s : State) (scope : Nat) : (releaseAt s scope).xl = s.xl := by
  unfold releaseAt; split <;> rfl
@[simp] theorem releaseAt_ra (s : State) (scope : Nat) : (releaseAt s scope).ra = s.ra := by
  unfold releaseAt; split <;> rfl
@[simp] theorem releaseAt_chains (s : State) (scope : Nat) : (releaseAt s scope).chains = s.chains := by
  unfold releaseAt; split <;> rfl
@[simp] theorem releaseAt_futs (s : State) (scope : Nat) : (releaseAt s scope).futs = s.futs := by
  unfold releaseAt; split <;> rfl
@[simp] theorem releaseAt_sent (s : State) (scope : Nat) : (releaseAt s scope).sent = s.sent := by
  unfold releaseAt; split <;> rfl
@[simp] theorem releaseAt_eng (s : State) (scope : Nat) : (releaseAt s scope).eng = s.eng := by
  unfold releaseAt; split <;> rfl
@[simp] theorem releaseAt_cores (s : State) (scope : Nat) : (releaseAt s scope).cores = s.cores := by
  unfold releaseAt; split <;> rfl
@[simp] theorem releaseAt_served (s : State) (scope : Nat) : (releaseAt s scope).served = s.served := by
  unfold releaseAt; split <;> rfl
@[simp] theorem releaseAt_seqServed (s : State) (scope : Nat) : (releaseAt s scope).seqServed = s.seqServed := by
  unfold releaseAt; split <;> rfl
@[simp] theorem releaseAt_passed (s : State) (scope : Nat) : (releaseAt s scope).passed = s.passed := by
  unfold releaseAt; split <;> rfl
@[simp] theorem releaseAt_teams (s : State) (scope : Nat) : (releaseAt s scope).teams = s.teams := by
  unfold releaseAt; split <;> rfl
@[simp] theorem releaseAt_clusters (s : State) (scope : Nat) : (releaseAt s scope).clusters = s.clusters := by
  unfold releaseAt; split <;> rfl
@[simp] theorem releaseAt_channels (s : State) (scope : Nat) : (releaseAt s scope).channels = s.channels := by
  unfold releaseAt; split <;> rfl
@[simp] theorem releaseAt_posts (s : State) (scope : Nat) : (releaseAt s scope).posts = s.posts := by
  unfold releaseAt; split <;> rfl
@[simp] theorem releaseAt_granules (s : State) (scope : Nat) : (releaseAt s scope).granules = s.granules := by
  unfold releaseAt; split <;> rfl
@[simp] theorem releaseAt_launches (s : State) (scope : Nat) : (releaseAt s scope).launches = s.launches := by
  unfold releaseAt; split <;> rfl
@[simp] theorem releaseAt_nextLaunch (s : State) (scope : Nat) : (releaseAt s scope).nextLaunch = s.nextLaunch := by
  unfold releaseAt; split <;> rfl
@[simp] theorem releaseAt_io (s : State) (scope : Nat) : (releaseAt s scope).io = s.io := by
  unfold releaseAt; split <;> rfl
@[simp] theorem releaseAt_cycle (s : State) (scope : Nat) : (releaseAt s scope).cycle = s.cycle := by
  unfold releaseAt; split <;> rfl
@[simp] theorem releaseAt_clock (s : State) (scope : Nat) : (releaseAt s scope).clock = s.clock := by
  unfold releaseAt; split <;> rfl
@[simp] theorem releaseAt_freeCtr (s : State) (scope : Nat) : (releaseAt s scope).freeCtr = s.freeCtr := by
  unfold releaseAt; split <;> rfl
@[simp] theorem releaseAt_inputs (s : State) (scope : Nat) : (releaseAt s scope).inputs = s.inputs := by
  unfold releaseAt; split <;> rfl
@[simp] theorem releaseAt_msg (s : State) (scope : Nat) : (releaseAt s scope).msg = s.msg := by
  unfold releaseAt; split <;> rfl
@[simp] theorem releaseAt_stalled (s : State) (scope : Nat) : (releaseAt s scope).stalled = s.stalled := by
  unfold releaseAt; split <;> rfl
@[simp] theorem releaseAt_barred (s : State) (scope : Nat) : (releaseAt s scope).barred = s.barred := by
  unfold releaseAt; split <;> rfl
@[simp] theorem releaseAt_hostReads (s : State) (scope : Nat) : (releaseAt s scope).hostReads = s.hostReads := by
  unfold releaseAt; split <;> rfl
@[simp] theorem releaseAt_snoops (s : State) (scope : Nat) : (releaseAt s scope).snoops = s.snoops := by
  unfold releaseAt; split <;> rfl
@[simp] theorem releaseAt_waiting (s : State) (scope : Nat) : (releaseAt s scope).waiting = s.waiting := by
  unfold releaseAt; split <;> rfl
@[simp] theorem releaseAt_answer (s : State) (scope : Nat) : (releaseAt s scope).answer = s.answer := by
  unfold releaseAt; split <;> rfl

@[simp] theorem acquired_others (s : State) : (acquired s).others = s.others := rfl
@[simp] theorem acquired_saved (s : State) : (acquired s).saved = s.saved := rfl
@[simp] theorem acquired_sp (s : State) : (acquired s).sp = s.sp := rfl
@[simp] theorem acquired_xl (s : State) : (acquired s).xl = s.xl := rfl
@[simp] theorem acquired_ra (s : State) : (acquired s).ra = s.ra := rfl
@[simp] theorem acquired_chains (s : State) : (acquired s).chains = s.chains := rfl
@[simp] theorem acquired_futs (s : State) : (acquired s).futs = s.futs := rfl
@[simp] theorem acquired_sent (s : State) : (acquired s).sent = s.sent := rfl
@[simp] theorem acquired_eng (s : State) : (acquired s).eng = s.eng := rfl
@[simp] theorem acquired_cores (s : State) : (acquired s).cores = s.cores := rfl
@[simp] theorem acquired_served (s : State) : (acquired s).served = s.served := rfl
@[simp] theorem acquired_seqServed (s : State) : (acquired s).seqServed = s.seqServed := rfl
@[simp] theorem acquired_passed (s : State) : (acquired s).passed = s.passed := rfl
@[simp] theorem acquired_teams (s : State) : (acquired s).teams = s.teams := rfl
@[simp] theorem acquired_clusters (s : State) : (acquired s).clusters = s.clusters := rfl
@[simp] theorem acquired_channels (s : State) : (acquired s).channels = s.channels := rfl
@[simp] theorem acquired_posts (s : State) : (acquired s).posts = s.posts := rfl
@[simp] theorem acquired_granules (s : State) : (acquired s).granules = s.granules := rfl
@[simp] theorem acquired_launches (s : State) : (acquired s).launches = s.launches := rfl
@[simp] theorem acquired_nextLaunch (s : State) : (acquired s).nextLaunch = s.nextLaunch := rfl
@[simp] theorem acquired_io (s : State) : (acquired s).io = s.io := rfl
@[simp] theorem acquired_cycle (s : State) : (acquired s).cycle = s.cycle := rfl
@[simp] theorem acquired_clock (s : State) : (acquired s).clock = s.clock := rfl
@[simp] theorem acquired_freeCtr (s : State) : (acquired s).freeCtr = s.freeCtr := rfl
@[simp] theorem acquired_inputs (s : State) : (acquired s).inputs = s.inputs := rfl
@[simp] theorem acquired_msg (s : State) : (acquired s).msg = s.msg := rfl
@[simp] theorem acquired_stalled (s : State) : (acquired s).stalled = s.stalled := rfl
@[simp] theorem acquired_barred (s : State) : (acquired s).barred = s.barred := rfl
@[simp] theorem acquired_hostReads (s : State) : (acquired s).hostReads = s.hostReads := rfl
@[simp] theorem acquired_snoops (s : State) : (acquired s).snoops = s.snoops := rfl
@[simp] theorem acquired_waiting (s : State) : (acquired s).waiting = s.waiting := rfl
@[simp] theorem acquired_answer (s : State) : (acquired s).answer = s.answer := rfl

@[simp] theorem ordersOthers_others (s : State) : (ordersOthers s).others = s.others := rfl
@[simp] theorem ordersOthers_saved (s : State) : (ordersOthers s).saved = s.saved := rfl
@[simp] theorem ordersOthers_pm (s : State) : (ordersOthers s).pm = s.pm := rfl
@[simp] theorem ordersOthers_sp (s : State) : (ordersOthers s).sp = s.sp := rfl
@[simp] theorem ordersOthers_xl (s : State) : (ordersOthers s).xl = s.xl := rfl
@[simp] theorem ordersOthers_ra (s : State) : (ordersOthers s).ra = s.ra := rfl
@[simp] theorem ordersOthers_chains (s : State) : (ordersOthers s).chains = s.chains := rfl
@[simp] theorem ordersOthers_futs (s : State) : (ordersOthers s).futs = s.futs := rfl
@[simp] theorem ordersOthers_sent (s : State) : (ordersOthers s).sent = s.sent := rfl
@[simp] theorem ordersOthers_eng (s : State) : (ordersOthers s).eng = s.eng := rfl
@[simp] theorem ordersOthers_cores (s : State) : (ordersOthers s).cores = s.cores := rfl
@[simp] theorem ordersOthers_served (s : State) : (ordersOthers s).served = s.served := rfl
@[simp] theorem ordersOthers_seqServed (s : State) : (ordersOthers s).seqServed = s.seqServed := rfl
@[simp] theorem ordersOthers_passed (s : State) : (ordersOthers s).passed = s.passed := rfl
@[simp] theorem ordersOthers_teams (s : State) : (ordersOthers s).teams = s.teams := rfl
@[simp] theorem ordersOthers_clusters (s : State) : (ordersOthers s).clusters = s.clusters := rfl
@[simp] theorem ordersOthers_channels (s : State) : (ordersOthers s).channels = s.channels := rfl
@[simp] theorem ordersOthers_posts (s : State) : (ordersOthers s).posts = s.posts := rfl
@[simp] theorem ordersOthers_granules (s : State) : (ordersOthers s).granules = s.granules := rfl
@[simp] theorem ordersOthers_launches (s : State) : (ordersOthers s).launches = s.launches := rfl
@[simp] theorem ordersOthers_nextLaunch (s : State) : (ordersOthers s).nextLaunch = s.nextLaunch := rfl
@[simp] theorem ordersOthers_io (s : State) : (ordersOthers s).io = s.io := rfl
@[simp] theorem ordersOthers_cycle (s : State) : (ordersOthers s).cycle = s.cycle := rfl
@[simp] theorem ordersOthers_clock (s : State) : (ordersOthers s).clock = s.clock := rfl
@[simp] theorem ordersOthers_freeCtr (s : State) : (ordersOthers s).freeCtr = s.freeCtr := rfl
@[simp] theorem ordersOthers_inputs (s : State) : (ordersOthers s).inputs = s.inputs := rfl
@[simp] theorem ordersOthers_msg (s : State) : (ordersOthers s).msg = s.msg := rfl
@[simp] theorem ordersOthers_stalled (s : State) : (ordersOthers s).stalled = s.stalled := rfl
@[simp] theorem ordersOthers_barred (s : State) : (ordersOthers s).barred = s.barred := rfl
@[simp] theorem ordersOthers_hostReads (s : State) : (ordersOthers s).hostReads = s.hostReads := rfl
@[simp] theorem ordersOthers_snoops (s : State) : (ordersOthers s).snoops = s.snoops := rfl
@[simp] theorem ordersOthers_waiting (s : State) : (ordersOthers s).waiting = s.waiting := rfl
@[simp] theorem ordersOthers_answer (s : State) : (ordersOthers s).answer = s.answer := rfl

@[simp] theorem dropStale_g (s : State) (gid : Nat) : (dropStale s gid).g = s.g := rfl
@[simp] theorem dropStale_others (s : State) (gid : Nat) : (dropStale s gid).others = s.others := rfl
@[simp] theorem dropStale_saved (s : State) (gid : Nat) : (dropStale s gid).saved = s.saved := rfl
@[simp] theorem dropStale_sp (s : State) (gid : Nat) : (dropStale s gid).sp = s.sp := rfl
@[simp] theorem dropStale_xl (s : State) (gid : Nat) : (dropStale s gid).xl = s.xl := rfl
@[simp] theorem dropStale_ra (s : State) (gid : Nat) : (dropStale s gid).ra = s.ra := rfl
@[simp] theorem dropStale_chains (s : State) (gid : Nat) : (dropStale s gid).chains = s.chains := rfl
@[simp] theorem dropStale_futs (s : State) (gid : Nat) : (dropStale s gid).futs = s.futs := rfl
@[simp] theorem dropStale_sent (s : State) (gid : Nat) : (dropStale s gid).sent = s.sent := rfl
@[simp] theorem dropStale_eng (s : State) (gid : Nat) : (dropStale s gid).eng = s.eng := rfl
@[simp] theorem dropStale_cores (s : State) (gid : Nat) : (dropStale s gid).cores = s.cores := rfl
@[simp] theorem dropStale_served (s : State) (gid : Nat) : (dropStale s gid).served = s.served := rfl
@[simp] theorem dropStale_seqServed (s : State) (gid : Nat) : (dropStale s gid).seqServed = s.seqServed := rfl
@[simp] theorem dropStale_passed (s : State) (gid : Nat) : (dropStale s gid).passed = s.passed := rfl
@[simp] theorem dropStale_teams (s : State) (gid : Nat) : (dropStale s gid).teams = s.teams := rfl
@[simp] theorem dropStale_clusters (s : State) (gid : Nat) : (dropStale s gid).clusters = s.clusters := rfl
@[simp] theorem dropStale_channels (s : State) (gid : Nat) : (dropStale s gid).channels = s.channels := rfl
@[simp] theorem dropStale_posts (s : State) (gid : Nat) : (dropStale s gid).posts = s.posts := rfl
@[simp] theorem dropStale_granules (s : State) (gid : Nat) : (dropStale s gid).granules = s.granules := rfl
@[simp] theorem dropStale_launches (s : State) (gid : Nat) : (dropStale s gid).launches = s.launches := rfl
@[simp] theorem dropStale_nextLaunch (s : State) (gid : Nat) : (dropStale s gid).nextLaunch = s.nextLaunch := rfl
@[simp] theorem dropStale_io (s : State) (gid : Nat) : (dropStale s gid).io = s.io := rfl
@[simp] theorem dropStale_cycle (s : State) (gid : Nat) : (dropStale s gid).cycle = s.cycle := rfl
@[simp] theorem dropStale_clock (s : State) (gid : Nat) : (dropStale s gid).clock = s.clock := rfl
@[simp] theorem dropStale_freeCtr (s : State) (gid : Nat) : (dropStale s gid).freeCtr = s.freeCtr := rfl
@[simp] theorem dropStale_inputs (s : State) (gid : Nat) : (dropStale s gid).inputs = s.inputs := rfl
@[simp] theorem dropStale_msg (s : State) (gid : Nat) : (dropStale s gid).msg = s.msg := rfl
@[simp] theorem dropStale_stalled (s : State) (gid : Nat) : (dropStale s gid).stalled = s.stalled := rfl
@[simp] theorem dropStale_barred (s : State) (gid : Nat) : (dropStale s gid).barred = s.barred := rfl
@[simp] theorem dropStale_hostReads (s : State) (gid : Nat) : (dropStale s gid).hostReads = s.hostReads := rfl
@[simp] theorem dropStale_snoops (s : State) (gid : Nat) : (dropStale s gid).snoops = s.snoops := rfl
@[simp] theorem dropStale_waiting (s : State) (gid : Nat) : (dropStale s gid).waiting = s.waiting := rfl
@[simp] theorem dropStale_answer (s : State) (gid : Nat) : (dropStale s gid).answer = s.answer := rfl

@[simp] theorem takeBack_g (s : State) (hs : List Nat) : (takeBack s hs).g = s.g := rfl
@[simp] theorem takeBack_others (s : State) (hs : List Nat) : (takeBack s hs).others = s.others := rfl
@[simp] theorem takeBack_saved (s : State) (hs : List Nat) : (takeBack s hs).saved = s.saved := rfl
@[simp] theorem takeBack_pm (s : State) (hs : List Nat) : (takeBack s hs).pm = s.pm := rfl
@[simp] theorem takeBack_sp (s : State) (hs : List Nat) : (takeBack s hs).sp = s.sp := rfl
@[simp] theorem takeBack_xl (s : State) (hs : List Nat) : (takeBack s hs).xl = s.xl := rfl
@[simp] theorem takeBack_ra (s : State) (hs : List Nat) : (takeBack s hs).ra = s.ra := rfl
@[simp] theorem takeBack_chains (s : State) (hs : List Nat) : (takeBack s hs).chains = s.chains := rfl
@[simp] theorem takeBack_futs (s : State) (hs : List Nat) : (takeBack s hs).futs = s.futs := rfl
@[simp] theorem takeBack_sent (s : State) (hs : List Nat) : (takeBack s hs).sent = s.sent := rfl
@[simp] theorem takeBack_eng (s : State) (hs : List Nat) : (takeBack s hs).eng = s.eng := rfl
@[simp] theorem takeBack_cores (s : State) (hs : List Nat) : (takeBack s hs).cores = s.cores := rfl
@[simp] theorem takeBack_served (s : State) (hs : List Nat) : (takeBack s hs).served = s.served := rfl
@[simp] theorem takeBack_seqServed (s : State) (hs : List Nat) : (takeBack s hs).seqServed = s.seqServed := rfl
@[simp] theorem takeBack_passed (s : State) (hs : List Nat) : (takeBack s hs).passed = s.passed := rfl
@[simp] theorem takeBack_teams (s : State) (hs : List Nat) : (takeBack s hs).teams = s.teams := rfl
@[simp] theorem takeBack_clusters (s : State) (hs : List Nat) : (takeBack s hs).clusters = s.clusters := rfl
@[simp] theorem takeBack_channels (s : State) (hs : List Nat) : (takeBack s hs).channels = s.channels := rfl
@[simp] theorem takeBack_posts (s : State) (hs : List Nat) : (takeBack s hs).posts = s.posts := rfl
@[simp] theorem takeBack_granules (s : State) (hs : List Nat) : (takeBack s hs).granules = s.granules := rfl
@[simp] theorem takeBack_launches (s : State) (hs : List Nat) : (takeBack s hs).launches = s.launches := rfl
@[simp] theorem takeBack_nextLaunch (s : State) (hs : List Nat) : (takeBack s hs).nextLaunch = s.nextLaunch := rfl
@[simp] theorem takeBack_io (s : State) (hs : List Nat) : (takeBack s hs).io = s.io := rfl
@[simp] theorem takeBack_cycle (s : State) (hs : List Nat) : (takeBack s hs).cycle = s.cycle := rfl
@[simp] theorem takeBack_clock (s : State) (hs : List Nat) : (takeBack s hs).clock = s.clock := rfl
@[simp] theorem takeBack_freeCtr (s : State) (hs : List Nat) : (takeBack s hs).freeCtr = s.freeCtr := rfl
@[simp] theorem takeBack_inputs (s : State) (hs : List Nat) : (takeBack s hs).inputs = s.inputs := rfl
@[simp] theorem takeBack_msg (s : State) (hs : List Nat) : (takeBack s hs).msg = s.msg := rfl
@[simp] theorem takeBack_stalled (s : State) (hs : List Nat) : (takeBack s hs).stalled = s.stalled := rfl
@[simp] theorem takeBack_hostReads (s : State) (hs : List Nat) : (takeBack s hs).hostReads = s.hostReads := rfl
@[simp] theorem takeBack_waiting (s : State) (hs : List Nat) : (takeBack s hs).waiting = s.waiting := rfl
@[simp] theorem takeBack_answer (s : State) (hs : List Nat) : (takeBack s hs).answer = s.answer := rfl

@[simp] theorem behindHeld_g (s : State) (l : Nat) : (behindHeld s l).g = s.g := rfl
@[simp] theorem behindHeld_others (s : State) (l : Nat) : (behindHeld s l).others = s.others := rfl
@[simp] theorem behindHeld_saved (s : State) (l : Nat) : (behindHeld s l).saved = s.saved := rfl
@[simp] theorem behindHeld_pm (s : State) (l : Nat) : (behindHeld s l).pm = s.pm := rfl
@[simp] theorem behindHeld_sp (s : State) (l : Nat) : (behindHeld s l).sp = s.sp := rfl
@[simp] theorem behindHeld_xl (s : State) (l : Nat) : (behindHeld s l).xl = s.xl := rfl
@[simp] theorem behindHeld_ra (s : State) (l : Nat) : (behindHeld s l).ra = s.ra := rfl
@[simp] theorem behindHeld_chains (s : State) (l : Nat) : (behindHeld s l).chains = s.chains := rfl
@[simp] theorem behindHeld_futs (s : State) (l : Nat) : (behindHeld s l).futs = s.futs := rfl
@[simp] theorem behindHeld_sent (s : State) (l : Nat) : (behindHeld s l).sent = s.sent := rfl
@[simp] theorem behindHeld_eng (s : State) (l : Nat) : (behindHeld s l).eng = s.eng := rfl
@[simp] theorem behindHeld_cores (s : State) (l : Nat) : (behindHeld s l).cores = s.cores := rfl
@[simp] theorem behindHeld_served (s : State) (l : Nat) : (behindHeld s l).served = s.served := rfl
@[simp] theorem behindHeld_seqServed (s : State) (l : Nat) : (behindHeld s l).seqServed = s.seqServed := rfl
@[simp] theorem behindHeld_passed (s : State) (l : Nat) : (behindHeld s l).passed = s.passed := rfl
@[simp] theorem behindHeld_teams (s : State) (l : Nat) : (behindHeld s l).teams = s.teams := rfl
@[simp] theorem behindHeld_clusters (s : State) (l : Nat) : (behindHeld s l).clusters = s.clusters := rfl
@[simp] theorem behindHeld_channels (s : State) (l : Nat) : (behindHeld s l).channels = s.channels := rfl
@[simp] theorem behindHeld_posts (s : State) (l : Nat) : (behindHeld s l).posts = s.posts := rfl
@[simp] theorem behindHeld_granules (s : State) (l : Nat) : (behindHeld s l).granules = s.granules := rfl
@[simp] theorem behindHeld_launches (s : State) (l : Nat) : (behindHeld s l).launches = s.launches := rfl
@[simp] theorem behindHeld_nextLaunch (s : State) (l : Nat) : (behindHeld s l).nextLaunch = s.nextLaunch := rfl
@[simp] theorem behindHeld_io (s : State) (l : Nat) : (behindHeld s l).io = s.io := rfl
@[simp] theorem behindHeld_cycle (s : State) (l : Nat) : (behindHeld s l).cycle = s.cycle := rfl
@[simp] theorem behindHeld_clock (s : State) (l : Nat) : (behindHeld s l).clock = s.clock := rfl
@[simp] theorem behindHeld_freeCtr (s : State) (l : Nat) : (behindHeld s l).freeCtr = s.freeCtr := rfl
@[simp] theorem behindHeld_inputs (s : State) (l : Nat) : (behindHeld s l).inputs = s.inputs := rfl
@[simp] theorem behindHeld_msg (s : State) (l : Nat) : (behindHeld s l).msg = s.msg := rfl
@[simp] theorem behindHeld_stalled (s : State) (l : Nat) : (behindHeld s l).stalled = s.stalled := rfl
@[simp] theorem behindHeld_hostReads (s : State) (l : Nat) : (behindHeld s l).hostReads = s.hostReads := rfl
@[simp] theorem behindHeld_snoops (s : State) (l : Nat) : (behindHeld s l).snoops = s.snoops := rfl
@[simp] theorem behindHeld_waiting (s : State) (l : Nat) : (behindHeld s l).waiting = s.waiting := rfl
@[simp] theorem behindHeld_answer (s : State) (l : Nat) : (behindHeld s l).answer = s.answer := rfl

@[simp] theorem dropSent_g (s : State) (e : SentEvent) : (dropSent s e).g = s.g := rfl
@[simp] theorem dropSent_others (s : State) (e : SentEvent) : (dropSent s e).others = s.others := rfl
@[simp] theorem dropSent_saved (s : State) (e : SentEvent) : (dropSent s e).saved = s.saved := rfl
@[simp] theorem dropSent_pm (s : State) (e : SentEvent) : (dropSent s e).pm = s.pm := rfl
@[simp] theorem dropSent_sp (s : State) (e : SentEvent) : (dropSent s e).sp = s.sp := rfl
@[simp] theorem dropSent_xl (s : State) (e : SentEvent) : (dropSent s e).xl = s.xl := rfl
@[simp] theorem dropSent_ra (s : State) (e : SentEvent) : (dropSent s e).ra = s.ra := rfl
@[simp] theorem dropSent_chains (s : State) (e : SentEvent) : (dropSent s e).chains = s.chains := rfl
@[simp] theorem dropSent_futs (s : State) (e : SentEvent) : (dropSent s e).futs = s.futs := rfl
@[simp] theorem dropSent_eng (s : State) (e : SentEvent) : (dropSent s e).eng = s.eng := rfl
@[simp] theorem dropSent_cores (s : State) (e : SentEvent) : (dropSent s e).cores = s.cores := rfl
@[simp] theorem dropSent_served (s : State) (e : SentEvent) : (dropSent s e).served = s.served := rfl
@[simp] theorem dropSent_seqServed (s : State) (e : SentEvent) : (dropSent s e).seqServed = s.seqServed := rfl
@[simp] theorem dropSent_passed (s : State) (e : SentEvent) : (dropSent s e).passed = s.passed := rfl
@[simp] theorem dropSent_teams (s : State) (e : SentEvent) : (dropSent s e).teams = s.teams := rfl
@[simp] theorem dropSent_clusters (s : State) (e : SentEvent) : (dropSent s e).clusters = s.clusters := rfl
@[simp] theorem dropSent_channels (s : State) (e : SentEvent) : (dropSent s e).channels = s.channels := rfl
@[simp] theorem dropSent_posts (s : State) (e : SentEvent) : (dropSent s e).posts = s.posts := rfl
@[simp] theorem dropSent_granules (s : State) (e : SentEvent) : (dropSent s e).granules = s.granules := rfl
@[simp] theorem dropSent_launches (s : State) (e : SentEvent) : (dropSent s e).launches = s.launches := rfl
@[simp] theorem dropSent_nextLaunch (s : State) (e : SentEvent) : (dropSent s e).nextLaunch = s.nextLaunch := rfl
@[simp] theorem dropSent_io (s : State) (e : SentEvent) : (dropSent s e).io = s.io := rfl
@[simp] theorem dropSent_cycle (s : State) (e : SentEvent) : (dropSent s e).cycle = s.cycle := rfl
@[simp] theorem dropSent_clock (s : State) (e : SentEvent) : (dropSent s e).clock = s.clock := rfl
@[simp] theorem dropSent_freeCtr (s : State) (e : SentEvent) : (dropSent s e).freeCtr = s.freeCtr := rfl
@[simp] theorem dropSent_inputs (s : State) (e : SentEvent) : (dropSent s e).inputs = s.inputs := rfl
@[simp] theorem dropSent_msg (s : State) (e : SentEvent) : (dropSent s e).msg = s.msg := rfl
@[simp] theorem dropSent_stalled (s : State) (e : SentEvent) : (dropSent s e).stalled = s.stalled := rfl
@[simp] theorem dropSent_barred (s : State) (e : SentEvent) : (dropSent s e).barred = s.barred := rfl
@[simp] theorem dropSent_hostReads (s : State) (e : SentEvent) : (dropSent s e).hostReads = s.hostReads := rfl
@[simp] theorem dropSent_snoops (s : State) (e : SentEvent) : (dropSent s e).snoops = s.snoops := rfl
@[simp] theorem dropSent_waiting (s : State) (e : SentEvent) : (dropSent s e).waiting = s.waiting := rfl
@[simp] theorem dropSent_answer (s : State) (e : SentEvent) : (dropSent s e).answer = s.answer := rfl

@[simp] theorem noteSent_g (s : State) (source : Nat) (es : List SentEvent) : (noteSent s source es).g = s.g := rfl
@[simp] theorem noteSent_others (s : State) (source : Nat) (es : List SentEvent) : (noteSent s source es).others = s.others := rfl
@[simp] theorem noteSent_saved (s : State) (source : Nat) (es : List SentEvent) : (noteSent s source es).saved = s.saved := rfl
@[simp] theorem noteSent_pm (s : State) (source : Nat) (es : List SentEvent) : (noteSent s source es).pm = s.pm := rfl
@[simp] theorem noteSent_sp (s : State) (source : Nat) (es : List SentEvent) : (noteSent s source es).sp = s.sp := rfl
@[simp] theorem noteSent_xl (s : State) (source : Nat) (es : List SentEvent) : (noteSent s source es).xl = s.xl := rfl
@[simp] theorem noteSent_ra (s : State) (source : Nat) (es : List SentEvent) : (noteSent s source es).ra = s.ra := rfl
@[simp] theorem noteSent_chains (s : State) (source : Nat) (es : List SentEvent) : (noteSent s source es).chains = s.chains := rfl
@[simp] theorem noteSent_futs (s : State) (source : Nat) (es : List SentEvent) : (noteSent s source es).futs = s.futs := rfl
@[simp] theorem noteSent_eng (s : State) (source : Nat) (es : List SentEvent) : (noteSent s source es).eng = s.eng := rfl
@[simp] theorem noteSent_cores (s : State) (source : Nat) (es : List SentEvent) : (noteSent s source es).cores = s.cores := rfl
@[simp] theorem noteSent_served (s : State) (source : Nat) (es : List SentEvent) : (noteSent s source es).served = s.served := rfl
@[simp] theorem noteSent_seqServed (s : State) (source : Nat) (es : List SentEvent) : (noteSent s source es).seqServed = s.seqServed := rfl
@[simp] theorem noteSent_passed (s : State) (source : Nat) (es : List SentEvent) : (noteSent s source es).passed = s.passed := rfl
@[simp] theorem noteSent_teams (s : State) (source : Nat) (es : List SentEvent) : (noteSent s source es).teams = s.teams := rfl
@[simp] theorem noteSent_clusters (s : State) (source : Nat) (es : List SentEvent) : (noteSent s source es).clusters = s.clusters := rfl
@[simp] theorem noteSent_channels (s : State) (source : Nat) (es : List SentEvent) : (noteSent s source es).channels = s.channels := rfl
@[simp] theorem noteSent_posts (s : State) (source : Nat) (es : List SentEvent) : (noteSent s source es).posts = s.posts := rfl
@[simp] theorem noteSent_granules (s : State) (source : Nat) (es : List SentEvent) : (noteSent s source es).granules = s.granules := rfl
@[simp] theorem noteSent_launches (s : State) (source : Nat) (es : List SentEvent) : (noteSent s source es).launches = s.launches := rfl
@[simp] theorem noteSent_nextLaunch (s : State) (source : Nat) (es : List SentEvent) : (noteSent s source es).nextLaunch = s.nextLaunch := rfl
@[simp] theorem noteSent_io (s : State) (source : Nat) (es : List SentEvent) : (noteSent s source es).io = s.io := rfl
@[simp] theorem noteSent_cycle (s : State) (source : Nat) (es : List SentEvent) : (noteSent s source es).cycle = s.cycle := rfl
@[simp] theorem noteSent_clock (s : State) (source : Nat) (es : List SentEvent) : (noteSent s source es).clock = s.clock := rfl
@[simp] theorem noteSent_freeCtr (s : State) (source : Nat) (es : List SentEvent) : (noteSent s source es).freeCtr = s.freeCtr := rfl
@[simp] theorem noteSent_inputs (s : State) (source : Nat) (es : List SentEvent) : (noteSent s source es).inputs = s.inputs := rfl
@[simp] theorem noteSent_msg (s : State) (source : Nat) (es : List SentEvent) : (noteSent s source es).msg = s.msg := rfl
@[simp] theorem noteSent_stalled (s : State) (source : Nat) (es : List SentEvent) : (noteSent s source es).stalled = s.stalled := rfl
@[simp] theorem noteSent_barred (s : State) (source : Nat) (es : List SentEvent) : (noteSent s source es).barred = s.barred := rfl
@[simp] theorem noteSent_hostReads (s : State) (source : Nat) (es : List SentEvent) : (noteSent s source es).hostReads = s.hostReads := rfl
@[simp] theorem noteSent_snoops (s : State) (source : Nat) (es : List SentEvent) : (noteSent s source es).snoops = s.snoops := rfl
@[simp] theorem noteSent_waiting (s : State) (source : Nat) (es : List SentEvent) : (noteSent s source es).waiting = s.waiting := rfl
@[simp] theorem noteSent_answer (s : State) (source : Nat) (es : List SentEvent) : (noteSent s source es).answer = s.answer := rfl

/-! ### Free values -/

@[simp] theorem undefX_others (s : State) (r : Nat) : (undefX s r).others = s.others := setX_others _ _ _
@[simp] theorem undefX_saved (s : State) (r : Nat) : (undefX s r).saved = s.saved := setX_saved _ _ _
@[simp] theorem undefX_pm (s : State) (r : Nat) : (undefX s r).pm = s.pm := setX_pm _ _ _
@[simp] theorem undefX_sp (s : State) (r : Nat) : (undefX s r).sp = s.sp := setX_sp _ _ _
@[simp] theorem undefX_xl (s : State) (r : Nat) : (undefX s r).xl = s.xl := setX_xl _ _ _
@[simp] theorem undefX_ra (s : State) (r : Nat) : (undefX s r).ra = s.ra := setX_ra _ _ _
@[simp] theorem undefX_chains (s : State) (r : Nat) : (undefX s r).chains = s.chains := setX_chains _ _ _
@[simp] theorem undefX_futs (s : State) (r : Nat) : (undefX s r).futs = s.futs := setX_futs _ _ _
@[simp] theorem undefX_sent (s : State) (r : Nat) : (undefX s r).sent = s.sent := setX_sent _ _ _
@[simp] theorem undefX_eng (s : State) (r : Nat) : (undefX s r).eng = s.eng := setX_eng _ _ _
@[simp] theorem undefX_cores (s : State) (r : Nat) : (undefX s r).cores = s.cores := setX_cores _ _ _
@[simp] theorem undefX_served (s : State) (r : Nat) : (undefX s r).served = s.served := setX_served _ _ _
@[simp] theorem undefX_seqServed (s : State) (r : Nat) : (undefX s r).seqServed = s.seqServed := setX_seqServed _ _ _
@[simp] theorem undefX_passed (s : State) (r : Nat) : (undefX s r).passed = s.passed := setX_passed _ _ _
@[simp] theorem undefX_teams (s : State) (r : Nat) : (undefX s r).teams = s.teams := setX_teams _ _ _
@[simp] theorem undefX_clusters (s : State) (r : Nat) : (undefX s r).clusters = s.clusters := setX_clusters _ _ _
@[simp] theorem undefX_channels (s : State) (r : Nat) : (undefX s r).channels = s.channels := setX_channels _ _ _
@[simp] theorem undefX_posts (s : State) (r : Nat) : (undefX s r).posts = s.posts := setX_posts _ _ _
@[simp] theorem undefX_granules (s : State) (r : Nat) : (undefX s r).granules = s.granules := setX_granules _ _ _
@[simp] theorem undefX_launches (s : State) (r : Nat) : (undefX s r).launches = s.launches := setX_launches _ _ _
@[simp] theorem undefX_nextLaunch (s : State) (r : Nat) : (undefX s r).nextLaunch = s.nextLaunch := setX_nextLaunch _ _ _
@[simp] theorem undefX_io (s : State) (r : Nat) : (undefX s r).io = s.io := setX_io _ _ _
@[simp] theorem undefX_cycle (s : State) (r : Nat) : (undefX s r).cycle = s.cycle := setX_cycle _ _ _
@[simp] theorem undefX_clock (s : State) (r : Nat) : (undefX s r).clock = s.clock := setX_clock _ _ _
@[simp] theorem undefX_inputs (s : State) (r : Nat) : (undefX s r).inputs = s.inputs := setX_inputs _ _ _
@[simp] theorem undefX_msg (s : State) (r : Nat) : (undefX s r).msg = s.msg := setX_msg _ _ _
@[simp] theorem undefX_stalled (s : State) (r : Nat) : (undefX s r).stalled = s.stalled := setX_stalled _ _ _
@[simp] theorem undefX_barred (s : State) (r : Nat) : (undefX s r).barred = s.barred := setX_barred _ _ _
@[simp] theorem undefX_hostReads (s : State) (r : Nat) : (undefX s r).hostReads = s.hostReads := setX_hostReads _ _ _
@[simp] theorem undefX_snoops (s : State) (r : Nat) : (undefX s r).snoops = s.snoops := setX_snoops _ _ _
@[simp] theorem undefX_waiting (s : State) (r : Nat) : (undefX s r).waiting = s.waiting := setX_waiting _ _ _
@[simp] theorem undefX_answer (s : State) (r : Nat) : (undefX s r).answer = s.answer := setX_answer _ _ _

/-! ### Time -/

/-- What changes the current group alone changes, for the group of a slot, nothing but the groups. -/
theorem onGroup_shape (s : State) (gid : Nat) (f : State → State) (h : ∀ s, ∃ g, f s = { s with g := g }) :
    ∃ g os, onGroup s gid f = { s with g := g, others := os } := by
  unfold onGroup
  split
  · obtain ⟨g, e⟩ := h s; exact ⟨g, s.others, e⟩
  · split
    · exact ⟨_, _, rfl⟩
    · split
      · exact ⟨_, _, rfl⟩
      · rename_i i _ _ g _
        obtain ⟨g', e⟩ := h { s with g := g, others := s.others.set i s.g }
        dsimp only
        rw [e]
        split <;> exact ⟨_, _, rfl⟩

theorem takeGranules_shape (n : Nat) (s t : State) (h : takeGranules s n = some t) : ∃ g, t = { s with g := g } := by
  induction n generalizing s with
  | zero => exact ⟨s.g, (Option.some.inj h).symm⟩
  | succ n ih =>
    obtain ⟨b, -, hb⟩ := Option.bind_eq_some_iff.1 h
    obtain ⟨g, e⟩ := ih _ hb
    exact ⟨g, e⟩

theorem spillHere_shape (s : State) : ∃ g, spillHere s = { s with g := g } := by
  unfold spillHere
  dsimp only
  cases h : takeGranules { s with g := { s.g with spill := s.g.spill.take (spillNeed s s.g) } } (spillNeed s s.g - s.g.spill.length) with
  | none => exact ⟨s.g, rfl⟩
  | some t =>
    obtain ⟨g, e⟩ := takeGranules_shape _ _ _ h
    exact ⟨g, e⟩

theorem spillAll_shape (s : State) : ∃ g os, spillAll s = { s with g := g, others := os } := by
  unfold spillAll
  generalize (allGroups s).filter _ = l
  induction l generalizing s with
  | nil => exact ⟨_, _, rfl⟩
  | cons a r ih =>
    obtain ⟨g, os, e⟩ := onGroup_shape s a.gid spillHere spillHere_shape
    rw [List.foldl_cons, e]
    obtain ⟨g', os', e'⟩ := ih { s with g := g, others := os }
    exact ⟨g', os', e'⟩

/-- Time changes clocks and counters, and the granules of stretched groups. -/
theorem tick_shape (s : State) : ∃ g os c k ls io, tick s =
    { s with g := g, others := os, cycle := c, clock := k, barred := false, launches := ls, io := io } := by
  obtain ⟨g, os, e⟩ := spillAll_shape s
  unfold tick
  rw [e]
  exact ⟨_, _, _, _, _, _, rfl⟩

@[simp] theorem tick_saved (s : State) : (tick s).saved = s.saved := by
  obtain ⟨_, _, _, _, _, _, e⟩ := tick_shape s; rw [e]
@[simp] theorem tick_pm (s : State) : (tick s).pm = s.pm := by
  obtain ⟨_, _, _, _, _, _, e⟩ := tick_shape s; rw [e]
@[simp] theorem tick_sp (s : State) : (tick s).sp = s.sp := by
  obtain ⟨_, _, _, _, _, _, e⟩ := tick_shape s; rw [e]
@[simp] theorem tick_xl (s : State) : (tick s).xl = s.xl := by
  obtain ⟨_, _, _, _, _, _, e⟩ := tick_shape s; rw [e]
@[simp] theorem tick_ra (s : State) : (tick s).ra = s.ra := by
  obtain ⟨_, _, _, _, _, _, e⟩ := tick_shape s; rw [e]
@[simp] theorem tick_chains (s : State) : (tick s).chains = s.chains := by
  obtain ⟨_, _, _, _, _, _, e⟩ := tick_shape s; rw [e]
@[simp] theorem tick_futs (s : State) : (tick s).futs = s.futs := by
  obtain ⟨_, _, _, _, _, _, e⟩ := tick_shape s; rw [e]
@[simp] theorem tick_sent (s : State) : (tick s).sent = s.sent := by
  obtain ⟨_, _, _, _, _, _, e⟩ := tick_shape s; rw [e]
@[simp] theorem tick_eng (s : State) : (tick s).eng = s.eng := by
  obtain ⟨_, _, _, _, _, _, e⟩ := tick_shape s; rw [e]
@[simp] theorem tick_cores (s : State) : (tick s).cores = s.cores := by
  obtain ⟨_, _, _, _, _, _, e⟩ := tick_shape s; rw [e]
@[simp] theorem tick_served (s : State) : (tick s).served = s.served := by
  obtain ⟨_, _, _, _, _, _, e⟩ := tick_shape s; rw [e]
@[simp] theorem tick_seqServed (s : State) : (tick s).seqServed = s.seqServed := by
  obtain ⟨_, _, _, _, _, _, e⟩ := tick_shape s; rw [e]
@[simp] theorem tick_passed (s : State) : (tick s).passed = s.passed := by
  obtain ⟨_, _, _, _, _, _, e⟩ := tick_shape s; rw [e]
@[simp] theorem tick_teams (s : State) : (tick s).teams = s.teams := by
  obtain ⟨_, _, _, _, _, _, e⟩ := tick_shape s; rw [e]
@[simp] theorem tick_clusters (s : State) : (tick s).clusters = s.clusters := by
  obtain ⟨_, _, _, _, _, _, e⟩ := tick_shape s; rw [e]
@[simp] theorem tick_channels (s : State) : (tick s).channels = s.channels := by
  obtain ⟨_, _, _, _, _, _, e⟩ := tick_shape s; rw [e]
@[simp] theorem tick_posts (s : State) : (tick s).posts = s.posts := by
  obtain ⟨_, _, _, _, _, _, e⟩ := tick_shape s; rw [e]
@[simp] theorem tick_granules (s : State) : (tick s).granules = s.granules := by
  obtain ⟨_, _, _, _, _, _, e⟩ := tick_shape s; rw [e]
@[simp] theorem tick_nextLaunch (s : State) : (tick s).nextLaunch = s.nextLaunch := by
  obtain ⟨_, _, _, _, _, _, e⟩ := tick_shape s; rw [e]
@[simp] theorem tick_freeCtr (s : State) : (tick s).freeCtr = s.freeCtr := by
  obtain ⟨_, _, _, _, _, _, e⟩ := tick_shape s; rw [e]
@[simp] theorem tick_inputs (s : State) : (tick s).inputs = s.inputs := by
  obtain ⟨_, _, _, _, _, _, e⟩ := tick_shape s; rw [e]
@[simp] theorem tick_msg (s : State) : (tick s).msg = s.msg := by
  obtain ⟨_, _, _, _, _, _, e⟩ := tick_shape s; rw [e]
@[simp] theorem tick_stalled (s : State) : (tick s).stalled = s.stalled := by
  obtain ⟨_, _, _, _, _, _, e⟩ := tick_shape s; rw [e]
@[simp] theorem tick_hostReads (s : State) : (tick s).hostReads = s.hostReads := by
  obtain ⟨_, _, _, _, _, _, e⟩ := tick_shape s; rw [e]
@[simp] theorem tick_snoops (s : State) : (tick s).snoops = s.snoops := by
  obtain ⟨_, _, _, _, _, _, e⟩ := tick_shape s; rw [e]
@[simp] theorem tick_waiting (s : State) : (tick s).waiting = s.waiting := by
  obtain ⟨_, _, _, _, _, _, e⟩ := tick_shape s; rw [e]
@[simp] theorem tick_answer (s : State) : (tick s).answer = s.answer := by
  obtain ⟨_, _, _, _, _, _, e⟩ := tick_shape s; rw [e]

end Sys2Proof.Machine
end

