-- ==== Sys2Proof/Laws/Table.lean ====
section
/-!
SUPPORT. Tables and sorted lists of numbers: reading after writing, and that every operation keeps them sorted.
-/

namespace Sys2Proof.Machine

variable {α : Type}

theorem tabWf_iff (t : Table α) : tabWf t = true ↔ t.Pairwise (fun a b => a.1 < b.1) := by
  induction t with
  | nil => simp [tabWf]
  | cons a r ih =>
    cases r with
    | nil => simp [tabWf]
    | cons b r =>
      simp only [tabWf, Bool.and_eq_true, decide_eq_true_eq, ih, List.pairwise_cons, List.mem_cons, forall_eq_or_imp]
      constructor
      · rintro ⟨h, h1, h2⟩
        exact ⟨⟨h, fun x hx => Nat.lt_trans h (h1 x hx)⟩, h1, h2⟩
      · rintro ⟨⟨h, -⟩, h1⟩
        exact ⟨h, h1⟩

theorem rising_iff (l : List Nat) : rising l = true ↔ l.Pairwise (· < ·) := by
  induction l with
  | nil => simp [rising]
  | cons a r ih =>
    cases r with
    | nil => simp [rising]
    | cons b r =>
      simp only [rising, Bool.and_eq_true, decide_eq_true_eq, ih, List.pairwise_cons, List.mem_cons, forall_eq_or_imp]
      constructor
      · rintro ⟨h, h1, h2⟩
        exact ⟨⟨h, fun x hx => Nat.lt_trans h (h1 x hx)⟩, h1, h2⟩
      · rintro ⟨⟨h, -⟩, h1⟩
        exact ⟨h, h1⟩

/-! ### Reading after writing -/

@[simp] theorem tabGet?_tabPut_self (t : Table α) (k : Nat) (v : α) : tabGet? (tabPut t k v) k = some v := by
  induction t with
  | nil => simp [tabPut, tabGet?]
  | cons a r ih =>
    obtain ⟨k', v'⟩ := a
    simp only [tabPut]
    split
    · simp [tabGet?]
    · split
      · simp [tabGet?]
      · simp_all [tabGet?, eq_comm]

theorem tabGet?_tabPut_ne (t : Table α) (k k' : Nat) (v : α) (h : k ≠ k') : tabGet? (tabPut t k v) k' = tabGet? t k' := by
  induction t with
  | nil => simp [tabPut, tabGet?, h]
  | cons a r ih =>
    obtain ⟨k2, v2⟩ := a
    simp only [tabPut]
    split
    · simp [tabGet?, h]
    · split
      · subst k2; simp [tabGet?, h]
      · simp [tabGet?, ih]

theorem tabGet?_tabDel_ne (t : Table α) (k k' : Nat) (h : k ≠ k') : tabGet? (tabDel t k) k' = tabGet? t k' := by
  induction t with
  | nil => rfl
  | cons a r ih =>
    obtain ⟨k2, v2⟩ := a
    simp only [tabDel]
    split
    · subst k2; simp [tabGet?, h]
    · simp [tabGet?, ih]

theorem tabGet?_none_of_lt (t : Table α) (k : Nat) (h : ∀ x ∈ t, k < x.1) : tabGet? t k = none := by
  induction t with
  | nil => rfl
  | cons a r ih =>
    have h1 := h a (by simp)
    simp only [tabGet?]
    rw [if_neg (by omega), ih (fun x hx => h x (by simp [hx]))]

theorem tabGet?_tabDel_self (t : Table α) (k : Nat) (w : tabWf t = true) : tabGet? (tabDel t k) k = none := by
  rw [tabWf_iff] at w
  induction t with
  | nil => rfl
  | cons a r ih =>
    obtain ⟨k2, v2⟩ := a
    rw [List.pairwise_cons] at w
    simp only [tabDel]
    split
    · subst k2; exact tabGet?_none_of_lt r k w.1
    · rename_i h
      simp [tabGet?, Ne.symm h, ih w.2]

@[simp] theorem tabGet_tabPut_self (t : Table α) (k : Nat) (v d : α) : tabGet (tabPut t k v) k d = v := by
  simp [tabGet]

theorem tabGet_tabPut_ne (t : Table α) (k k' : Nat) (v d : α) (h : k ≠ k') :
    tabGet (tabPut t k v) k' d = tabGet t k' d := by
  simp [tabGet, tabGet?_tabPut_ne _ _ _ _ h]

theorem tabGet_tabSet_ne [DecidableEq α] (t : Table α) (k k' : Nat) (v d : α) (h : k ≠ k') :
    tabGet (tabSet t k v d) k' d = tabGet t k' d := by
  unfold tabSet
  split
  · simp [tabGet, tabGet?_tabDel_ne _ _ _ h]
  · exact tabGet_tabPut_ne _ _ _ _ _ h

theorem tabGet_tabSet_self [DecidableEq α] (t : Table α) (k : Nat) (v d : α) (h : v ≠ d ∨ tabWf t = true) :
    tabGet (tabSet t k v d) k d = v := by
  unfold tabSet
  split
  · subst v
    rcases h with h | h
    · exact absurd rfl h
    · simp [tabGet, tabGet?_tabDel_self t k h]
  · simp

theorem tabGet?_filter (t : Table α) (p : Nat → Bool) (k : Nat) :
    tabGet? (t.filter (fun kv => p kv.1)) k = if p k then tabGet? t k else none := by
  induction t with
  | nil => simp [tabGet?]
  | cons a r ih =>
    obtain ⟨k2, v2⟩ := a
    rw [List.filter_cons]
    by_cases hk : k2 = k
    · subst k2
      cases hp : p k
      · simpa [hp] using ih
      · simp [tabGet?]
    · cases hp : p k2 <;> simp [tabGet?, hk, ih]

/-! ### The sorted form is kept -/

theorem mem_tabPut (t : Table α) (k : Nat) (v : α) : ∀ x ∈ tabPut t k v, x = (k, v) ∨ x ∈ t := by
  induction t with
  | nil => simp [tabPut]
  | cons a r ih =>
    obtain ⟨k2, v2⟩ := a
    simp only [tabPut]
    split
    · simp
    · split
      · intro x hx
        rcases List.mem_cons.1 hx with h | h
        · exact .inl h
        · exact .inr (by simp [h])
      · intro x hx
        rcases List.mem_cons.1 hx with h | h
        · exact .inr (by simp [h])
        · rcases ih x h with h | h
          · exact .inl h
          · exact .inr (by simp [h])

theorem mem_tabDel (t : Table α) (k : Nat) : ∀ x ∈ tabDel t k, x ∈ t := by
  induction t with
  | nil => simp [tabDel]
  | cons a r ih =>
    obtain ⟨k2, v2⟩ := a
    simp only [tabDel]
    split
    · intro x hx; simp [hx]
    · intro x hx
      rcases List.mem_cons.1 hx with h | h
      · simp [h]
      · simp [ih x h]

theorem tabPut_wf (t : Table α) (k : Nat) (v : α) (w : tabWf t = true) : tabWf (tabPut t k v) = true := by
  rw [tabWf_iff] at w ⊢
  induction t with
  | nil => simp [tabPut]
  | cons a r ih =>
    obtain ⟨k2, v2⟩ := a
    have w' := w
    rw [List.pairwise_cons] at w
    simp only [tabPut]
    split
    · rename_i h
      refine List.pairwise_cons.2 ⟨?_, w'⟩
      intro x hx
      rcases List.mem_cons.1 hx with h1 | h1
      · subst x; exact h
      · exact Nat.lt_trans h (w.1 x h1)
    · split
      · subst k2; exact List.pairwise_cons.2 w
      · refine List.pairwise_cons.2 ⟨?_, ih w.2⟩
        intro x hx
        rcases mem_tabPut r k v x hx with h1 | h1
        · subst x; simp only; omega
        · exact w.1 x h1

theorem tabDel_wf (t : Table α) (k : Nat) (w : tabWf t = true) : tabWf (tabDel t k) = true := by
  rw [tabWf_iff] at w ⊢
  induction t with
  | nil => simp [tabDel]
  | cons a r ih =>
    obtain ⟨k2, v2⟩ := a
    rw [List.pairwise_cons] at w
    simp only [tabDel]
    split
    · exact w.2
    · exact List.pairwise_cons.2 ⟨fun x hx => w.1 x (mem_tabDel r k x hx), ih w.2⟩

theorem tabSet_wf [DecidableEq α] (t : Table α) (k : Nat) (v d : α) (w : tabWf t = true) : tabWf (tabSet t k v d) = true := by
  unfold tabSet
  split
  · exact tabDel_wf t k w
  · exact tabPut_wf t k v w

theorem filter_wf (t : Table α) (p : Nat × α → Bool) (w : tabWf t = true) : tabWf (t.filter p) = true := by
  rw [tabWf_iff] at w ⊢
  exact w.filter p

theorem tabPutAll_wf (ws : List (Nat × α)) (t : Table α) (w : tabWf t = true) : tabWf (tabPutAll t ws) = true := by
  induction ws generalizing t with
  | nil => exact w
  | cons a r ih => exact ih _ (tabPut_wf t _ _ w)

theorem mem_tabSet [DecidableEq α] (t : Table α) (k : Nat) (v d : α) :
    ∀ x ∈ tabSet t k v d, (x = (k, v) ∧ v ≠ d) ∨ x ∈ t := by
  intro x hx
  unfold tabSet at hx
  split at hx
  · exact .inr (mem_tabDel t k x hx)
  · rename_i h
    rcases mem_tabPut t k v x hx with h1 | h1
    · exact .inl ⟨h1, h⟩
    · exact .inr h1

theorem mem_tabPutAll (ws : List (Nat × α)) (t : Table α) : ∀ x ∈ tabPutAll t ws, x ∈ ws ∨ x ∈ t := by
  induction ws generalizing t with
  | nil => exact fun x hx => .inr hx
  | cons a r ih =>
    intro x hx
    rcases ih _ x hx with h | h
    · exact .inl (by simp [h])
    · rcases mem_tabPut t a.1 a.2 x h with h | h
      · exact .inl (by simp [h])
      · exact .inr h

/-! ### Sorted lists of numbers -/

@[simp] theorem mem_setAdd (l : List Nat) (k x : Nat) : x ∈ setAdd l k ↔ x = k ∨ x ∈ l := by
  induction l with
  | nil => simp [setAdd]
  | cons a r ih =>
    simp only [setAdd]
    split
    · simp
    · split
      · subst a; simp
      · simp only [List.mem_cons, ih]; tauto

@[simp] theorem mem_setDel (l : List Nat) (k x : Nat) : x ∈ setDel l k ↔ x ∈ l ∧ x ≠ k := by
  simp [setDel]

theorem setAdd_rising (l : List Nat) (k : Nat) (w : rising l = true) : rising (setAdd l k) = true := by
  rw [rising_iff] at w ⊢
  induction l with
  | nil => simp [setAdd]
  | cons a r ih =>
    have w' := w
    rw [List.pairwise_cons] at w
    simp only [setAdd]
    split
    · rename_i h
      refine List.pairwise_cons.2 ⟨?_, w'⟩
      intro x hx
      rcases List.mem_cons.1 hx with h1 | h1
      · subst x; exact h
      · exact Nat.lt_trans h (w.1 x h1)
    · split
      · subst a; exact w'
      · refine List.pairwise_cons.2 ⟨?_, ih w.2⟩
        intro x hx
        rcases (mem_setAdd r k x).1 hx with h1 | h1
        · subst x; omega
        · exact w.1 x h1

theorem setDel_rising (l : List Nat) (k : Nat) (w : rising l = true) : rising (setDel l k) = true := by
  rw [rising_iff] at w ⊢
  exact w.filter _

end Sys2Proof.Machine
end

