-- ==== Sys2Proof/Laws/Memory.lean ====
section
/-!
SUPPORT. Memory: every operation keeps the canonical form, moving lines in and out of a slice changes no byte, and a
read after a write gives what was written.
-/

namespace Sys2Proof.Machine

theorem Memory.wf_iff (m : PhysMem) : Memory.wf m = true ↔
    tabWf m.cells = true ∧ (∀ c ∈ m.cells, c.2 ≠ 0) ∧ tabWf m.dirty = true ∧ tabWf m.feDirty = true ∧
      tabWf m.waysLost = true ∧ rising m.full = true ∧ rising m.poisoned = true ∧ (m.lines.map Line.addr).Nodup := by
  simp only [Memory.wf, Bool.and_eq_true, List.all_eq_true, bne_iff_ne, decide_eq_true_eq, and_assoc]

/-! ### The canonical form -/

theorem foldl_tabSet_wf (ws : List (Nat × Byte)) (c : Table Byte) (w : tabWf c = true) (z : ∀ x ∈ c, x.2 ≠ 0) :
    tabWf (ws.foldl (fun c kv => tabSet c kv.1 kv.2 0) c) = true ∧
      ∀ x ∈ ws.foldl (fun c kv => tabSet c kv.1 kv.2 0) c, x.2 ≠ 0 := by
  induction ws generalizing c with
  | nil => exact ⟨w, z⟩
  | cons a r ih =>
    refine ih _ (tabSet_wf c _ _ _ w) ?_
    intro x hx
    rcases mem_tabSet c a.1 a.2 0 x hx with ⟨h, h1⟩ | h
    · subst x; exact h1
    · exact z x h

theorem PhysMem.writeBack_wf (m : PhysMem) (l : Nat) (w : Memory.wf m = true) : Memory.wf (m.writeBack l) = true := by
  rw [Memory.wf_iff] at w ⊢
  obtain ⟨h1, h2, h3, h4, h5, h6, h7, h8⟩ := w
  have hc := foldl_tabSet_wf (m.dirty.filter (fun kv => kv.1 / 128 == l)) m.cells h1 h2
  refine ⟨hc.1, hc.2, filter_wf _ _ h3, filter_wf _ _ h4, h5, ?_, ?_, h8⟩
  · show rising (List.foldl _ _ _) = true
    generalize m.feDirty.filter (fun kv => kv.1 / 16 == l) = fes
    revert h6
    generalize m.full = f
    intro h6
    induction fes generalizing f with
    | nil => exact h6
    | cons a r ih =>
      refine ih _ ?_
      dsimp only
      split
      · exact setAdd_rising _ _ h6
      · exact setDel_rising _ _ h6
  · simp only [PhysMem.writeBack]
    split
    · exact setAdd_rising _ _ h7
    · split
      · exact h7
      · exact setDel_rising _ _ h7

/-- Forgetting older values keeps the form. -/
@[simp] theorem PhysMem.overwritten_wf (m : PhysMem) (a n : Nat) : Memory.wf (m.overwritten a n) = Memory.wf m := rfl

@[simp] theorem PhysMem.overwritten_byte (m : PhysMem) (a n k : Nat) : (m.overwritten a n).byte k = m.byte k := rfl

/-- Noting a write changes nothing that the form or a byte rests on. -/
theorem PhysMem.noted_cases (m : PhysMem) (src : Option (Nat × Stream)) (a n : Nat) (f : PhysMem → PhysMem) :
    ∃ st, m.noted src a n f = { f m with stale := st } := by
  unfold PhysMem.noted
  split
  · exact ⟨_, rfl⟩
  · exact ⟨_, rfl⟩

theorem PhysMem.noted_wf (m : PhysMem) (src : Option (Nat × Stream)) (a n : Nat) (f : PhysMem → PhysMem)
    (h : Memory.wf (f m) = true) : Memory.wf (m.noted src a n f) = true := by
  obtain ⟨st, e⟩ := m.noted_cases src a n f
  rw [e]; exact h

@[simp] theorem PhysMem.noted_byte (m : PhysMem) (src : Option (Nat × Stream)) (a n : Nat) (f : PhysMem → PhysMem) (k : Nat) :
    (m.noted src a n f).byte k = (f m).byte k := by
  obtain ⟨st, e⟩ := m.noted_cases src a n f
  rw [e]; rfl

theorem PhysMem.forget_wf (m : PhysMem) (l : Nat) (w : Memory.wf m = true) : Memory.wf (m.forget l) = true := by
  rw [Memory.wf_iff] at w ⊢
  obtain ⟨h1, h2, h3, h4, h5⟩ := w
  exact ⟨h1, h2, filter_wf _ _ h3, filter_wf _ _ h4, h5⟩

theorem dropLines_wf (m : PhysMem) (p : Line → Bool) (w : Memory.wf m = true) :
    Memory.wf { m with lines := m.lines.filter p } = true := by
  rw [Memory.wf_iff] at w ⊢
  obtain ⟨h1, h2, h3, h4, h5, h6, h7, h8⟩ := w
  exact ⟨h1, h2, h3, h4, h5, h6, h7, h8.sublist (List.filter_sublist.map _)⟩

theorem PhysMem.evict_wf (m : PhysMem) (x : Line) (w : Memory.wf m = true) : Memory.wf (m.evict x) = true := by
  simp only [PhysMem.evict]
  refine dropLines_wf _ _ ?_
  split
  · exact w
  · exact m.writeBack_wf _ w

/-- Replacing a line of a set is no change, or one line's eviction. -/
theorem PhysMem.evictOne_cases (m : PhysMem) (pa n : Nat) : m.evictOne pa n = m ∨ ∃ x, m.evictOne pa n = m.evict x := by
  simp only [PhysMem.evictOne]
  split
  · exact .inr ⟨_, rfl⟩
  · split
    · exact .inr ⟨_, rfl⟩
    · exact .inl rfl

/-- What every eviction keeps, any number of them keeps. -/
theorem PhysMem.evictMany_keeps (P : PhysMem → Prop) (h : ∀ m x, P m → P (m.evict x)) (m : PhysMem) (pa n k : Nat) (w : P m) :
    P (m.evictMany pa n k) := by
  induction k generalizing m with
  | zero => exact w
  | succ k ih =>
    refine ih _ ?_
    obtain e | ⟨x, e⟩ := m.evictOne_cases pa n <;> rw [e]
    · exact w
    · exact h m x w

theorem PhysMem.makeRoom_wf (m : PhysMem) (pa n : Nat) (w : Memory.wf m = true) : Memory.wf (m.makeRoom pa n) = true :=
  PhysMem.evictMany_keeps (fun m => Memory.wf m = true) (fun m x => m.evict_wf x) m pa n _ w

/-- An eviction brings no line in. -/
theorem PhysMem.evict_lines (m : PhysMem) (x y : Line) (h : y ∈ (m.evict x).lines) : y ∈ m.lines := by
  simp only [PhysMem.evict] at h
  have := (List.mem_filter.1 h).1
  split at this <;> exact this

theorem PhysMem.putBytes_wf (m : PhysMem) (a n v : Nat) (w : Memory.wf m = true) : Memory.wf (m.putBytes a n v) = true := by
  rw [Memory.wf_iff] at w ⊢
  obtain ⟨h1, h2, h3, h4⟩ := w
  exact ⟨h1, h2, tabPutAll_wf _ _ h3, h4⟩

theorem map_updFirst {α β : Type} (l : List α) (p : α → Bool) (f : α → α) (g : α → β) (h : ∀ x, g (f x) = g x) :
    (updFirst l p f).map g = l.map g := by
  induction l with
  | nil => rfl
  | cons a r ih =>
    simp only [updFirst]
    split
    · simp [h]
    · simp [ih]

/-- A line's record may change, but not its address. -/
theorem PhysMem.setLine_wf (m : PhysMem) (l : Nat) (f : Line → Line) (h : ∀ x, (f x).addr = x.addr)
    (w : Memory.wf m = true) : Memory.wf (m.setLine l f) = true := by
  rw [Memory.wf_iff] at w ⊢
  obtain ⟨h1, h2, h3, h4, h5, h6, h7, h8⟩ := w
  refine ⟨h1, h2, h3, h4, h5, h6, h7, ?_⟩
  simpa only [PhysMem.setLine, map_updFirst _ _ _ _ h] using h8

theorem PhysMem.mill_wf (m : PhysMem) (a : Addition) (w : Memory.wf m = true) : Memory.wf (m.mill a) = true := by
  simp only [PhysMem.mill]
  split
  · exact PhysMem.setLine_wf _ _ _ (fun _ => rfl) (m.putBytes_wf _ _ _ w)
  · exact m.putBytes_wf _ _ _ w

theorem PhysMem.combine_wf (m : PhysMem) (a : Addition) (w : Memory.wf m = true) : Memory.wf (m.combine a) = true :=
  PhysMem.noted_wf _ _ _ _ _ (m.mill_wf a w)

theorem PhysMem.fill_wf (m : PhysMem) (l n : Nat) (w : Memory.wf m = true) : Memory.wf (m.fill l n) = true := by
  simp only [PhysMem.fill]
  have key : ∀ (m' : PhysMem) (x : Line), Memory.wf m' = true → x.addr = l → (∀ y ∈ m'.lines, y.addr ≠ l) →
      Memory.wf { m' with lines := x :: m'.lines } = true := by
    intro m' x w' hx hn
    rw [Memory.wf_iff] at w' ⊢
    obtain ⟨h1, h2, h3, h4, h5, h6, h7, h8⟩ := w'
    refine ⟨h1, h2, h3, h4, h5, h6, h7, ?_⟩
    simp only [List.map_cons, List.nodup_cons]
    refine ⟨?_, h8⟩
    rw [List.mem_map, hx]
    rintro ⟨y, hy, he⟩
    exact hn y hy he
  split
  · rename_i x hx
    have ha : x.addr = l := by simpa using List.find?_some hx
    refine key { m with lines := m.lines.filter (fun y => y.addr != l) } _ (dropLines_wf m _ w) ?_ ?_
    · split
      · rfl
      · exact ha
    · intro y hy
      simpa using (List.mem_filter.1 hy).2
  · rename_i hn
    refine key (m.makeRoom (l * 128) n) _ (m.makeRoom_wf _ _ w) rfl ?_
    intro y hy
    have hs : y ∈ m.lines :=
      PhysMem.evictMany_keeps (fun m' => y ∈ m'.lines → y ∈ m.lines) (fun m' x h hy => h (m'.evict_lines x y hy)) m _ _ _ id hy
    have := List.find?_eq_none.1 hn y hs
    simpa using this

theorem touchLine_wf (s : State) (l : Nat) (w : Memory.wf s.pm = true) : Memory.wf (touchLine s l).pm = true := by
  have hm : ∀ (as : List Addition) (m : PhysMem), Memory.wf m = true → Memory.wf (as.foldl PhysMem.combine m) = true := by
    intro as
    induction as with
    | nil => exact fun _ h => h
    | cons a r ih => exact fun m h => ih _ (m.combine_wf a h)
  simp only [touchLine]
  split
  · exact PhysMem.setLine_wf _ _ _ (fun _ => rfl) (hm _ _ (PhysMem.fill_wf _ _ _ w))
  · exact hm _ _ (PhysMem.fill_wf _ _ _ w)

theorem accessLine_wf (s : State) (wr : Bool) (a n : Nat) (w : Memory.wf s.pm = true) :
    Memory.wf (accessLine s wr a n).pm = true :=
  PhysMem.setLine_wf _ _ _ (fun _ => rfl) (touchLine_wf s _ w)

theorem sliceRead_wf (s : State) (a n : Nat) (w : Memory.wf s.pm = true) : Memory.wf (sliceRead s a n).2.2.pm = true :=
  accessLine_wf s false a n w

theorem sliceWriteBy_wf (s : State) (src : Option (Nat × Stream)) (a n v : Nat) (w : Memory.wf s.pm = true) :
    Memory.wf (sliceWriteBy s src a n v).pm = true := by
  have h := PhysMem.noted_wf (accessLine s true a n).pm src a n (fun m => m.putBytes a n v)
    (PhysMem.putBytes_wf _ a n v (accessLine_wf s true a n w))
  simp only [sliceWriteBy]
  split
  · exact PhysMem.setLine_wf _ _ _ (fun _ => rfl) h
  · exact h

theorem sliceWrite_wf (s : State) (a n v : Nat) (w : Memory.wf s.pm = true) : Memory.wf (sliceWrite s a n v).pm = true :=
  sliceWriteBy_wf s none a n v w

theorem updStale_wf (s : State) (f : Stale → Stale) (w : Memory.wf s.pm = true) : Memory.wf (updStale s f).pm = true := w

theorem setFull_wf (s : State) (a : Nat) (b : Bool) (w : Memory.wf s.pm = true) : Memory.wf (setFull s a b).pm = true := by
  rw [Memory.wf_iff] at w ⊢
  obtain ⟨h1, h2, h3, h4, h5⟩ := w
  exact ⟨h1, h2, h3, tabPut_wf _ _ _ h4, h5⟩

theorem poisonLine_wf (s : State) (l : Nat) (w : Memory.wf s.pm = true) : Memory.wf (poisonLine s l).pm = true :=
  PhysMem.setLine_wf _ _ _ (fun _ => rfl) w

theorem clearCovered_wf (s : State) (as : List Nat) (w : Memory.wf s.pm = true) : Memory.wf (clearCovered s as).pm = true := by
  simp only [clearCovered]
  generalize (as.map (· / 128)).eraseDups = ls
  induction ls generalizing s with
  | nil => exact w
  | cons l r ih =>
    refine ih _ ?_
    dsimp only
    split
    · exact PhysMem.setLine_wf _ _ _ (fun _ => rfl) w
    · exact w

theorem reset_memory_wf : Memory.wf PhysMem.reset = true := by decide

/-! ### Lines come and go, bytes stay -/

theorem foldl_tabSet_get (ws : List (Nat × Byte)) (c : Table Byte) (k : Nat) (hw : tabWf ws = true) (w : tabWf c = true) :
    tabGet (ws.foldl (fun c kv => tabSet c kv.1 kv.2 0) c) k 0 = (tabGet? ws k).getD (tabGet c k 0) := by
  induction ws generalizing c with
  | nil => rfl
  | cons a r ih =>
    obtain ⟨k2, v2⟩ := a
    rw [tabWf_iff, List.pairwise_cons] at hw
    rw [List.foldl_cons, ih _ ((tabWf_iff r).2 hw.2) (tabSet_wf c _ _ _ w)]
    by_cases h : k2 = k
    · subst k2
      rw [tabGet_tabSet_self c k v2 0 (.inr w)]
      simp [tabGet?, tabGet?_none_of_lt r k hw.1]
    · rw [tabGet_tabSet_ne c k2 k v2 0 h]
      simp [tabGet?, h]

theorem PhysMem.writeBack_byte (m : PhysMem) (l a : Nat) (w : Memory.wf m = true) : (m.writeBack l).byte a = m.byte a := by
  rw [Memory.wf_iff] at w
  obtain ⟨h1, h2, h3, -⟩ := w
  have hc := foldl_tabSet_get (m.dirty.filter (fun kv => kv.1 / 128 == l)) m.cells a (filter_wf _ _ h3) h1
  have hd := tabGet?_filter m.dirty (fun k => k / 128 != l) a
  rw [tabGet?_filter m.dirty (fun k => k / 128 == l) a] at hc
  simp only [PhysMem.byte, PhysMem.writeBack, hc, hd]
  by_cases h : a / 128 = l
  · cases hg : tabGet? m.dirty a <;> simp [h]
  · cases hg : tabGet? m.dirty a <;> simp [h]

theorem PhysMem.evict_byte (m : PhysMem) (x : Line) (a : Nat) (w : Memory.wf m = true) : (m.evict x).byte a = m.byte a := by
  simp only [PhysMem.evict]
  split
  · rfl
  · exact m.writeBack_byte x.addr a w

theorem PhysMem.makeRoom_byte (m : PhysMem) (pa n a : Nat) (w : Memory.wf m = true) :
    (m.makeRoom pa n).byte a = m.byte a :=
  (PhysMem.evictMany_keeps (fun m' => Memory.wf m' = true ∧ m'.byte a = m.byte a)
    (fun m' x h => ⟨m'.evict_wf x h.1, (m'.evict_byte x a h.1).trans h.2⟩) m pa n _ ⟨w, rfl⟩).2

/-- Bringing a line into its slice changes no byte. -/
theorem PhysMem.fill_byte (m : PhysMem) (l n a : Nat) (w : Memory.wf m = true) : (m.fill l n).byte a = m.byte a := by
  simp only [PhysMem.fill]
  split
  · rfl
  · exact m.makeRoom_byte _ n a w

theorem tabGet?_tabPutAll_range (t : Table Byte) (a n : Nat) (f : Nat → Byte) (k : Nat) :
    tabGet? (tabPutAll t ((List.range n).map (fun i => (a + i, f i)))) k =
      if a ≤ k ∧ k < a + n then some (f (k - a)) else tabGet? t k := by
  induction n with
  | zero => simp [tabPutAll, show ¬ (a ≤ k ∧ k < a) by omega]
  | succ n ih =>
    simp only [tabPutAll, List.range_succ, List.map_append, List.map_cons, List.map_nil, List.foldl_append, List.foldl_cons,
      List.foldl_nil] at ih ⊢
    by_cases h : a + n = k
    · subst h; simp
    · rw [tabGet?_tabPut_ne _ _ _ _ h, ih]
      by_cases h1 : a ≤ k ∧ k < a + n
      · rw [if_pos h1, if_pos (by omega)]
      · rw [if_neg h1, if_neg (by omega)]

/-- A byte after a write. -/
theorem PhysMem.putBytes_byte (m : PhysMem) (a n v k : Nat) :
    (m.putBytes a n v).byte k = if a ≤ k ∧ k < a + n then BitVec.ofNat 8 (v / 256 ^ (k - a)) else m.byte k := by
  simp only [PhysMem.byte, PhysMem.putBytes]
  rw [tabGet?_tabPutAll_range m.dirty a n (fun i => BitVec.ofNat 8 (v / 256 ^ i)) k]
  by_cases h : a ≤ k ∧ k < a + n
  · rw [if_pos h, if_pos h]
  · rw [if_neg h, if_neg h]; rfl

theorem PhysMem.word_congr (m m' : PhysMem) (a n : Nat) (h : ∀ k, a ≤ k → k < a + n → m.byte k = m'.byte k) :
    m.word a n = m'.word a n := by
  induction n generalizing a with
  | zero => rfl
  | succ n ih =>
    simp only [PhysMem.word]
    rw [h a (Nat.le_refl _) (by omega), ih (a + 1) (fun k h1 h2 => h k (by omega) (by omega))]

/-- A read after a write of the same place gives the value written, cut to its width. -/
theorem PhysMem.word_putBytes (m : PhysMem) (a n v : Nat) : (m.putBytes a n v).word a n = v % 256 ^ n := by
  have key : ∀ (n b : Nat) (m' : PhysMem) (v : Nat), (∀ i, i < n → m'.byte (b + i) = BitVec.ofNat 8 (v / 256 ^ i)) →
      m'.word b n = v % 256 ^ n := by
    intro n
    induction n with
    | zero => intro b m' v _; simp [PhysMem.word, Nat.mod_one]
    | succ n ih =>
      intro b m' v h
      have h0 := h 0 (by omega)
      have h1 := ih (b + 1) m' (v / 256) (fun i hi => by
        have := h (i + 1) (by omega)
        rw [show b + 1 + i = b + (i + 1) by omega, this, Nat.div_div_eq_div_mul, Nat.pow_succ']
      )
      simp only [PhysMem.word, h1]
      simp only [Nat.add_zero, Nat.pow_zero, Nat.div_one] at h0
      rw [h0, BitVec.toNat_ofNat, Nat.pow_succ' (n := n), Nat.mod_mul]
  refine key n a _ v (fun i hi => ?_)
  rw [PhysMem.putBytes_byte, if_pos (by omega), Nat.add_sub_cancel_left]

/-- A write leaves every other place alone. -/
theorem PhysMem.word_putBytes_ne (m : PhysMem) (a n v b k : Nat) (h : b + k ≤ a ∨ a + n ≤ b) :
    (m.putBytes a n v).word b k = m.word b k :=
  PhysMem.word_congr _ _ _ _ (fun x h1 h2 => by rw [PhysMem.putBytes_byte, if_neg (by omega)])

@[simp] theorem PhysMem.setLine_byte (m : PhysMem) (l : Nat) (f : Line → Line) (a : Nat) : (m.setLine l f).byte a = m.byte a := rfl

/-- Touching a line for which no addition waits changes no byte. -/
theorem touchLine_byte (s : State) (l a : Nat) (w : Memory.wf s.pm = true) (h : ∀ x ∈ s.chains, lineOf x.pa ≠ l) :
    (touchLine s l).pm.byte a = s.pm.byte a := by
  have e : s.chains.filter (fun x => lineOf x.pa == l) = [] := by
    rw [List.filter_eq_nil_iff]; intro x hx; simpa using h x hx
  simp only [touchLine, e, List.foldl_nil, ne_eq, not_true_eq_false, false_and, if_false]
  exact PhysMem.fill_byte _ _ _ _ w

/-- A read at a home slice, of a line for which no addition waits: the bytes there, and no byte changes. -/
theorem sliceRead_spec (s : State) (a n : Nat) (w : Memory.wf s.pm = true) (h : ∀ x ∈ s.chains, lineOf x.pa ≠ lineOf a) :
    (sliceRead s a n).1 = s.pm.word a n ∧ ∀ b, (sliceRead s a n).2.2.pm.byte b = s.pm.byte b :=
  ⟨PhysMem.word_congr _ _ _ _ (fun k _ _ => touchLine_byte s _ k w h), fun b => touchLine_byte s _ b w h⟩

/-- A write at a home slice, of a line for which no addition waits: the bytes written, and every other byte as before. -/
theorem sliceWriteBy_spec (s : State) (src : Option (Nat × Stream)) (a n v : Nat) (w : Memory.wf s.pm = true)
    (h : ∀ x ∈ s.chains, lineOf x.pa ≠ lineOf a) :
    (sliceWriteBy s src a n v).pm.word a n = v % 256 ^ n ∧
      ∀ b, b < a ∨ a + n ≤ b → (sliceWriteBy s src a n v).pm.byte b = s.pm.byte b := by
  have e : ∀ b, (sliceWriteBy s src a n v).pm.byte b = ((accessLine s true a n).pm.putBytes a n v).byte b := by
    intro b
    simp only [sliceWriteBy]
    split <;> simp
  constructor
  · rw [PhysMem.word_congr _ _ a n (fun k _ _ => e k)]
    exact PhysMem.word_putBytes _ _ _ _
  · intro b hb
    rw [e b, PhysMem.putBytes_byte, if_neg (by omega)]
    exact touchLine_byte s _ b w h

/-! ### Older values -/

/-- With no write of the place that the reader may miss, it finds what the bytes hold. -/
theorem lookBack_none (s : State) (p : Stale → Bool) (a n v : Nat) (h : ∀ r ∈ s.pm.stale, p r = true → r.meets a n = false) :
    lookBack s p a n v = (v, s) := by
  have e : s.pm.stale.filter (fun r => p r && r.meets a n) = [] := by
    rw [List.filter_eq_nil_iff]
    intro r hr hb
    rw [Bool.and_eq_true] at hb
    rw [h r hr hb.1] at hb
    exact Bool.noConfusion hb.2
  unfold lookBack
  rw [e]

/-- Finding an older value changes no state but the count of free values. -/
theorem lookBack_shape (s : State) (p : Stale → Bool) (a n v : Nat) :
    ∃ k, (lookBack s p a n v).2 = { s with freeCtr := k } := by
  unfold lookBack
  split
  · exact ⟨_, rfl⟩
  · exact ⟨_, rfl⟩

end Sys2Proof.Machine
end

