-- ==== Sys2Proof/Laws/Ops.lean ====
section
/-!
SUPPORT. What the shared operations do, in the words of the claims: retiring, writing a register, taking a trap,
reaching memory.
-/

namespace Sys2Proof.Machine

open Sys2Proof.Claims

/-! ### Registers -/

theorem toList_getD_set {n : Nat} {α : Type} (x : Vector α n) (d r : Nat) (v y : α) :
    (x.setIfInBounds d v).toList.getD r y = if d = r ∧ r < n then v else x.toList.getD r y := by
  simp only [List.getD_eq_getElem?_getD, Vector.getElem?_toList, Vector.getElem?_setIfInBounds]
  by_cases h : d = r
  · subst h
    by_cases h2 : d < n <;> simp [h2]
  · simp [h]

/-- What a write of an x register does: the register takes a value, which is the one written unless an unfinished copy
is to write the register. -/
theorem setX_shape (s : State) (d : Nat) (v : Word) :
    ∃ u h n, setX s d v = { s with g := { s.g.setX d u with xHit := h }, freeCtr := n } ∧
      (d ∉ s.g.xPend → u = v ∧ h = s.g.xHit ∧ n = s.freeCtr) := by
  unfold setX
  by_cases hp : s.g.xPend.contains d = true
  · rw [if_pos hp]
    exact ⟨_, _, _, rfl, fun h => absurd (List.contains_iff_mem.mp hp) h⟩
  · rw [if_neg hp]
    refine ⟨v, s.g.xHit, s.freeCtr, ?_, fun _ => ⟨rfl, rfl, rfl⟩⟩
    unfold Group.setX
    split <;> rfl

/-- x0 stays 0, the register written reads its value, every other one as before. -/
theorem getX_groupSetX (g : Group) (d : Fin 32) (v : Word) (r : Nat) :
    (if r = 0 then 0 else (g.setX d v).x.toList.getD r 0) = if r = d ∧ r ≠ 0 then v else if r = 0 then 0 else g.x.toList.getD r 0 := by
  have hd := d.isLt
  by_cases h2 : r = 0
  · simp [h2]
  · by_cases h : d.val = 0
    · have : r ≠ d.val := by omega
      simp [Group.setX, h, h2]
    · simp only [Group.setX, h, h2, ↓reduceIte, toList_getD_set]
      by_cases h3 : r = d.val
      · subst h3; simp [h]
      · simp [h3, Ne.symm h3]

/-- Retiring changes nothing but how far the control thread has come. -/
theorem retire_only (s : State) : OnlyControl s (retire s) ∧ Retired s (retire s) := by
  refine ⟨⟨_, _, _, _, _, _, _, rfl⟩, ?_⟩
  simp [Retired, retire, retireAs, Group.count]

/-- Writing a register and retiring does that and nothing else. -/
theorem retire_setX_only (s : State) (d : Fin 32) (v : Word) :
    OnlyX s (retire (setX s d v)) d v ∧ Retired s (retire (setX s d v)) := by
  obtain ⟨u, h, n, e, he⟩ := setX_shape s d v
  rw [e]
  have hx : (s.g.setX d u).x = if d.val = 0 then s.g.x else s.g.x.setIfInBounds d u := by unfold Group.setX; split <;> rfl
  have hp : (s.g.setX d u).xPoison = if d.val = 0 then s.g.xPoison else setDel s.g.xPoison d := by
    unfold Group.setX; split <;> rfl
  have eg : ({ s.g.setX d u with xHit := h } : Group)
      = { s.g with x := (s.g.setX d u).x, xPoison := (s.g.setX d u).xPoison, xHit := h } := by
    unfold Group.setX; split <;> rfl
  refine ⟨⟨⟨(s.g.setX d u).x, (s.g.setX d u).xPoison, h, n, ?_⟩, ?_, ?_, ?_⟩, ?_⟩
  · rw [eg]
    exact (retire_only _).1
  · intro r hr
    have := getX_groupSetX s.g d u r
    simp only [getX, retire, retireAs, Group.count]
    refine this.trans ?_
    rcases hr with hr | hr
    · simp [hr]
    · simp [hr]
  · intro hd
    obtain ⟨rfl, rfl, rfl⟩ := he hd
    refine ⟨fun h0 => ?_, rfl, rfl⟩
    have := getX_groupSetX s.g d u d.val
    simp only [getX, retire, retireAs, Group.count]
    exact this.trans (by simp [h0])
  · intro r
    show r ∈ (s.g.setX d u).xPoison ↔ _
    rw [hp]
    by_cases h0 : d.val = 0 <;> simp [h0, setDel]
  · simp only [Retired, retire, retireAs, Group.count, Group.setX]
    split <;> simp

/-- With no source poisoned a form goes on to its work. -/
theorem readingX_clean (s : State) (rs : List Nat) (k : State → State) (h : poisonedX s rs = none) : readingX s rs k = k s := by
  simp [readingX, h]

/-- A poisoned source is reported with its number, and nothing is done. -/
theorem readingX_poisoned (s : State) (rs : List Nat) (k : State → State) (r : Nat) (h : poisonedX s rs = some r) :
    readingX s rs k = trap s cPoison (BitVec.ofNat 64 (0x20 + r)) := by
  simp [readingX, h]

theorem aluRR_clean (s : State) (d a b : Fin 32) (f : Word → Word → Word) (h : poisonedX s [a.val, b.val] = none) :
    aluRR s d a b f = .next (retire (setX s d (f (getX s a) (getX s b)))) := by
  simp [aluRR, readingX, h]

theorem aluR_clean (s : State) (d a : Fin 32) (f : Word → Word) (h : poisonedX s [a.val] = none) :
    aluR s d a f = .next (retire (setX s d (f (getX s a)))) := by
  simp [aluR, readingX, h]

/-- Sign extension as the claims write it. -/
theorem sext64_eq (x w : Nat) (hw : 0 < w) (hw2 : w ≤ 64) (h : x < 2 ^ w) :
    sext64 x w = (BitVec.ofNat w x).signExtend 64 := by
  apply BitVec.eq_of_toInt_eq
  unfold sext64 toS
  rw [BitVec.toInt_signExtend_of_le hw2, BitVec.toInt_ofInt, BitVec.toInt_eq_toNat_bmod, BitVec.toNat_ofNat]
  have hp : (2 : Nat) ^ w = 2 * 2 ^ (w - 1) := by rw [← Nat.pow_succ']; congr 1; omega
  have h3 : (2 : Nat) ^ w ≤ 18446744073709551616 := Nat.pow_le_pow_right (n := 2) (by omega) hw2
  rw [Nat.mod_eq_of_lt h]
  have hi : ((2 ^ w : Nat) : Int) = 2 * ((2 ^ (w - 1) : Nat) : Int) := by rw [hp]; push_cast; ring
  generalize (2 ^ (w - 1) : Nat) = A at *
  generalize (2 ^ w : Nat) = B at *
  simp only [Int.bmod_def]
  have hm : (x : Int) % (2 * (A : Int)) = x := Int.emod_eq_of_lt (by omega) (by omega)
  norm_num only [hi, hm]
  split <;> split <;> split <;> omega

/-! ### Traps and jumps -/

theorem dropConvoyLeave_shape (s : State) (gid : Nat) :
    ∃ l, dropConvoyLeave s gid = { s with eng := { s.eng with leaves := l } } := by
  unfold dropConvoyLeave
  split
  · exact ⟨_, rfl⟩
  · exact ⟨_, rfl⟩

/-- A trap that can be delivered enters the handler. -/
theorem takeTrap_entered (s : State) (c : Nat) (v epc : Word) (h : deliverable s epc) :
    TrapEntered s (takeTrap s c v epc) c v epc := by
  obtain ⟨l, hl⟩ := dropConvoyLeave_shape s s.g.gid
  have h' : halts s.g epc = false := by simpa only [deliverable, Bool.not_eq_true] using h
  simp only [takeTrap, hl, h', Bool.false_eq_true, if_false]
  exact ⟨rfl, rfl, rfl, rfl, rfl, l,
    { s.g.tr with plev := s.g.tr.lev, lev := true, tcause := c, tval := v, tepc := epc &&& ~~~3#64 }, s.g.tr.handler, .jumped, Waits.none, 0, s.g.retired, s.g.spcount, false, rfl⟩

/-- A trap that cannot halts the group, with its cause kept. -/
theorem takeTrap_halts (s : State) (c : Nat) (v epc : Word) (h : halts s.g epc = true) :
    ∃ l, takeTrap s c v epc = { s with
      g := { s.g with halt := some (c, v, epc) }, eng := { s.eng with leaves := l }, stalled := false } := by
  obtain ⟨l, hl⟩ := dropConvoyLeave_shape s s.g.gid
  refine ⟨l, ?_⟩
  unfold takeTrap
  rw [hl]
  simp only [h, if_true]

/-- A jump within the code extent is taken; any other traps with its target. -/
theorem transfer_cases (s : State) (t : Word) (k : State → State) :
    (inExtent s.g t.toNat = true → transfer s t k = retireTo (k s) t) ∧
      (inExtent s.g t.toNat = false → transfer s t k = trap s cFetchBounds t) := by
  constructor <;> intro h <;> simp [transfer, h]

/-! ### Accesses -/

/-- A misaligned scalar access traps with its address before any access. -/
theorem scalarAccess_misaligned (s : State) (kind : Nat) (va : Word) (n : Nat) (k : State → Nat → State)
    (h : va.toNat % n ≠ 0) : scalarAccess s kind va n k = trap s cMisaligned va := by
  simp [scalarAccess, checkLoc, Loc.addr, h, failRecord]

/-- An aligned scalar access that is translated goes on with its address. -/
theorem scalarAccess_mapped (s s1 : State) (kind : Nat) (va : Word) (n pa : Nat) (k : State → Nat → State)
    (h : va.toNat % n = 0) (ht : translate s (whoG s) kind va.toNat = (.ok pa, s1)) :
    scalarAccess s kind va n k = k s1 pa := by
  simp [scalarAccess, checkLoc, Loc.addr, h, ht]

/-- One whose translation fails writes its record and traps with its address. -/
theorem scalarAccess_failed (s s1 : State) (kind : Nat) (va : Word) (n : Nat) (x : XFail) (k : State → Nat → State)
    (h : va.toNat % n = 0) (ht : translate s (whoG s) kind va.toNat = (.error x, s1)) :
    scalarAccess s kind va n k = trap (xfaultRecord s1 (whoG s1) kind va.toNat x) x.cause va := by
  simp [scalarAccess, checkLoc, Loc.addr, h, ht, failRecord]

theorem busRead_memory (s : State) (w : Who) (pa n : Nat) (h : paKind s pa = .hbm ∨ paKind s pa = .host) :
    busRead s w pa n =
      let r := sliceRead s pa n
      let q := lookBack r.2.2 w.misses pa n r.1
      (q.1, r.2.1, q.2) := by
  rcases h with h | h <;> simp [busRead, h]

theorem busWrite_memory (s : State) (w : Who) (pa n v : Nat) (h : paKind s pa = .hbm ∨ paKind s pa = .host) :
    busWrite s w pa n v = sliceWriteBy s w.src pa n v := by
  rcases h with h | h <;> simp [busWrite, h]

/-! ### Requests of other nodes -/

/-- A number that is taken is known, and nothing else becomes known with it. -/
theorem mem_seqTaken (l : List Nat) (seq x : Nat) :
    seq ∈ seqTaken l seq ∧ (x ∈ seqTaken l seq → x = seq ∨ x ∈ l) := by
  cases l with
  | nil => simp [seqTaken]
  | cons n r =>
    simp only [seqTaken, List.drop_one, List.tail_cons]
    split
    · simp only [List.mem_cons, true_or, or_true, true_and]
      tauto
    · simp only [List.mem_cons, true_or, true_and, List.mem_filter]
      tauto

/-- A request that has been taken is a duplicate when it comes again. -/
theorem isDuplicate_taken (s : State) (src seq : Nat) (io : Io)
    (h : io.peerSeq = tabPut s.io.peerSeq src (seqTaken (seqsOf s src) (seq % 2 ^ 32))) :
    isDuplicate { s with io := io } src seq = true := by
  simp only [isDuplicate, seqsOf, tabGet, h, tabGet?_tabPut_self, Option.getD_some, List.contains_iff_mem]
  exact (mem_seqTaken _ _ 0).1

/-! ### Groups -/

/-- An event of the current group acts on the state as it is. -/
theorem onGroup_current (s : State) (f : State → State) (h : s.g.live = true) : onGroup s s.g.gid f = f s := by
  simp [onGroup, h]

/-- A step listed first is performed, whatever else could happen, unless an earlier one waits for its line. -/
theorem step_listed (s : State) (i : Instr) (m : Msg) (rest : List (Instr × Msg)) (h : s.inputs = (i, m) :: rest)
    (hw : waitsBehind (tick { s with inputs := rest }).waiting i m = false) :
    step s = finish { tick { s with inputs := rest } with waiting := (tick { s with inputs := rest }).waiting ++ [(i, m)] }
      (runUnit (tick { s with inputs := rest }) i m) := by
  simp only [step, h, hw]
  rfl

end Sys2Proof.Machine
end

