-- ==== Sys2Proof/Laws/PerInstr.lean ====
section
/-!
SUPPORT. What is said of every instruction, one lemma a constructor: the word that encodes it fits in 32 bits (R201).
-/

theorem Sys2Proof.Laws.flagBit_le (b : Bool) (n : Nat) : Sys2Proof.flagBit b n ≤ n := by
  cases b <;> simp [Sys2Proof.flagBit]

namespace Sys2Proof.Laws.EncodeFits

/-- The word of the instruction, where it has one, is a 32-bit word. -/
def Statement (i : Instr) : Prop := ∀ word, encode i = some word → word < 4294967296

theorem add (d : Fin 32) (a : Fin 32) (b : Fin 32) : Statement (.add d a b) := by
  intro _ h; cases h
  have := d.isLt; have := a.isLt; have := b.isLt
  omega
theorem sub (d : Fin 32) (a : Fin 32) (b : Fin 32) : Statement (.sub d a b) := by
  intro _ h; cases h
  have := d.isLt; have := a.isLt; have := b.isLt
  omega
theorem and (d : Fin 32) (a : Fin 32) (b : Fin 32) : Statement (.and d a b) := by
  intro _ h; cases h
  have := d.isLt; have := a.isLt; have := b.isLt
  omega
theorem or (d : Fin 32) (a : Fin 32) (b : Fin 32) : Statement (.or d a b) := by
  intro _ h; cases h
  have := d.isLt; have := a.isLt; have := b.isLt
  omega
theorem xor (d : Fin 32) (a : Fin 32) (b : Fin 32) : Statement (.xor d a b) := by
  intro _ h; cases h
  have := d.isLt; have := a.isLt; have := b.isLt
  omega
theorem sll (d : Fin 32) (a : Fin 32) (b : Fin 32) : Statement (.sll d a b) := by
  intro _ h; cases h
  have := d.isLt; have := a.isLt; have := b.isLt
  omega
theorem srl (d : Fin 32) (a : Fin 32) (b : Fin 32) : Statement (.srl d a b) := by
  intro _ h; cases h
  have := d.isLt; have := a.isLt; have := b.isLt
  omega
theorem sra (d : Fin 32) (a : Fin 32) (b : Fin 32) : Statement (.sra d a b) := by
  intro _ h; cases h
  have := d.isLt; have := a.isLt; have := b.isLt
  omega
theorem slt (d : Fin 32) (a : Fin 32) (b : Fin 32) : Statement (.slt d a b) := by
  intro _ h; cases h
  have := d.isLt; have := a.isLt; have := b.isLt
  omega
theorem sltu (d : Fin 32) (a : Fin 32) (b : Fin 32) : Statement (.sltu d a b) := by
  intro _ h; cases h
  have := d.isLt; have := a.isLt; have := b.isLt
  omega
theorem mul (d : Fin 32) (a : Fin 32) (b : Fin 32) : Statement (.mul d a b) := by
  intro _ h; cases h
  have := d.isLt; have := a.isLt; have := b.isLt
  omega
theorem mulh (d : Fin 32) (a : Fin 32) (b : Fin 32) : Statement (.mulh d a b) := by
  intro _ h; cases h
  have := d.isLt; have := a.isLt; have := b.isLt
  omega
theorem mulhu (d : Fin 32) (a : Fin 32) (b : Fin 32) : Statement (.mulhu d a b) := by
  intro _ h; cases h
  have := d.isLt; have := a.isLt; have := b.isLt
  omega
theorem div (d : Fin 32) (a : Fin 32) (b : Fin 32) : Statement (.div d a b) := by
  intro _ h; cases h
  have := d.isLt; have := a.isLt; have := b.isLt
  omega
theorem divu (d : Fin 32) (a : Fin 32) (b : Fin 32) : Statement (.divu d a b) := by
  intro _ h; cases h
  have := d.isLt; have := a.isLt; have := b.isLt
  omega
theorem rem (d : Fin 32) (a : Fin 32) (b : Fin 32) : Statement (.rem d a b) := by
  intro _ h; cases h
  have := d.isLt; have := a.isLt; have := b.isLt
  omega
theorem remu (d : Fin 32) (a : Fin 32) (b : Fin 32) : Statement (.remu d a b) := by
  intro _ h; cases h
  have := d.isLt; have := a.isLt; have := b.isLt
  omega
theorem min (d : Fin 32) (a : Fin 32) (b : Fin 32) : Statement (.min d a b) := by
  intro _ h; cases h
  have := d.isLt; have := a.isLt; have := b.isLt
  omega
theorem max (d : Fin 32) (a : Fin 32) (b : Fin 32) : Statement (.max d a b) := by
  intro _ h; cases h
  have := d.isLt; have := a.isLt; have := b.isLt
  omega
theorem minu (d : Fin 32) (a : Fin 32) (b : Fin 32) : Statement (.minu d a b) := by
  intro _ h; cases h
  have := d.isLt; have := a.isLt; have := b.isLt
  omega
theorem maxu (d : Fin 32) (a : Fin 32) (b : Fin 32) : Statement (.maxu d a b) := by
  intro _ h; cases h
  have := d.isLt; have := a.isLt; have := b.isLt
  omega
theorem clz (d : Fin 32) (a : Fin 32) : Statement (.clz d a) := by
  intro _ h; cases h
  have := d.isLt; have := a.isLt
  omega
theorem ctz (d : Fin 32) (a : Fin 32) : Statement (.ctz d a) := by
  intro _ h; cases h
  have := d.isLt; have := a.isLt
  omega
theorem popc (d : Fin 32) (a : Fin 32) : Statement (.popc d a) := by
  intro _ h; cases h
  have := d.isLt; have := a.isLt
  omega
theorem addi (d : Fin 32) (a : Fin 32) (i : Fin 65536) : Statement (.addi d a i) := by
  intro _ h; cases h
  have := d.isLt; have := a.isLt; have := i.isLt
  omega
theorem andi (d : Fin 32) (a : Fin 32) (i : Fin 65536) : Statement (.andi d a i) := by
  intro _ h; cases h
  have := d.isLt; have := a.isLt; have := i.isLt
  omega
theorem ori (d : Fin 32) (a : Fin 32) (i : Fin 65536) : Statement (.ori d a i) := by
  intro _ h; cases h
  have := d.isLt; have := a.isLt; have := i.isLt
  omega
theorem xori (d : Fin 32) (a : Fin 32) (i : Fin 65536) : Statement (.xori d a i) := by
  intro _ h; cases h
  have := d.isLt; have := a.isLt; have := i.isLt
  omega
theorem slli (d : Fin 32) (a : Fin 32) (s : Fin 64) : Statement (.slli d a s) := by
  intro _ h; cases h
  have := d.isLt; have := a.isLt; have := s.isLt
  omega
theorem srli (d : Fin 32) (a : Fin 32) (s : Fin 64) : Statement (.srli d a s) := by
  intro _ h; cases h
  have := d.isLt; have := a.isLt; have := s.isLt
  omega
theorem srai (d : Fin 32) (a : Fin 32) (s : Fin 64) : Statement (.srai d a s) := by
  intro _ h; cases h
  have := d.isLt; have := a.isLt; have := s.isLt
  omega
theorem slti (d : Fin 32) (a : Fin 32) (i : Fin 65536) : Statement (.slti d a i) := by
  intro _ h; cases h
  have := d.isLt; have := a.isLt; have := i.isLt
  omega
theorem ldhi (d : Fin 32) (i : Fin 2097152) : Statement (.ldhi d i) := by
  intro _ h; cases h
  have := d.isLt; have := i.isLt
  omega
theorem adpc (d : Fin 32) (i : Fin 2097152) : Statement (.adpc d i) := by
  intro _ h; cases h
  have := d.isLt; have := i.isLt
  omega
theorem beq (a : Fin 32) (b : Fin 32) (o : Fin 65536) : Statement (.beq a b o) := by
  intro _ h; cases h
  have := a.isLt; have := b.isLt; have := o.isLt
  omega
theorem bne (a : Fin 32) (b : Fin 32) (o : Fin 65536) : Statement (.bne a b o) := by
  intro _ h; cases h
  have := a.isLt; have := b.isLt; have := o.isLt
  omega
theorem blt (a : Fin 32) (b : Fin 32) (o : Fin 65536) : Statement (.blt a b o) := by
  intro _ h; cases h
  have := a.isLt; have := b.isLt; have := o.isLt
  omega
theorem bge (a : Fin 32) (b : Fin 32) (o : Fin 65536) : Statement (.bge a b o) := by
  intro _ h; cases h
  have := a.isLt; have := b.isLt; have := o.isLt
  omega
theorem bltu (a : Fin 32) (b : Fin 32) (o : Fin 65536) : Statement (.bltu a b o) := by
  intro _ h; cases h
  have := a.isLt; have := b.isLt; have := o.isLt
  omega
theorem bgeu (a : Fin 32) (b : Fin 32) (o : Fin 65536) : Statement (.bgeu a b o) := by
  intro _ h; cases h
  have := a.isLt; have := b.isLt; have := o.isLt
  omega
theorem jl (o : Fin 67108864) : Statement (.jl o) := by
  intro _ h; cases h
  have := o.isLt
  omega
theorem jlr (d : Fin 32) (a : Fin 32) (i : Fin 65536) : Statement (.jlr d a i) := by
  intro _ h; cases h
  have := d.isLt; have := a.isLt; have := i.isLt
  omega
theorem ldB (d : Fin 32) (a : Fin 32) (o : Fin 8192) : Statement (.ldB d a o) := by
  intro _ h; cases h
  have := d.isLt; have := a.isLt; have := o.isLt
  omega
theorem ldH (d : Fin 32) (a : Fin 32) (o : Fin 8192) : Statement (.ldH d a o) := by
  intro _ h; cases h
  have := d.isLt; have := a.isLt; have := o.isLt
  omega
theorem ldW (d : Fin 32) (a : Fin 32) (o : Fin 8192) : Statement (.ldW d a o) := by
  intro _ h; cases h
  have := d.isLt; have := a.isLt; have := o.isLt
  omega
theorem ldD (d : Fin 32) (a : Fin 32) (o : Fin 8192) : Statement (.ldD d a o) := by
  intro _ h; cases h
  have := d.isLt; have := a.isLt; have := o.isLt
  omega
theorem ldBu (d : Fin 32) (a : Fin 32) (o : Fin 8192) : Statement (.ldBu d a o) := by
  intro _ h; cases h
  have := d.isLt; have := a.isLt; have := o.isLt
  omega
theorem ldHu (d : Fin 32) (a : Fin 32) (o : Fin 8192) : Statement (.ldHu d a o) := by
  intro _ h; cases h
  have := d.isLt; have := a.isLt; have := o.isLt
  omega
theorem ldWu (d : Fin 32) (a : Fin 32) (o : Fin 8192) : Statement (.ldWu d a o) := by
  intro _ h; cases h
  have := d.isLt; have := a.isLt; have := o.isLt
  omega
theorem stB (s : Fin 32) (a : Fin 32) (o : Fin 8192) : Statement (.stB s a o) := by
  intro _ h; cases h
  have := s.isLt; have := a.isLt; have := o.isLt
  omega
theorem stH (s : Fin 32) (a : Fin 32) (o : Fin 8192) : Statement (.stH s a o) := by
  intro _ h; cases h
  have := s.isLt; have := a.isLt; have := o.isLt
  omega
theorem stW (s : Fin 32) (a : Fin 32) (o : Fin 8192) : Statement (.stW s a o) := by
  intro _ h; cases h
  have := s.isLt; have := a.isLt; have := o.isLt
  omega
theorem stD (s : Fin 32) (a : Fin 32) (o : Fin 8192) : Statement (.stD s a o) := by
  intro _ h; cases h
  have := s.isLt; have := a.isLt; have := o.isLt
  omega
theorem amoSwap (d : Fin 32) (a : Fin 32) (b : Fin 32) (s : Fin 8) (o : Fin 4) (w : Bool) : Statement (.amoSwap d a b s o w) := by
  intro _ h; cases h
  have := d.isLt; have := a.isLt; have := b.isLt; have := s.isLt; have := o.isLt; have := flagBit_le w 32
  omega
theorem amoAdd (d : Fin 32) (a : Fin 32) (b : Fin 32) (s : Fin 8) (o : Fin 4) (w : Bool) : Statement (.amoAdd d a b s o w) := by
  intro _ h; cases h
  have := d.isLt; have := a.isLt; have := b.isLt; have := s.isLt; have := o.isLt; have := flagBit_le w 32
  omega
theorem amoAnd (d : Fin 32) (a : Fin 32) (b : Fin 32) (s : Fin 8) (o : Fin 4) (w : Bool) : Statement (.amoAnd d a b s o w) := by
  intro _ h; cases h
  have := d.isLt; have := a.isLt; have := b.isLt; have := s.isLt; have := o.isLt; have := flagBit_le w 32
  omega
theorem amoOr (d : Fin 32) (a : Fin 32) (b : Fin 32) (s : Fin 8) (o : Fin 4) (w : Bool) : Statement (.amoOr d a b s o w) := by
  intro _ h; cases h
  have := d.isLt; have := a.isLt; have := b.isLt; have := s.isLt; have := o.isLt; have := flagBit_le w 32
  omega
theorem amoXor (d : Fin 32) (a : Fin 32) (b : Fin 32) (s : Fin 8) (o : Fin 4) (w : Bool) : Statement (.amoXor d a b s o w) := by
  intro _ h; cases h
  have := d.isLt; have := a.isLt; have := b.isLt; have := s.isLt; have := o.isLt; have := flagBit_le w 32
  omega
theorem amoMin (d : Fin 32) (a : Fin 32) (b : Fin 32) (s : Fin 8) (o : Fin 4) (w : Bool) : Statement (.amoMin d a b s o w) := by
  intro _ h; cases h
  have := d.isLt; have := a.isLt; have := b.isLt; have := s.isLt; have := o.isLt; have := flagBit_le w 32
  omega
theorem amoMax (d : Fin 32) (a : Fin 32) (b : Fin 32) (s : Fin 8) (o : Fin 4) (w : Bool) : Statement (.amoMax d a b s o w) := by
  intro _ h; cases h
  have := d.isLt; have := a.isLt; have := b.isLt; have := s.isLt; have := o.isLt; have := flagBit_le w 32
  omega
theorem amoMinu (d : Fin 32) (a : Fin 32) (b : Fin 32) (s : Fin 8) (o : Fin 4) (w : Bool) : Statement (.amoMinu d a b s o w) := by
  intro _ h; cases h
  have := d.isLt; have := a.isLt; have := b.isLt; have := s.isLt; have := o.isLt; have := flagBit_le w 32
  omega
theorem amoMaxu (d : Fin 32) (a : Fin 32) (b : Fin 32) (s : Fin 8) (o : Fin 4) (w : Bool) : Statement (.amoMaxu d a b s o w) := by
  intro _ h; cases h
  have := d.isLt; have := a.isLt; have := b.isLt; have := s.isLt; have := o.isLt; have := flagBit_le w 32
  omega
theorem amoCas (d : Fin 32) (a : Fin 32) (b : Fin 32) (s : Fin 8) (o : Fin 4) (w : Bool) : Statement (.amoCas d a b s o w) := by
  intro _ h; cases h
  have := d.isLt; have := a.isLt; have := b.isLt; have := s.isLt; have := o.isLt; have := flagBit_le w 32
  omega
theorem amoLd (d : Fin 32) (a : Fin 32) (s : Fin 8) (o : Fin 4) (w : Bool) : Statement (.amoLd d a s o w) := by
  intro _ h; cases h
  have := d.isLt; have := a.isLt; have := s.isLt; have := o.isLt; have := flagBit_le w 32
  omega
theorem amoSt (a : Fin 32) (b : Fin 32) (s : Fin 8) (o : Fin 4) (w : Bool) : Statement (.amoSt a b s o w) := by
  intro _ h; cases h
  have := a.isLt; have := b.isLt; have := s.isLt; have := o.isLt; have := flagBit_le w 32
  omega
theorem fenceSv : Statement .fenceSv := by
  intro _ h; cases h
  decide
theorem fenceVs : Statement .fenceVs := by
  intro _ h; cases h
  decide
theorem fenceSvW : Statement .fenceSvW := by
  intro _ h; cases h
  decide
theorem fenceAcq (s : Fin 8) : Statement (.fenceAcq s) := by
  intro _ h; cases h
  have := s.isLt
  omega
theorem fenceRel (s : Fin 8) : Statement (.fenceRel s) := by
  intro _ h; cases h
  have := s.isLt
  omega
theorem fenceAr (s : Fin 8) : Statement (.fenceAr s) := by
  intro _ h; cases h
  have := s.isLt
  omega
theorem gsr (d : Fin 32) (n : Fin 4096) : Statement (.gsr d n) := by
  intro _ h; cases h
  have := d.isLt; have := n.isLt
  omega
theorem ssr (a : Fin 32) (n : Fin 4096) : Statement (.ssr a n) := by
  intro _ h; cases h
  have := a.isLt; have := n.isLt
  omega
theorem trap (c : Fin 4096) : Statement (.trap c) := by
  intro _ h; cases h
  have := c.isLt
  omega
theorem tret : Statement .tret := by
  intro _ h; cases h
  decide
theorem gexit : Statement .gexit := by
  intro _ h; cases h
  decide
theorem yield : Statement .yield := by
  intro _ h; cases h
  decide
theorem spt (i : Fin 131072) : Statement (.spt i) := by
  intro _ h; cases h
  have := i.isLt
  omega
theorem pwlease (a : Fin 32) : Statement (.pwlease a) := by
  intro _ h; cases h
  have := a.isLt
  omega
theorem fld (d : Fin 32) (a : Fin 32) : Statement (.fld d a) := by
  intro _ h; cases h
  have := d.isLt; have := a.isLt
  omega
theorem fldE (d : Fin 32) (a : Fin 32) : Statement (.fldE d a) := by
  intro _ h; cases h
  have := d.isLt; have := a.isLt
  omega
theorem fldx (d : Fin 32) (a : Fin 32) : Statement (.fldx d a) := by
  intro _ h; cases h
  have := d.isLt; have := a.isLt
  omega
theorem fldxE (d : Fin 32) (a : Fin 32) : Statement (.fldxE d a) := by
  intro _ h; cases h
  have := d.isLt; have := a.isLt
  omega
theorem ffill (a : Fin 32) (b : Fin 32) : Statement (.ffill a b) := by
  intro _ h; cases h
  have := a.isLt; have := b.isLt
  omega
theorem tbar (d : Fin 32) (a : Fin 32) : Statement (.tbar d a) := by
  intro _ h; cases h
  have := d.isLt; have := a.isLt
  omega
theorem carrive (d : Fin 32) (a : Fin 32) : Statement (.carrive d a) := by
  intro _ h; cases h
  have := d.isLt; have := a.isLt
  omega
theorem cwait (a : Fin 32) (b : Fin 32) : Statement (.cwait a b) := by
  intro _ h; cases h
  have := a.isLt; have := b.isLt
  omega
theorem tattach (d : Fin 32) (a : Fin 32) : Statement (.tattach d a) := by
  intro _ h; cases h
  have := d.isLt; have := a.isLt
  omega
theorem tdetach : Statement .tdetach := by
  intro _ h; cases h
  decide
theorem ipost (a : Fin 32) (b : Fin 32) : Statement (.ipost a b) := by
  intro _ h; cases h
  have := a.isLt; have := b.isLt
  omega
theorem iwait (d : Fin 32) (a : Fin 32) (b : Fin 32) : Statement (.iwait d a b) := by
  intro _ h; cases h
  have := d.isLt; have := a.isLt; have := b.isLt
  omega
theorem sgrab (d : Fin 32) (a : Fin 32) : Statement (.sgrab d a) := by
  intro _ h; cases h
  have := d.isLt; have := a.isLt
  omega
theorem sspawn (a : Fin 32) (b : Fin 32) : Statement (.sspawn a b) := by
  intro _ h; cases h
  have := a.isLt; have := b.isLt
  omega
theorem vcfg (d : Fin 32) (a : Fin 32) : Statement (.vcfg d a) := by
  intro _ h; cases h
  have := d.isLt; have := a.isLt
  omega
theorem vgrant (d : Fin 32) (a : Fin 32) (g : Fin 4) (w : Fin 8) : Statement (.vgrant d a g w) := by
  intro _ h; cases h
  have := d.isLt; have := a.isLt; have := g.isLt; have := w.isLt
  omega
theorem mshape (d : Fin 32) (a : Fin 32) : Statement (.mshape d a) := by
  intro _ h; cases h
  have := d.isLt; have := a.isLt
  omega
theorem vadd (d : Fin 32) (a : Fin 32) (b : Fin 32) (m : Fin 8) (c : Bool) (k : Bool) : Statement (.vadd d a b m c k) := by
  intro _ h; cases h
  have := d.isLt; have := a.isLt; have := b.isLt; have := m.isLt; have := flagBit_le c 128; have := flagBit_le k 64
  omega
theorem vsub (d : Fin 32) (a : Fin 32) (b : Fin 32) (m : Fin 8) (c : Bool) (k : Bool) : Statement (.vsub d a b m c k) := by
  intro _ h; cases h
  have := d.isLt; have := a.isLt; have := b.isLt; have := m.isLt; have := flagBit_le c 128; have := flagBit_le k 64
  omega
theorem vrsub (d : Fin 32) (a : Fin 32) (b : Fin 32) (m : Fin 8) (c : Bool) (k : Bool) : Statement (.vrsub d a b m c k) := by
  intro _ h; cases h
  have := d.isLt; have := a.isLt; have := b.isLt; have := m.isLt; have := flagBit_le c 128; have := flagBit_le k 64
  omega
theorem vmul (d : Fin 32) (a : Fin 32) (b : Fin 32) (m : Fin 8) (c : Bool) (k : Bool) : Statement (.vmul d a b m c k) := by
  intro _ h; cases h
  have := d.isLt; have := a.isLt; have := b.isLt; have := m.isLt; have := flagBit_le c 128; have := flagBit_le k 64
  omega
theorem vmulh (d : Fin 32) (a : Fin 32) (b : Fin 32) (m : Fin 8) (c : Bool) (k : Bool) : Statement (.vmulh d a b m c k) := by
  intro _ h; cases h
  have := d.isLt; have := a.isLt; have := b.isLt; have := m.isLt; have := flagBit_le c 128; have := flagBit_le k 64
  omega
theorem vdiv (d : Fin 32) (a : Fin 32) (b : Fin 32) (m : Fin 8) (c : Bool) (k : Bool) : Statement (.vdiv d a b m c k) := by
  intro _ h; cases h
  have := d.isLt; have := a.isLt; have := b.isLt; have := m.isLt; have := flagBit_le c 128; have := flagBit_le k 64
  omega
theorem vrem (d : Fin 32) (a : Fin 32) (b : Fin 32) (m : Fin 8) (c : Bool) (k : Bool) : Statement (.vrem d a b m c k) := by
  intro _ h; cases h
  have := d.isLt; have := a.isLt; have := b.isLt; have := m.isLt; have := flagBit_le c 128; have := flagBit_le k 64
  omega
theorem vmin (d : Fin 32) (a : Fin 32) (b : Fin 32) (m : Fin 8) (c : Bool) (k : Bool) : Statement (.vmin d a b m c k) := by
  intro _ h; cases h
  have := d.isLt; have := a.isLt; have := b.isLt; have := m.isLt; have := flagBit_le c 128; have := flagBit_le k 64
  omega
theorem vmax (d : Fin 32) (a : Fin 32) (b : Fin 32) (m : Fin 8) (c : Bool) (k : Bool) : Statement (.vmax d a b m c k) := by
  intro _ h; cases h
  have := d.isLt; have := a.isLt; have := b.isLt; have := m.isLt; have := flagBit_le c 128; have := flagBit_le k 64
  omega
theorem vfma (d : Fin 32) (a : Fin 32) (b : Fin 32) (m : Fin 8) (c : Bool) (k : Bool) : Statement (.vfma d a b m c k) := by
  intro _ h; cases h
  have := d.isLt; have := a.isLt; have := b.isLt; have := m.isLt; have := flagBit_le c 128; have := flagBit_le k 64
  omega
theorem vfms (d : Fin 32) (a : Fin 32) (b : Fin 32) (m : Fin 8) (c : Bool) (k : Bool) : Statement (.vfms d a b m c k) := by
  intro _ h; cases h
  have := d.isLt; have := a.isLt; have := b.isLt; have := m.isLt; have := flagBit_le c 128; have := flagBit_le k 64
  omega
theorem vfnma (d : Fin 32) (a : Fin 32) (b : Fin 32) (m : Fin 8) (c : Bool) (k : Bool) : Statement (.vfnma d a b m c k) := by
  intro _ h; cases h
  have := d.isLt; have := a.isLt; have := b.isLt; have := m.isLt; have := flagBit_le c 128; have := flagBit_le k 64
  omega
theorem vsadd (d : Fin 32) (a : Fin 32) (b : Fin 32) (m : Fin 8) (c : Bool) (k : Bool) : Statement (.vsadd d a b m c k) := by
  intro _ h; cases h
  have := d.isLt; have := a.isLt; have := b.isLt; have := m.isLt; have := flagBit_le c 128; have := flagBit_le k 64
  omega
theorem vssub (d : Fin 32) (a : Fin 32) (b : Fin 32) (m : Fin 8) (c : Bool) (k : Bool) : Statement (.vssub d a b m c k) := by
  intro _ h; cases h
  have := d.isLt; have := a.isLt; have := b.isLt; have := m.isLt; have := flagBit_le c 128; have := flagBit_le k 64
  omega
theorem vabs (d : Fin 32) (b : Fin 32) (m : Fin 8) (c : Bool) : Statement (.vabs d b m c) := by
  intro _ h; cases h
  have := d.isLt; have := b.isLt; have := m.isLt; have := flagBit_le c 128
  omega
theorem vneg (d : Fin 32) (b : Fin 32) (m : Fin 8) (c : Bool) : Statement (.vneg d b m c) := by
  intro _ h; cases h
  have := d.isLt; have := b.isLt; have := m.isLt; have := flagBit_le c 128
  omega
theorem vabsd (d : Fin 32) (a : Fin 32) (b : Fin 32) (m : Fin 8) (c : Bool) (k : Bool) : Statement (.vabsd d a b m c k) := by
  intro _ h; cases h
  have := d.isLt; have := a.isLt; have := b.isLt; have := m.isLt; have := flagBit_le c 128; have := flagBit_le k 64
  omega
theorem vand (d : Fin 32) (a : Fin 32) (b : Fin 32) (m : Fin 8) (c : Bool) (k : Bool) : Statement (.vand d a b m c k) := by
  intro _ h; cases h
  have := d.isLt; have := a.isLt; have := b.isLt; have := m.isLt; have := flagBit_le c 128; have := flagBit_le k 64
  omega
theorem vor (d : Fin 32) (a : Fin 32) (b : Fin 32) (m : Fin 8) (c : Bool) (k : Bool) : Statement (.vor d a b m c k) := by
  intro _ h; cases h
  have := d.isLt; have := a.isLt; have := b.isLt; have := m.isLt; have := flagBit_le c 128; have := flagBit_le k 64
  omega
theorem vxor (d : Fin 32) (a : Fin 32) (b : Fin 32) (m : Fin 8) (c : Bool) (k : Bool) : Statement (.vxor d a b m c k) := by
  intro _ h; cases h
  have := d.isLt; have := a.isLt; have := b.isLt; have := m.isLt; have := flagBit_le c 128; have := flagBit_le k 64
  omega
theorem vandn (d : Fin 32) (a : Fin 32) (b : Fin 32) (m : Fin 8) (c : Bool) (k : Bool) : Statement (.vandn d a b m c k) := by
  intro _ h; cases h
  have := d.isLt; have := a.isLt; have := b.isLt; have := m.isLt; have := flagBit_le c 128; have := flagBit_le k 64
  omega
theorem vnot (d : Fin 32) (b : Fin 32) (m : Fin 8) (c : Bool) : Statement (.vnot d b m c) := by
  intro _ h; cases h
  have := d.isLt; have := b.isLt; have := m.isLt; have := flagBit_le c 128
  omega
theorem vsll (d : Fin 32) (a : Fin 32) (b : Fin 32) (m : Fin 8) (c : Bool) (k : Bool) : Statement (.vsll d a b m c k) := by
  intro _ h; cases h
  have := d.isLt; have := a.isLt; have := b.isLt; have := m.isLt; have := flagBit_le c 128; have := flagBit_le k 64
  omega
theorem vsrl (d : Fin 32) (a : Fin 32) (b : Fin 32) (m : Fin 8) (c : Bool) (k : Bool) : Statement (.vsrl d a b m c k) := by
  intro _ h; cases h
  have := d.isLt; have := a.isLt; have := b.isLt; have := m.isLt; have := flagBit_le c 128; have := flagBit_le k 64
  omega
theorem vsra (d : Fin 32) (a : Fin 32) (b : Fin 32) (m : Fin 8) (c : Bool) (k : Bool) : Statement (.vsra d a b m c k) := by
  intro _ h; cases h
  have := d.isLt; have := a.isLt; have := b.isLt; have := m.isLt; have := flagBit_le c 128; have := flagBit_le k 64
  omega
theorem vclz (d : Fin 32) (b : Fin 32) (m : Fin 8) (c : Bool) : Statement (.vclz d b m c) := by
  intro _ h; cases h
  have := d.isLt; have := b.isLt; have := m.isLt; have := flagBit_le c 128
  omega
theorem vpopc (d : Fin 32) (b : Fin 32) (m : Fin 8) (c : Bool) : Statement (.vpopc d b m c) := by
  intro _ h; cases h
  have := d.isLt; have := b.isLt; have := m.isLt; have := flagBit_le c 128
  omega
theorem vceq (d : Fin 8) (a : Fin 32) (b : Fin 32) (m : Fin 8) (c : Bool) (k : Bool) : Statement (.vceq d a b m c k) := by
  intro _ h; cases h
  have := d.isLt; have := a.isLt; have := b.isLt; have := m.isLt; have := flagBit_le c 128; have := flagBit_le k 64
  omega
theorem vcne (d : Fin 8) (a : Fin 32) (b : Fin 32) (m : Fin 8) (c : Bool) (k : Bool) : Statement (.vcne d a b m c k) := by
  intro _ h; cases h
  have := d.isLt; have := a.isLt; have := b.isLt; have := m.isLt; have := flagBit_le c 128; have := flagBit_le k 64
  omega
theorem vclt (d : Fin 8) (a : Fin 32) (b : Fin 32) (m : Fin 8) (c : Bool) (k : Bool) : Statement (.vclt d a b m c k) := by
  intro _ h; cases h
  have := d.isLt; have := a.isLt; have := b.isLt; have := m.isLt; have := flagBit_le c 128; have := flagBit_le k 64
  omega
theorem vcle (d : Fin 8) (a : Fin 32) (b : Fin 32) (m : Fin 8) (c : Bool) (k : Bool) : Statement (.vcle d a b m c k) := by
  intro _ h; cases h
  have := d.isLt; have := a.isLt; have := b.isLt; have := m.isLt; have := flagBit_le c 128; have := flagBit_le k 64
  omega
theorem vcgt (d : Fin 8) (a : Fin 32) (b : Fin 32) (m : Fin 8) (c : Bool) (k : Bool) : Statement (.vcgt d a b m c k) := by
  intro _ h; cases h
  have := d.isLt; have := a.isLt; have := b.isLt; have := m.isLt; have := flagBit_le c 128; have := flagBit_le k 64
  omega
theorem vcge (d : Fin 8) (a : Fin 32) (b : Fin 32) (m : Fin 8) (c : Bool) (k : Bool) : Statement (.vcge d a b m c k) := by
  intro _ h; cases h
  have := d.isLt; have := a.isLt; have := b.isLt; have := m.isLt; have := flagBit_le c 128; have := flagBit_le k 64
  omega
theorem vcun (d : Fin 8) (a : Fin 32) (b : Fin 32) (m : Fin 8) (c : Bool) (k : Bool) : Statement (.vcun d a b m c k) := by
  intro _ h; cases h
  have := d.isLt; have := a.isLt; have := b.isLt; have := m.isLt; have := flagBit_le c 128; have := flagBit_le k 64
  omega
theorem vcvt (d : Fin 32) (t : Fin 32) (b : Fin 32) (m : Fin 8) (c : Bool) : Statement (.vcvt d t b m c) := by
  intro _ h; cases h
  have := d.isLt; have := t.isLt; have := b.isLt; have := m.isLt; have := flagBit_le c 128
  omega
theorem vcvtSat (d : Fin 32) (t : Fin 32) (b : Fin 32) (m : Fin 8) (c : Bool) : Statement (.vcvtSat d t b m c) := by
  intro _ h; cases h
  have := d.isLt; have := t.isLt; have := b.isLt; have := m.isLt; have := flagBit_le c 128
  omega
theorem vretag (d : Fin 32) (t : Fin 32) (b : Fin 32) (m : Fin 8) (c : Bool) : Statement (.vretag d t b m c) := by
  intro _ h; cases h
  have := d.isLt; have := t.isLt; have := b.isLt; have := m.isLt; have := flagBit_le c 128
  omega
theorem vredsum (d : Fin 32) (a : Fin 32) (b : Fin 32) (m : Fin 8) (c : Bool) : Statement (.vredsum d a b m c) := by
  intro _ h; cases h
  have := d.isLt; have := a.isLt; have := b.isLt; have := m.isLt; have := flagBit_le c 128
  omega
theorem vredsumU (d : Fin 32) (a : Fin 32) (b : Fin 32) (m : Fin 8) (c : Bool) : Statement (.vredsumU d a b m c) := by
  intro _ h; cases h
  have := d.isLt; have := a.isLt; have := b.isLt; have := m.isLt; have := flagBit_le c 128
  omega
theorem vredmin (d : Fin 32) (a : Fin 32) (b : Fin 32) (m : Fin 8) (c : Bool) : Statement (.vredmin d a b m c) := by
  intro _ h; cases h
  have := d.isLt; have := a.isLt; have := b.isLt; have := m.isLt; have := flagBit_le c 128
  omega
theorem vredmax (d : Fin 32) (a : Fin 32) (b : Fin 32) (m : Fin 8) (c : Bool) : Statement (.vredmax d a b m c) := by
  intro _ h; cases h
  have := d.isLt; have := a.isLt; have := b.isLt; have := m.isLt; have := flagBit_le c 128
  omega
theorem vredand (d : Fin 32) (a : Fin 32) (b : Fin 32) (m : Fin 8) (c : Bool) : Statement (.vredand d a b m c) := by
  intro _ h; cases h
  have := d.isLt; have := a.isLt; have := b.isLt; have := m.isLt; have := flagBit_le c 128
  omega
theorem vredor (d : Fin 32) (a : Fin 32) (b : Fin 32) (m : Fin 8) (c : Bool) : Statement (.vredor d a b m c) := by
  intro _ h; cases h
  have := d.isLt; have := a.isLt; have := b.isLt; have := m.isLt; have := flagBit_le c 128
  omega
theorem vredxor (d : Fin 32) (a : Fin 32) (b : Fin 32) (m : Fin 8) (c : Bool) : Statement (.vredxor d a b m c) := by
  intro _ h; cases h
  have := d.isLt; have := a.isLt; have := b.isLt; have := m.isLt; have := flagBit_le c 128
  omega
theorem vscan (d : Fin 32) (a : Fin 32) (b : Fin 32) (m : Fin 8) (c : Bool) : Statement (.vscan d a b m c) := by
  intro _ h; cases h
  have := d.isLt; have := a.isLt; have := b.isLt; have := m.isLt; have := flagBit_le c 128
  omega
theorem vmv (d : Fin 32) (b : Fin 32) (m : Fin 8) (c : Bool) (k : Bool) : Statement (.vmv d b m c k) := by
  intro _ h; cases h
  have := d.isLt; have := b.isLt; have := m.isLt; have := flagBit_le c 128; have := flagBit_le k 64
  omega
theorem vmvX (d : Fin 32) (b : Fin 32) (c : Bool) : Statement (.vmvX d b c) := by
  intro _ h; cases h
  have := d.isLt; have := b.isLt; have := flagBit_le c 128
  omega
theorem vslup (d : Fin 32) (a : Fin 32) (b : Fin 32) (m : Fin 8) (c : Bool) (k : Bool) : Statement (.vslup d a b m c k) := by
  intro _ h; cases h
  have := d.isLt; have := a.isLt; have := b.isLt; have := m.isLt; have := flagBit_le c 128; have := flagBit_le k 64
  omega
theorem vsldn (d : Fin 32) (a : Fin 32) (b : Fin 32) (m : Fin 8) (c : Bool) (k : Bool) : Statement (.vsldn d a b m c k) := by
  intro _ h; cases h
  have := d.isLt; have := a.isLt; have := b.isLt; have := m.isLt; have := flagBit_le c 128; have := flagBit_le k 64
  omega
theorem vgath (d : Fin 32) (a : Fin 32) (b : Fin 32) (m : Fin 8) (c : Bool) : Statement (.vgath d a b m c) := by
  intro _ h; cases h
  have := d.isLt; have := a.isLt; have := b.isLt; have := m.isLt; have := flagBit_le c 128
  omega
theorem vcompr (d : Fin 32) (b : Fin 32) (m : Fin 8) (c : Bool) : Statement (.vcompr d b m c) := by
  intro _ h; cases h
  have := d.isLt; have := b.isLt; have := m.isLt; have := flagBit_le c 128
  omega
theorem vexpd (d : Fin 32) (b : Fin 32) (m : Fin 8) (c : Bool) : Statement (.vexpd d b m c) := by
  intro _ h; cases h
  have := d.isLt; have := b.isLt; have := m.isLt; have := flagBit_le c 128
  omega
theorem vrev (d : Fin 32) (b : Fin 32) (m : Fin 8) (c : Bool) : Statement (.vrev d b m c) := by
  intro _ h; cases h
  have := d.isLt; have := b.isLt; have := m.isLt; have := flagBit_le c 128
  omega
theorem vrcp (d : Fin 32) (b : Fin 32) (m : Fin 8) (c : Bool) : Statement (.vrcp d b m c) := by
  intro _ h; cases h
  have := d.isLt; have := b.isLt; have := m.isLt; have := flagBit_le c 128
  omega
theorem vrsqrt (d : Fin 32) (b : Fin 32) (m : Fin 8) (c : Bool) : Statement (.vrsqrt d b m c) := by
  intro _ h; cases h
  have := d.isLt; have := b.isLt; have := m.isLt; have := flagBit_le c 128
  omega
theorem vsqrt (d : Fin 32) (b : Fin 32) (m : Fin 8) (c : Bool) : Statement (.vsqrt d b m c) := by
  intro _ h; cases h
  have := d.isLt; have := b.isLt; have := m.isLt; have := flagBit_le c 128
  omega
theorem vexp2 (d : Fin 32) (b : Fin 32) (m : Fin 8) (c : Bool) : Statement (.vexp2 d b m c) := by
  intro _ h; cases h
  have := d.isLt; have := b.isLt; have := m.isLt; have := flagBit_le c 128
  omega
theorem vlog2 (d : Fin 32) (b : Fin 32) (m : Fin 8) (c : Bool) : Statement (.vlog2 d b m c) := by
  intro _ h; cases h
  have := d.isLt; have := b.isLt; have := m.isLt; have := flagBit_le c 128
  omega
theorem vsin (d : Fin 32) (b : Fin 32) (m : Fin 8) (c : Bool) : Statement (.vsin d b m c) := by
  intro _ h; cases h
  have := d.isLt; have := b.isLt; have := m.isLt; have := flagBit_le c 128
  omega
theorem vcos (d : Fin 32) (b : Fin 32) (m : Fin 8) (c : Bool) : Statement (.vcos d b m c) := by
  intro _ h; cases h
  have := d.isLt; have := b.isLt; have := m.isLt; have := flagBit_le c 128
  omega
theorem vtanh (d : Fin 32) (b : Fin 32) (m : Fin 8) (c : Bool) : Statement (.vtanh d b m c) := by
  intro _ h; cases h
  have := d.isLt; have := b.isLt; have := m.isLt; have := flagBit_le c 128
  omega
theorem vidx (d : Fin 32) (s : Fin 1024) (m : Fin 8) (c : Bool) (p : Fin 128) : Statement (.vidx d s m c p) := by
  intro _ h; cases h
  have := d.isLt; have := s.isLt; have := m.isLt; have := p.isLt; have := flagBit_le c 128
  omega
theorem mand (d : Fin 8) (a : Fin 8) (b : Fin 8) (m : Fin 8) (c : Bool) : Statement (.mand d a b m c) := by
  intro _ h; cases h
  have := d.isLt; have := a.isLt; have := b.isLt; have := m.isLt; have := flagBit_le c 128
  omega
theorem mor (d : Fin 8) (a : Fin 8) (b : Fin 8) (m : Fin 8) (c : Bool) : Statement (.mor d a b m c) := by
  intro _ h; cases h
  have := d.isLt; have := a.isLt; have := b.isLt; have := m.isLt; have := flagBit_le c 128
  omega
theorem mxor (d : Fin 8) (a : Fin 8) (b : Fin 8) (m : Fin 8) (c : Bool) : Statement (.mxor d a b m c) := by
  intro _ h; cases h
  have := d.isLt; have := a.isLt; have := b.isLt; have := m.isLt; have := flagBit_le c 128
  omega
theorem mandn (d : Fin 8) (a : Fin 8) (b : Fin 8) (m : Fin 8) (c : Bool) : Statement (.mandn d a b m c) := by
  intro _ h; cases h
  have := d.isLt; have := a.isLt; have := b.isLt; have := m.isLt; have := flagBit_le c 128
  omega
theorem mnot (d : Fin 8) (b : Fin 8) (m : Fin 8) (c : Bool) : Statement (.mnot d b m c) := by
  intro _ h; cases h
  have := d.isLt; have := b.isLt; have := m.isLt; have := flagBit_le c 128
  omega
theorem mset (d : Fin 8) (m : Fin 8) (c : Bool) : Statement (.mset d m c) := by
  intro _ h; cases h
  have := d.isLt; have := m.isLt; have := flagBit_le c 128
  omega
theorem mclr (d : Fin 8) (m : Fin 8) (c : Bool) : Statement (.mclr d m c) := by
  intro _ h; cases h
  have := d.isLt; have := m.isLt; have := flagBit_le c 128
  omega
theorem mpopc (d : Fin 32) (b : Fin 8) (m : Fin 8) (c : Bool) : Statement (.mpopc d b m c) := by
  intro _ h; cases h
  have := d.isLt; have := b.isLt; have := m.isLt; have := flagBit_le c 128
  omega
theorem mfirst (d : Fin 32) (b : Fin 8) (m : Fin 8) (c : Bool) : Statement (.mfirst d b m c) := by
  intro _ h; cases h
  have := d.isLt; have := b.isLt; have := m.isLt; have := flagBit_le c 128
  omega
theorem vfetch (b : Fin 32) (m : Fin 8) : Statement (.vfetch b m) := by
  intro _ h; cases h
  have := b.isLt; have := m.isLt
  omega
theorem tfetch (b : Fin 32) (m : Fin 8) (k : Bool) : Statement (.tfetch b m k) := by
  intro _ h; cases h
  have := b.isLt; have := m.isLt; have := flagBit_le k 64
  omega
theorem vsync : Statement .vsync := by
  intro _ h; cases h
  decide
theorem xqsend (a : Fin 32) (m : Fin 8) : Statement (.xqsend a m) := by
  intro _ h; cases h
  have := a.isLt; have := m.isLt
  omega
theorem xqrecv (d : Fin 32) (m : Fin 8) : Statement (.xqrecv d m) := by
  intro _ h; cases h
  have := d.isLt; have := m.isLt
  omega
theorem xqsendCt (a : Fin 32) : Statement (.xqsendCt a) := by
  intro _ h; cases h
  have := a.isLt
  omega
theorem xqrecvCt (d : Fin 32) : Statement (.xqrecvCt d) := by
  intro _ h; cases h
  have := d.isLt
  omega
theorem vpid (d : Fin 32) (m : Fin 8) : Statement (.vpid d m) := by
  intro _ h; cases h
  have := d.isLt; have := m.isLt
  omega
theorem vld (d : Fin 32) (a : Fin 32) (m : Fin 8) (c : Bool) (p : Bool) : Statement (.vld d a m c p) := by
  intro _ h; cases h
  have := d.isLt; have := a.isLt; have := m.isLt; have := flagBit_le c 128; have := flagBit_le p 64
  omega
theorem vldS (d : Fin 32) (a : Fin 32) (s : Fin 32) (m : Fin 8) (c : Bool) (p : Bool) : Statement (.vldS d a s m c p) := by
  intro _ h; cases h
  have := d.isLt; have := a.isLt; have := s.isLt; have := m.isLt; have := flagBit_le c 128; have := flagBit_le p 64
  omega
theorem vldX (d : Fin 32) (a : Fin 32) (i : Fin 32) (m : Fin 8) (c : Bool) (p : Bool) (e : Fin 8) : Statement (.vldX d a i m c p e) := by
  intro _ h; cases h
  have := d.isLt; have := a.isLt; have := i.isLt; have := m.isLt; have := e.isLt; have := flagBit_le c 128; have := flagBit_le p 64
  omega
theorem vldFf (d : Fin 32) (a : Fin 32) (m : Fin 8) (c : Bool) : Statement (.vldFf d a m c) := by
  intro _ h; cases h
  have := d.isLt; have := a.isLt; have := m.isLt; have := flagBit_le c 128
  omega
theorem vldSeg (d : Fin 32) (a : Fin 32) (m : Fin 8) (c : Bool) : Statement (.vldSeg d a m c) := by
  intro _ h; cases h
  have := d.isLt; have := a.isLt; have := m.isLt; have := flagBit_le c 128
  omega
theorem vldC (d : Fin 32) (a : Fin 32) (m : Fin 8) (c : Bool) (p : Bool) : Statement (.vldC d a m c p) := by
  intro _ h; cases h
  have := d.isLt; have := a.isLt; have := m.isLt; have := flagBit_le c 128; have := flagBit_le p 64
  omega
theorem vldCs (d : Fin 32) (a : Fin 32) (s : Fin 32) (m : Fin 8) (c : Bool) (p : Bool) : Statement (.vldCs d a s m c p) := by
  intro _ h; cases h
  have := d.isLt; have := a.isLt; have := s.isLt; have := m.isLt; have := flagBit_le c 128; have := flagBit_le p 64
  omega
theorem vldCx (d : Fin 32) (a : Fin 32) (i : Fin 32) (m : Fin 8) (c : Bool) (p : Bool) (e : Fin 8) : Statement (.vldCx d a i m c p e) := by
  intro _ h; cases h
  have := d.isLt; have := a.isLt; have := i.isLt; have := m.isLt; have := e.isLt; have := flagBit_le c 128; have := flagBit_le p 64
  omega
theorem vst (v : Fin 32) (a : Fin 32) (m : Fin 8) (c : Bool) (p : Bool) : Statement (.vst v a m c p) := by
  intro _ h; cases h
  have := v.isLt; have := a.isLt; have := m.isLt; have := flagBit_le c 128; have := flagBit_le p 64
  omega
theorem vstS (v : Fin 32) (a : Fin 32) (s : Fin 32) (m : Fin 8) (c : Bool) (p : Bool) : Statement (.vstS v a s m c p) := by
  intro _ h; cases h
  have := v.isLt; have := a.isLt; have := s.isLt; have := m.isLt; have := flagBit_le c 128; have := flagBit_le p 64
  omega
theorem vstX (v : Fin 32) (a : Fin 32) (i : Fin 32) (m : Fin 8) (c : Bool) (p : Bool) (e : Fin 8) : Statement (.vstX v a i m c p e) := by
  intro _ h; cases h
  have := v.isLt; have := a.isLt; have := i.isLt; have := m.isLt; have := e.isLt; have := flagBit_le c 128; have := flagBit_le p 64
  omega
theorem vstU (v : Fin 32) (a : Fin 32) (m : Fin 8) (c : Bool) (p : Bool) : Statement (.vstU v a m c p) := by
  intro _ h; cases h
  have := v.isLt; have := a.isLt; have := m.isLt; have := flagBit_le c 128; have := flagBit_le p 64
  omega
theorem vstSeg (v : Fin 32) (a : Fin 32) (m : Fin 8) (c : Bool) : Statement (.vstSeg v a m c) := by
  intro _ h; cases h
  have := v.isLt; have := a.isLt; have := m.isLt; have := flagBit_le c 128
  omega
theorem vstSu (v : Fin 32) (a : Fin 32) (s : Fin 32) (m : Fin 8) (c : Bool) (p : Bool) : Statement (.vstSu v a s m c p) := by
  intro _ h; cases h
  have := v.isLt; have := a.isLt; have := s.isLt; have := m.isLt; have := flagBit_le c 128; have := flagBit_le p 64
  omega
theorem vstXu (v : Fin 32) (a : Fin 32) (i : Fin 32) (m : Fin 8) (c : Bool) (p : Bool) (e : Fin 8) : Statement (.vstXu v a i m c p e) := by
  intro _ h; cases h
  have := v.isLt; have := a.isLt; have := i.isLt; have := m.isLt; have := e.isLt; have := flagBit_le c 128; have := flagBit_le p 64
  omega
theorem vamoSwap (v : Fin 32) (s : Fin 8) (o : Fin 4) (a : Fin 32) (m : Fin 8) (c : Bool) : Statement (.vamoSwap v s o a m c) := by
  intro _ h; cases h
  have := v.isLt; have := s.isLt; have := o.isLt; have := a.isLt; have := m.isLt; have := flagBit_le c 128
  omega
theorem vamoAdd (v : Fin 32) (s : Fin 8) (o : Fin 4) (a : Fin 32) (m : Fin 8) (c : Bool) : Statement (.vamoAdd v s o a m c) := by
  intro _ h; cases h
  have := v.isLt; have := s.isLt; have := o.isLt; have := a.isLt; have := m.isLt; have := flagBit_le c 128
  omega
theorem vamoAnd (v : Fin 32) (s : Fin 8) (o : Fin 4) (a : Fin 32) (m : Fin 8) (c : Bool) : Statement (.vamoAnd v s o a m c) := by
  intro _ h; cases h
  have := v.isLt; have := s.isLt; have := o.isLt; have := a.isLt; have := m.isLt; have := flagBit_le c 128
  omega
theorem vamoOr (v : Fin 32) (s : Fin 8) (o : Fin 4) (a : Fin 32) (m : Fin 8) (c : Bool) : Statement (.vamoOr v s o a m c) := by
  intro _ h; cases h
  have := v.isLt; have := s.isLt; have := o.isLt; have := a.isLt; have := m.isLt; have := flagBit_le c 128
  omega
theorem vamoXor (v : Fin 32) (s : Fin 8) (o : Fin 4) (a : Fin 32) (m : Fin 8) (c : Bool) : Statement (.vamoXor v s o a m c) := by
  intro _ h; cases h
  have := v.isLt; have := s.isLt; have := o.isLt; have := a.isLt; have := m.isLt; have := flagBit_le c 128
  omega
theorem vamoMin (v : Fin 32) (s : Fin 8) (o : Fin 4) (a : Fin 32) (m : Fin 8) (c : Bool) : Statement (.vamoMin v s o a m c) := by
  intro _ h; cases h
  have := v.isLt; have := s.isLt; have := o.isLt; have := a.isLt; have := m.isLt; have := flagBit_le c 128
  omega
theorem vamoMax (v : Fin 32) (s : Fin 8) (o : Fin 4) (a : Fin 32) (m : Fin 8) (c : Bool) : Statement (.vamoMax v s o a m c) := by
  intro _ h; cases h
  have := v.isLt; have := s.isLt; have := o.isLt; have := a.isLt; have := m.isLt; have := flagBit_le c 128
  omega
theorem samo (v : Fin 32) (a : Fin 32) (m : Fin 8) (c : Bool) : Statement (.samo v a m c) := by
  intro _ h; cases h
  have := v.isLt; have := a.isLt; have := m.isLt; have := flagBit_le c 128
  omega
theorem samoO (v : Fin 32) (a : Fin 32) (m : Fin 8) (c : Bool) : Statement (.samoO v a m c) := by
  intro _ h; cases h
  have := v.isLt; have := a.isLt; have := m.isLt; have := flagBit_le c 128
  omega
theorem sbindM (d : Fin 32) (a : Fin 32) : Statement (.sbindM d a) := by
  intro _ h; cases h
  have := d.isLt; have := a.isLt
  omega
theorem sbindQR (d : Fin 32) (q : Fin 8) : Statement (.sbindQR d q) := by
  intro _ h; cases h
  have := d.isLt; have := q.isLt
  omega
theorem sbindQW (d : Fin 32) (q : Fin 8) : Statement (.sbindQW d q) := by
  intro _ h; cases h
  have := d.isLt; have := q.isLt
  omega
theorem sunbind (d : Fin 32) : Statement (.sunbind d) := by
  intro _ h; cases h
  have := d.isLt
  omega
theorem bse (d : Fin 32) (o : Fin 8192) : Statement (.bse d o) := by
  intro _ h; cases h
  have := d.isLt; have := o.isLt
  omega
theorem fldv (d : Fin 32) (t : Fin 32) (u : Fin 8) (m : Fin 8) : Statement (.fldv d t u m) := by
  intro _ h; cases h
  have := d.isLt; have := t.isLt; have := u.isLt; have := m.isLt
  omega
theorem fldvX (d : Fin 32) (t : Fin 32) (u : Fin 8) (m : Fin 8) : Statement (.fldvX d t u m) := by
  intro _ h; cases h
  have := d.isLt; have := t.isLt; have := u.isLt; have := m.isLt
  omega
theorem vffill (v : Fin 32) (a : Fin 32) (m : Fin 8) : Statement (.vffill v a m) := by
  intro _ h; cases h
  have := v.isLt; have := a.isLt; have := m.isLt
  omega
theorem cpy (a : Fin 32) (m : Fin 8) (c : Fin 32) (t : Fin 8) (f : Bool) : Statement (.cpy a m c t f) := by
  intro _ h; cases h
  have := a.isLt; have := m.isLt; have := c.isLt; have := t.isLt; have := flagBit_le f 128
  omega
theorem cpyG (a : Fin 32) (v : Fin 32) (m : Fin 8) (t : Fin 8) (f : Bool) : Statement (.cpyG a v m t f) := by
  intro _ h; cases h
  have := a.isLt; have := v.isLt; have := m.isLt; have := t.isLt; have := flagBit_le f 128
  omega
theorem bclose (a : Fin 32) (t : Fin 8) : Statement (.bclose a t) := by
  intro _ h; cases h
  have := a.isLt; have := t.isLt
  omega
theorem bwait (a : Fin 32) (t : Fin 8) : Statement (.bwait a t) := by
  intro _ h; cases h
  have := a.isLt; have := t.isLt
  omega
theorem bwaitm (a : Fin 32) : Statement (.bwaitm a) := by
  intro _ h; cases h
  have := a.isLt
  omega
theorem rdecl (a : Fin 32) (c : Fin 32) : Statement (.rdecl a c) := by
  intro _ h; cases h
  have := a.isLt; have := c.isLt
  omega
theorem rcloseTeam : Statement .rcloseTeam := by
  intro _ h; cases h
  decide
theorem rcloseClu : Statement .rcloseClu := by
  intro _ h; cases h
  decide
theorem rchk (a : Fin 32) (p : Bool) (c : Fin 32) : Statement (.rchk a p c) := by
  intro _ h; cases h
  have := a.isLt; have := c.isLt; have := flagBit_le p 65536
  omega
theorem mma (a : Fin 32) (b : Fin 32) (y : Bool) (x : Bool) (z : Fin 8) (t : Fin 8) (f : Bool) : Statement (.mma a b y x z t f) := by
  intro _ h; cases h
  have := a.isLt; have := b.isLt; have := z.isLt; have := t.isLt; have := flagBit_le y 32768; have := flagBit_le x 16384; have := flagBit_le f 128
  omega
theorem mmas (a : Fin 32) (b : Fin 32) (z : Fin 8) (t : Fin 8) (f : Bool) : Statement (.mmas a b z t f) := by
  intro _ h; cases h
  have := a.isLt; have := b.isLt; have := z.isLt; have := t.isLt; have := flagBit_le f 128
  omega
theorem mjoin (a : Fin 32) (b : Fin 32) (z : Fin 8) (t : Fin 8) (f : Bool) : Statement (.mjoin a b z t f) := by
  intro _ h; cases h
  have := a.isLt; have := b.isLt; have := z.isLt; have := t.isLt; have := flagBit_le f 128
  omega
theorem mfence : Statement .mfence := by
  intro _ h; cases h
  decide
theorem mzero (z : Fin 8) : Statement (.mzero z) := by
  intro _ h; cases h
  have := z.isLt
  omega
theorem mput (s : Fin 32) (p : Fin 32) (z : Fin 8) : Statement (.mput s p z) := by
  intro _ h; cases h
  have := s.isLt; have := p.isLt; have := z.isLt
  omega
theorem mext (s : Fin 32) (p : Fin 32) (z : Fin 8) : Statement (.mext s p z) := by
  intro _ h; cases h
  have := s.isLt; have := p.isLt; have := z.isLt
  omega
theorem zset (s : Fin 32) (z : Fin 8) : Statement (.zset s z) := by
  intro _ h; cases h
  have := s.isLt; have := z.isLt
  omega
theorem zget (s : Fin 32) (z : Fin 8) : Statement (.zget s z) := by
  intro _ h; cases h
  have := s.isLt; have := z.isLt
  omega
theorem sld (q : Fin 8) (a : Fin 32) : Statement (.sld q a) := by
  intro _ h; cases h
  have := q.isLt; have := a.isLt
  omega
theorem sst (q : Fin 8) (a : Fin 32) : Statement (.sst q a) := by
  intro _ h; cases h
  have := q.isLt; have := a.isLt
  omega
theorem sadd (d : Fin 8) (a : Fin 8) (b : Fin 8) : Statement (.sadd d a b) := by
  intro _ h; cases h
  have := d.isLt; have := a.isLt; have := b.isLt
  omega
theorem smul (d : Fin 8) (a : Fin 8) (b : Fin 8) : Statement (.smul d a b) := by
  intro _ h; cases h
  have := d.isLt; have := a.isLt; have := b.isLt
  omega
theorem sdot (d : Fin 32) (a : Fin 8) (b : Fin 8) : Statement (.sdot d a b) := by
  intro _ h; cases h
  have := d.isLt; have := a.isLt; have := b.isLt
  omega
theorem sfromv (d : Fin 8) (s : Fin 32) (k : Fin 8) : Statement (.sfromv d s k) := by
  intro _ h; cases h
  have := d.isLt; have := s.isLt; have := k.isLt
  omega
theorem stov (d : Fin 32) (s : Fin 8) (k : Fin 8) : Statement (.stov d s k) := by
  intro _ h; cases h
  have := d.isLt; have := s.isLt; have := k.isLt
  omega
theorem slen (d : Fin 32) (s : Fin 8) : Statement (.slen d s) := by
  intro _ h; cases h
  have := d.isLt; have := s.isLt
  omega
theorem hint (h : Fin 67108864) : Statement (.hint h) := by
  intro _ h; cases h
  have := h.isLt
  omega
theorem illegalInstruction : Statement .illegalInstruction := fun _ h => nomatch h
theorem msixUnmask : Statement .msixUnmask := fun _ h => nomatch h
theorem l2Read : Statement .l2Read := fun _ h => nomatch h
theorem l2Write : Statement .l2Write := fun _ h => nomatch h
theorem l2Atomic : Statement .l2Atomic := fun _ h => nomatch h
theorem hbmFillReturn : Statement .hbmFillReturn := fun _ h => nomatch h
theorem millAddition : Statement .millAddition := fun _ h => nomatch h
theorem consumingReadReserve : Statement .consumingReadReserve := fun _ h => nomatch h
theorem consumingReadCommit : Statement .consumingReadCommit := fun _ h => nomatch h
theorem rationDeclaration : Statement .rationDeclaration := fun _ h => nomatch h
theorem lineSpentEvent : Statement .lineSpentEvent := fun _ h => nomatch h
theorem scopeCloseScan : Statement .scopeCloseScan := fun _ h => nomatch h
theorem scopeCloseAck : Statement .scopeCloseAck := fun _ h => nomatch h
theorem futureLoadArrival : Statement .futureLoadArrival := fun _ h => nomatch h
theorem futureFillArrival : Statement .futureFillArrival := fun _ h => nomatch h
theorem poundWakeup : Statement .poundWakeup := fun _ h => nomatch h
theorem deferredAnswer : Statement .deferredAnswer := fun _ h => nomatch h
theorem futureNack : Statement .futureNack := fun _ h => nomatch h
theorem nackReplay : Statement .nackReplay := fun _ h => nomatch h
theorem memcfgWrite : Statement .memcfgWrite := fun _ h => nomatch h
theorem krovinoRequestArrival : Statement .krovinoRequestArrival := fun _ h => nomatch h
theorem pageWalkRead : Statement .pageWalkRead := fun _ h => nomatch h
theorem xinvPage : Statement .xinvPage := fun _ h => nomatch h
theorem xinvAsid : Statement .xinvAsid := fun _ h => nomatch h
theorem xinvAll : Statement .xinvAll := fun _ h => nomatch h
theorem xinvIgnored : Statement .xinvIgnored := fun _ h => nomatch h
theorem xinvComplete : Statement .xinvComplete := fun _ h => nomatch h
theorem scratchpadRemoteAccess : Statement .scratchpadRemoteAccess := fun _ h => nomatch h
theorem carterAccept : Statement .carterAccept := fun _ h => nomatch h
theorem carterTransferBegin : Statement .carterTransferBegin := fun _ h => nomatch h
theorem carterUnit : Statement .carterUnit := fun _ h => nomatch h
theorem carterComplete : Statement .carterComplete := fun _ h => nomatch h
theorem seedWrite : Statement .seedWrite := fun _ h => nomatch h
theorem secroleWrite : Statement .secroleWrite := fun _ h => nomatch h
theorem asidWrite : Statement .asidWrite := fun _ h => nomatch h
theorem bseqWrite : Statement .bseqWrite := fun _ h => nomatch h
theorem sysregDeferredWrite : Statement .sysregDeferredWrite := fun _ h => nomatch h
theorem stripQueueAppend : Statement .stripQueueAppend := fun _ h => nomatch h
theorem stripQueueConsume : Statement .stripQueueConsume := fun _ h => nomatch h
theorem streamReadAhead : Statement .streamReadAhead := fun _ h => nomatch h
theorem fldvTimeout : Statement .fldvTimeout := fun _ h => nomatch h
theorem aibWordLockstep : Statement .aibWordLockstep := fun _ h => nomatch h
theorem vpIssue : Statement .vpIssue := fun _ h => nomatch h
theorem convoyDispatch : Statement .convoyDispatch := fun _ h => nomatch h
theorem accRegionClaim : Statement .accRegionClaim := fun _ h => nomatch h
theorem matrixAccept : Statement .matrixAccept := fun _ h => nomatch h
theorem matrixComplete : Statement .matrixComplete := fun _ h => nomatch h
theorem mjoinForm : Statement .mjoinForm := fun _ h => nomatch h
theorem barrierArrival : Statement .barrierArrival := fun _ h => nomatch h
theorem barrierReturn : Statement .barrierReturn := fun _ h => nomatch h
theorem crierPostArrival : Statement .crierPostArrival := fun _ h => nomatch h
theorem safePointSave : Statement .safePointSave := fun _ h => nomatch h
theorem fullSaveDeadline : Statement .fullSaveDeadline := fun _ h => nomatch h
theorem saveFrameWrite : Statement .saveFrameWrite := fun _ h => nomatch h
theorem restore : Statement .restore := fun _ h => nomatch h
theorem hqEnable : Statement .hqEnable := fun _ h => nomatch h
theorem hqTailSnoop : Statement .hqTailSnoop := fun _ h => nomatch h
theorem hqTailReread : Statement .hqTailReread := fun _ h => nomatch h
theorem startRecordAccept : Statement .startRecordAccept := fun _ h => nomatch h
theorem placeNext : Statement .placeNext := fun _ h => nomatch h
theorem reservation : Statement .reservation := fun _ h => nomatch h
theorem groupStart : Statement .groupStart := fun _ h => nomatch h
theorem spawnGroupStart : Statement .spawnGroupStart := fun _ h => nomatch h
theorem launchComplete : Statement .launchComplete := fun _ h => nomatch h
theorem epochRefill : Statement .epochRefill := fun _ h => nomatch h
theorem powerLeaveGrant : Statement .powerLeaveGrant := fun _ h => nomatch h
theorem leaseExpire : Statement .leaseExpire := fun _ h => nomatch h
theorem watchdogFire : Statement .watchdogFire := fun _ h => nomatch h
theorem clerkRun : Statement .clerkRun := fun _ h => nomatch h
theorem clerkHalt : Statement .clerkHalt := fun _ h => nomatch h
theorem clerkLaunch : Statement .clerkLaunch := fun _ h => nomatch h
theorem clerkLaunchi : Statement .clerkLaunchi := fun _ h => nomatch h
theorem clerkWaitge : Statement .clerkWaitge := fun _ h => nomatch h
theorem clerkWaitgePoll : Statement .clerkWaitgePoll := fun _ h => nomatch h
theorem clerkStore : Statement .clerkStore := fun _ h => nomatch h
theorem clerkAdd : Statement .clerkAdd := fun _ h => nomatch h
theorem clerkSetc : Statement .clerkSetc := fun _ h => nomatch h
theorem clerkLoop : Statement .clerkLoop := fun _ h => nomatch h
theorem clerkJge : Statement .clerkJge := fun _ h => nomatch h
theorem clerkJlt : Statement .clerkJlt := fun _ h => nomatch h
theorem clerkIrq : Statement .clerkIrq := fun _ h => nomatch h
theorem clerkJump : Statement .clerkJump := fun _ h => nomatch h
theorem rqEnable : Statement .rqEnable := fun _ h => nomatch h
theorem releaseReadyTaken : Statement .releaseReadyTaken := fun _ h => nomatch h
theorem releaseVerdictTaken : Statement .releaseVerdictTaken := fun _ h => nomatch h
theorem releaseItemDeliver : Statement .releaseItemDeliver := fun _ h => nomatch h
theorem ctxHold : Statement .ctxHold := fun _ h => nomatch h
theorem ctxRelease : Statement .ctxRelease := fun _ h => nomatch h
theorem ctxKill : Statement .ctxKill := fun _ h => nomatch h
theorem ctxIgnored : Statement .ctxIgnored := fun _ h => nomatch h
theorem ctxCommandComplete : Statement .ctxCommandComplete := fun _ h => nomatch h
theorem unitRetire : Statement .unitRetire := fun _ h => nomatch h
theorem maintWindowOpen : Statement .maintWindowOpen := fun _ h => nomatch h
theorem selfTestComplete : Statement .selfTestComplete := fun _ h => nomatch h
theorem errorRecovery : Statement .errorRecovery := fun _ h => nomatch h
theorem sectionArriveStartSet : Statement .sectionArriveStartSet := fun _ h => nomatch h
theorem sectionFirstUse : Statement .sectionFirstUse := fun _ h => nomatch h
theorem hostSharedRead : Statement .hostSharedRead := fun _ h => nomatch h
theorem hostExclusiveRead : Statement .hostExclusiveRead := fun _ h => nomatch h
theorem hostWrite : Statement .hostWrite := fun _ h => nomatch h
theorem backInvalidateResponse : Statement .backInvalidateResponse := fun _ h => nomatch h
theorem hostSnpInv : Statement .hostSnpInv := fun _ h => nomatch h
theorem hostSnpData : Statement .hostSnpData := fun _ h => nomatch h
theorem hostWindowFillReturn : Statement .hostWindowFillReturn := fun _ h => nomatch h
theorem hostFutureFill : Statement .hostFutureFill := fun _ h => nomatch h
theorem flitReceive : Statement .flitReceive := fun _ h => nomatch h
theorem flitReplay : Statement .flitReplay := fun _ h => nomatch h
theorem powerGood : Statement .powerGood := fun _ h => nomatch h
theorem bootStageComplete : Statement .bootStageComplete := fun _ h => nomatch h
theorem recoveryGo : Statement .recoveryGo := fun _ h => nomatch h
theorem attestRequest : Statement .attestRequest := fun _ h => nomatch h
theorem thermalSample : Statement .thermalSample := fun _ h => nomatch h
theorem powerCapSet : Statement .powerCapSet := fun _ h => nomatch h
theorem registerWrite : Statement .registerWrite := fun _ h => nomatch h
theorem patrolScrub : Statement .patrolScrub := fun _ h => nomatch h
theorem retrainedOnSpare : Statement .retrainedOnSpare := fun _ h => nomatch h

end Sys2Proof.Laws.EncodeFits
end

