-- ==== Sys2Proof/Tests/Slice0.lean ====
section
/-!
SUPPORT. The model's own tests: ill-formed operands refused, words of the encoding tables decoded, single steps on small
states, and for every statement states and operands that meet its hypotheses.
-/

namespace Sys2Proof.Tests

open Sys2Proof Sys2Proof.Machine Sys2Proof.Claims

/-! ### Small states -/

/-- A group at steward level, at address 0x1000 of an extent of a page, with a handler. -/
def run0 : State :=
  let s := State.reset
  { s with g := { fetchGroup s with tr := { s.g.tr with lev := true, tvec := 0x1100 } } }

/-- The same at task level, with x1 = 0x1008, x2 = 5 and x3 poisoned. -/
def run1 : State :=
  { run0 with g := { run0.g with
      tr := { run0.g.tr with lev := false }
      x := (run0.g.x.set 1 0x1008).set 2 5
      xPoison := [3] } }

/-- Page 0x1000 of the group's space is at address 0x5000 of the device, with every permission. -/
def map1 (s : State) : State :=
  { s with xl := { s.xl with ctlb := [(s.g.pl.core * 256 + coreSet s.g.asid 0x1000 12, [⟨s.g.asid, 12, 1, 0x5000, 7, false⟩])] } }

/-- run1 with its page mapped and bytes at 0x5008. -/
def mem1 : State := { map1 run1 with pm := { run1.pm with cells := [(0x5008, 0x81), (0x5009, 0x02)] } }

/-- The group owns every section of its core; VL and VLMAX are 4. -/
def vec1 : State :=
  { mem1 with
    cores := [(0, { Core.reset with lanepart := Vector.replicate 8 (some 0) })]
    g := { mem1.g with vc := { mem1.g.vc with vl := 4, vlmax := 64 } } }

/-- A launch of id 0 with one section of code and one safe point. -/
def launch0 : Launch where
  id := 0
  queue := 0
  number := 0
  words := Vector.replicate 16 0
  image := ⟨false, 0x1000, 4096, [0], 0x1100, 0x1800, 1, [(false, 0, 0, 64, 128, 0)]⟩
  placed := 1
  started := 1
  exited := 0
  haltCause := none
  tasks := []
  spawned := 0
  wdlimit := 0
  wdcount := 0
  wdseen := 0
  since := 0
  errq := 0
  secs := [(0, .good)]
  reserved := none
  held := false
  killed := false

/-- 64-bit words at an address, as the bytes that memory lists: pairs of an index and a value, rising. -/
def wordsAt (pa : Nat) (ws : List (Nat × Nat)) : List Host.Cell :=
  ws.flatMap (fun w => (List.range 8).filterMap (fun i =>
    let b : Byte := BitVec.ofNat 8 (w.2 / 256 ^ i)
    if b = 0 then none else some (pa + 8 * w.1 + i, b)))

/-- vec1 with memory holding the words at 0x5000. -/
def vecM (ws : List (Nat × Nat)) : State := { vec1 with pm := { vec1.pm with cells := wordsAt 0x5000 ws } }

/-- A register of tag `t` holding the elements, no longer than one row a lane. -/
def reg (t : Nat) (es : List Nat) : VReg := ⟨t, 0, false, false, 0, es.zipIdx.map (fun e => (e.2, e.1)), [], false⟩

/-- The group's register `r` is `v`. -/
def withV (s : State) (r : Fin 32) (v : VReg) : State := { s with g := { s.g with v := s.g.v.set r v } }

/-- The group's register x `r` is `v`. -/
def withX (s : State) (r : Fin 32) (v : Word) : State := { s with g := { s.g with x := s.g.x.set r v } }

/-- A VP of the group executes a body of its own. -/
def vpAway (s : State) : State := { s with g := { s.g with vps := [⟨0, .indep 0x1000 false [.vsync] 0, none, 0⟩] } }

/-- A team of the current group's core and the cluster that it belongs to. -/
def team1 : Team := ⟨0, 0, 1, 0, 0, 0, 8, 0, [0, 1], Vector.replicate 16 ⟨2, 0, 0, false, []⟩, false⟩

def cluster1 : Cluster := ⟨0, 0, 0, 1, 1, Vector.replicate 8 ⟨1, 0, 0, false, []⟩⟩

/-- run1 with its team. -/
def team1S : State := { run1 with teams := [team1], clusters := [cluster1] }

/-! ### Hypotheses met: scalar forms -/

theorem witness_ScalarResults :
    (∃ f, xForm (.sub 1 2 2) = some f ∧ poisonedX run1 f.srcs = none) ∧ poisonedX run1 [1] = none :=
  ⟨⟨_, rfl, by decide⟩, by decide⟩

theorem witness_BranchesAndJumps :
    (∃ f, branchForm (.bne 1 1 4) = some f ∧ poisonedX run1 [f.a, f.b] = none ∧ ¬ f.taken (getX run1 f.a) (getX run1 f.b)) ∧
    (∃ f, branchForm (.beq 0 0 1023) = some f ∧ poisonedX run1 [f.a, f.b] = none ∧ f.taken (getX run1 f.a) (getX run1 f.b) ∧
      f.target run1 = 0x1FFC ∧ inExtent run1.g (f.target run1).toNat = true) ∧
    inExtent run1.g (jlTarget run1 0).toNat = true ∧
    (poisonedX run1 [1] = none ∧ (getX run1 1 + imm16 4) % 4 = 0 ∧ inExtent run1.g (getX run1 1 + imm16 4).toNat = true) ∧
    ((getX run1 1 + imm16 2) % 4 ≠ 0 ∧ deliverable run1 run1.g.pc) :=
  ⟨⟨_, rfl, by decide, by decide⟩, ⟨_, rfl, by decide, by decide, by decide, by decide⟩, by decide,
    ⟨by decide, by decide, by decide⟩, by decide, by unfold deliverable; decide⟩

theorem witness_ScalarTraps :
    deliverable run1 run1.g.pc ∧
    (∃ f, branchForm (.beq 0 0 1024) = some f ∧ poisonedX run1 [f.a, f.b] = none ∧ f.taken (getX run1 f.a) (getX run1 f.b) ∧
      inExtent run1.g (f.target run1).toNat = false) ∧
    inExtent run1.g (jlTarget run1 0x3FFFFFF).toNat = false ∧
    (poisonedX run1 [1] = none ∧ (getX run1 1 + imm16 0xFFF4) % 4 = 0 ∧ inExtent run1.g (getX run1 1 + imm16 0xFFF4).toNat = false) ∧
    (∃ f, xForm (.add 1 2 3) = some f ∧ poisonedX run1 f.srcs = some 3) :=
  ⟨by unfold deliverable; decide, ⟨_, rfl, by decide, by decide, by decide⟩, by decide, by decide, ⟨_, rfl, by decide⟩⟩

theorem witness_ScalarMemory :
    (∃ f d ext s1, loadForm (.ldD 1 1 0) = some (f, d, ext) ∧ Reaches mem1 f kRead 0x5008 s1 ∧
      s1.pm.linePoison (lineOf 0x5008) = false) ∧
    (∃ f r s1, storeForm (.stW 2 1 8188) = some (f, r) ∧ Reaches mem1 f kWrite 0x5004 s1 ∧ releaseWaits mem1 false = false) ∧
    (∃ f d op b c s1, amoForm (.amoCas 1 1 2 0 0 true) = some (f, d, op, b, c) ∧ Reaches mem1 f kReadWrite 0x5008 s1 ∧
      s1.pm.linePoison (lineOf 0x5008) = false ∧ releaseWaits mem1 (amoReleases (.amoCas 1 1 2 0 0 true)) = false) ∧
    (∀ r ∈ mem1.pm.stale, (whoG mem1).misses r = true → r.meets 0x5008 8 = false) ∧
    (amoReleases (.amoSwap 1 1 2 0 2 true) = true ∧ amoAcquires (.amoSwap 1 1 2 0 3 true) = true ∧
      amoAcquires (.amoSwap 1 1 2 0 2 true) = false) :=
  ⟨⟨_, _, _, _, rfl, ⟨by decide, by decide, by decide, rfl, by decide, by decide, by unfold Undisturbed; decide⟩, by decide⟩,
   ⟨_, _, _, rfl, ⟨by decide, by decide, by decide, rfl, by decide, by decide, by unfold Undisturbed; decide⟩, by decide⟩,
   ⟨_, _, _, _, _, _, rfl, ⟨by decide, by decide, by decide, rfl, by decide, by decide, by unfold Undisturbed; decide⟩, by decide, by decide⟩, by decide, by decide⟩

theorem witness_AccessTraps :
    (∃ f, memForm (.ldD 1 1 1) = some f ∧ poisonedX mem1 f.srcs = none ∧ deliverable mem1 mem1.g.pc ∧ (f.ea mem1).toNat % f.n ≠ 0) ∧
    (∃ f s1 x, memForm (.stD 1 0 0) = some f ∧ poisonedX mem1 f.srcs = none ∧ (f.ea mem1).toNat % f.n = 0 ∧
      translate mem1 (whoG mem1) kWrite (f.ea mem1).toNat = (.error x, s1)) :=
  ⟨⟨_, rfl, by decide, by unfold deliverable; decide, by decide⟩, ⟨_, _, _, rfl, by decide, by decide, rfl⟩⟩

theorem witness_SystemRegisters :
    (sysReadable run1.g 0x070 = true ∧ readWaits run1 0x070 = false) ∧
    (deliverable run1 run1.g.pc ∧ sysReadable run1.g 0x050 = false ∧ sysWritable run1.g 0x05B = false ∧ run1.g.tr.lev = false) ∧
    (sysWritable run0.g 0x067 = true ∧ poisonedX run0 [1] = none ∧ writeWaits run0 0x067 = false) ∧
    (∃ l, (findLaunch { run0 with launches := [l] } run0.g.launch).isSome = true ∧ sysWritable run0.g 0x080 = true ∧
      writeWaits { run0 with launches := [l] } 0x080 = false) ∧
    NoneCompletes 0x067 1 ∧ (run0.g.portable = false ∧ sysWritable run0.g 0x012 = true) :=
  ⟨by decide, ⟨by unfold deliverable; decide, by decide, by decide, by decide⟩, by decide,
   ⟨launch0, by decide, by decide, by decide⟩, by unfold NoneCompletes; decide, by decide⟩

theorem witness_TrapsAndReturn :
    deliverable run1 run1.g.pc ∧ State.reset.g.tr.handler = 0 ∧
    (∃ s : State, s.g.tr.lev = true ∧ s.g.pc = s.g.tr.handler ∧ s.g.tr.handler ≠ 0) ∧
    (∃ s : State, s.g.tr.lev = true ∧ s.g.tr.plev = false ∧ inExtent s.g s.g.tr.tepc.toNat = true) ∧
    (run0.g.tr.lev = true ∧ run0.g.tr.plev = false ∧ inExtent run0.g run0.g.tr.tepc.toNat = false ∧ deliverable run0 run0.g.pc) ∧
    run1.g.tr.lev = false :=
  ⟨by unfold deliverable; decide, by decide, ⟨{ run0 with g := { run0.g with pc := 0x1100 } }, by decide⟩,
   ⟨{ run0 with g := { run0.g with tr := { run0.g.tr with tepc := 0x1FFC } } }, by decide⟩,
   ⟨by decide, by decide, by decide, by unfold deliverable; decide⟩, by decide⟩

theorem witness_QuietForms :
    (run1.g.vps = [] ∧ run1.g.fldv = none ∧ run1.g.vq = []) ∧ (vpAway run1).g.vps ≠ [] ∧
    (0 : Fin 131072).val < (sptOf { run1 with launches := [launch0] }).2 ∧
    (poisonedX run1 [2] = none ∧ (getX run1 2).toNat < 2 ^ 34) :=
  ⟨by decide, by decide, by decide, by decide⟩

/-! ### Hypotheses met: futures, barriers, channels -/

theorem witness_Futures :
    (∃ s1, futForm (.fldE 4 1) = some (4, 1, true, false) ∧ poisonedX mem1 [1] = none ∧ futOf mem1 (self mem1) = none ∧
      FutureAt mem1 (getX mem1 1) kReadWrite 0x5008 s1 ∧ mem1.pm.isFull (0x5008 / 8) = false) ∧
    (∃ s s1, futForm (.fldx 4 1) = some (4, 1, false, true) ∧ poisonedX s [1] = none ∧ futOf s (self s) = none ∧
      FutureAt s (getX s 1) kRead 0x5008 s1 ∧ s.pm.isFull (0x5008 / 8) = true ∧ s1.pm.linePoison (lineOf 0x5008) = false) ∧
    (∃ s1, poisonedX mem1 [1, 2] = none ∧ FutureAt mem1 (getX mem1 1) kWrite 0x5008 s1 ∧ vecAccesses mem1 = false) ∧
    (∃ s1, FutureAt (vpAway mem1) (getX (vpAway mem1) 1) kWrite 0x5008 s1 ∧ vecAccesses (vpAway mem1) = true) :=
  ⟨⟨_, rfl, by decide, by decide, ⟨by decide, rfl, by decide, by unfold Undisturbed; decide, by decide⟩, by decide⟩,
   ⟨{ mem1 with pm := { mem1.pm with full := [0xA01] } }, _, rfl, by decide, by decide,
     ⟨by decide, rfl, by decide, by unfold Undisturbed; decide, by decide⟩, by decide, by decide⟩,
   ⟨_, by decide, ⟨by decide, rfl, by decide, by unfold Undisturbed; decide, by decide⟩, by decide⟩,
   ⟨_, ⟨by decide, rfl, by decide, by unfold Undisturbed; decide, by decide⟩, by decide⟩⟩

theorem witness_Barriers :
    (poisonedX team1S [2] = none ∧ (getX team1S 2).toNat < 16 ∧ teamOf team1S team1S.g = some team1 ∧ team1S.g.arrived = [] ∧
      vecAccesses team1S = false ∧ (myBar team1S false 5).arr + 1 < (myBar team1S false 5).memb) ∧
    (∃ s t0, poisonedX s [4] = none ∧ getX s 4 = 15 ∧ teamOf s s.g = some t0 ∧ s.g.arrived = [] ∧
      (myBar s false 15).arr + 1 = (myBar s false 15).memb) ∧
    (teamOf team1S team1S.g = some team1 ∧ clusterOf team1S team1 = some cluster1 ∧ (getX team1S 2).toNat < 8 ∧
      (myBar team1S true 5).marks.contains team1S.g.gid = false ∧ (myBar team1S true 5).arr + 1 = (myBar team1S true 5).memb) ∧
    (poisonedX team1S [2, 0] = none ∧ (getX team1S 0).toNat < 2 ∧ team1S.g.waits.cwait = none ∧
      (if (myBar team1S true (getX team1S 2).toNat).p then 1 else 0) = (getX team1S 0).toNat) ∧
    (∃ s t0 c0, teamOf s s.g = some t0 ∧ clusterOf s t0 = some c0 ∧ poisonedX s [4, 5] = none ∧ (getX s 4).toNat = 7 ∧
      (getX s 5).toNat = 1 ∧ s.g.waits.cwait = none ∧ (if (myBar s true (getX s 4).toNat).p then 1 else 0) ≠ (getX s 5).toNat ∧
      (myBar s true 7).marks.contains s.g.gid = false ∧ (myBar s true 7).arr + 1 ≠ (myBar s true 7).memb) :=
  ⟨by decide, ⟨withX { team1S with teams := [{ team1 with bars := Vector.replicate 16 ⟨1, 0, 0, false, []⟩ }] } 4 15, _, by decide, by decide, rfl, by decide⟩,
   by decide, by decide,
   ⟨withX (withX { team1S with clusters := [{ cluster1 with bars := Vector.replicate 8 ⟨2, 0, 0, false, []⟩ }] } 4 7) 5 1, _, _,
     rfl, rfl, by decide, by decide, by decide, by decide, by decide⟩⟩

theorem witness_Membership :
    (queueHeld team1S = false ∧ enginesIdle team1S = true ∧ team1S.g.binds = [] ∧ teamOf team1S team1S.g = some team1 ∧
      ∃ m ∈ team1.members, m ≠ team1S.g.gid) ∧
    (∃ s t0, queueHeld s = false ∧ enginesIdle s = true ∧ s.g.binds = [] ∧ poisonedX s [0] = none ∧ (getX s 0).toNat < 4096 ∧
      s.g.pl.det = true ∧ (getX s 0).toNat / 16 = s.g.pl.core ∧
      s.teams.find? (fun t => t.core == (getX s 0).toNat / 16 && t.num == (getX s 0).toNat % 16 && !t.exited
        && t.asid == s.g.asid && decide (t.members.length < 16)) = some t0 ∧
      s.teams.find? (fun u => u.core == t0.core && u.num == t0.num && !u.exited) = some t0) :=
  ⟨by decide, ⟨{ team1S with g := { team1S.g with pl := { team1S.g.pl with det := true } } }, _, by decide, by decide, by decide, by decide,
    by decide, by decide, by decide, rfl, rfl⟩⟩

theorem witness_Crier :
    ∃ s c, poisonedX s [0, 2] = none ∧ (getX s 0).toNat < 128 ∧
      s.channels.find? (fun c => c.die == (getX s 0).toNat / 16 && c.ch == (getX s 0).toNat % 16 && c.launch == s.g.launch) = some c ∧
      (getX s 2).toNat = c.count.toNat ∧ c.count.toNat < (getX s 1).toNat ∧ s.posts = [(c.die, c.ch, 6)] ∧
      s.channels.filter (fun c' => c'.die == c.die && c'.ch == c.ch) = [c] ∧ s.msg.idx = 0 ∧
      vecAccesses s = false ∧ vecAccesses (vpAway s) = true :=
  ⟨{ run1 with channels := [⟨0, 0, 0, 5⟩], posts := [(0, 0, 6)] }, _, by decide, by decide, rfl, by decide⟩

/-! ### Hypotheses met: batches, copies, bodies -/

/-- A held failure of batch 3 of token 0, whose open batch is 5 and of which 2 are done. -/
def failed0 : State :=
  { run1 with g := { run1.g with tok := run1.g.tok.set 0 ⟨some ⟨4, 0x123, 3⟩, 2, 5, [⟨5, 0x124, 4⟩]⟩, x := run1.g.x.set 2 4 } }

theorem witness_Batches :
    (Closable run1 0 ∧ NothingToLand run1 0) ∧
    (∃ s, ¬ Closable s 0) ∧
    (poisonedX run1 [0] = none ∧ run1.g.windows = [] ∧ run1.g.waits.bwait = none ∧
      diff16 (tokOf run1 0).opn 0 ≠ 0 ∧ diff16 (tokOf run1 0).opn 0 < 32768 ∧ batchDone run1 0 0 = true) ∧
    (∃ s, diff16 (tokOf s 0).opn 4 ≠ 0 ∧ diff16 (tokOf s 0).opn 4 < 32768 ∧ batchDone s 0 4 = false ∧ reports s 0 4 = none) ∧
    (∃ r, poisonedX failed0 [2] = none ∧ failed0.g.windows = [] ∧ (getX failed0 2).toNat % 65536 = 4 ∧
      diff16 (tokOf failed0 0).opn 4 ≠ 0 ∧ diff16 (tokOf failed0 0).opn 4 < 32768 ∧
      batchDone failed0 0 4 = false ∧ reports failed0 0 4 = some r ∧ deliverable failed0 failed0.g.pc ∧ NothingToLand failed0 0) ∧
    (run1.g.waits.bwaitm = none ∧ ∀ j, j < 8 → (getX run1 2).getLsbD j = true →
      batchDone run1 j (((tokOf run1 j).opn + 65535) % 65536) = true) ∧
    (∃ s, s.g.waits.bwaitm = none ∧ (getX s 2).getLsbD 7 = true ∧ batchDone s 7 (((tokOf s 7).opn + 65535) % 65536) = false ∧
      ∀ i, i < 8 → (tokOf s i).fails = []) :=
  ⟨⟨by unfold Closable; decide, by unfold NothingToLand; decide⟩,
   ⟨{ run1 with g := { run1.g with tok := run1.g.tok.set 0 ⟨none, 0, 32767, []⟩ } }, by unfold Closable; decide⟩,
   by decide,
   ⟨{ run1 with g := { run1.g with tok := run1.g.tok.set 0 ⟨none, 2, 5, []⟩ } }, by decide⟩,
   ⟨_, by decide, by decide, by decide, by decide, by decide, by decide, rfl, by unfold deliverable; decide, by unfold NothingToLand; decide⟩,
   by decide,
   ⟨withX { run1 with g := { run1.g with tok := run1.g.tok.set 7 ⟨none, 2, 5, []⟩ } } 2 0x80, by decide⟩⟩

/-- A linear copy of 8 bytes described at 0x1000 of the group's space. -/
def copy1 : State := withX (vecM [(0, 0x1100), (1, 0x1180), (2, 0x1000000000000000), (4, 8)]) 4 0x1000

/-- A gather of 4 elements by the row numbers of v2. -/
def copy2 : State :=
  withX (withV (vecM [(0, 0x1100), (1, 0x1180), (2, 0x2000000000000000 + 0x05 * 2 ^ 44), (4, 0x1000100010004)]) 2 (reg 0x05 [0, 1, 2, 3])) 4 0x1000

theorem copy1_fits : ∃ d, CopyFits copy1 (getX copy1 4) 0 0 0 none false d :=
  ⟨_, by decide, by decide, by decide, by decide,
    ⟨_, _, rfl, by decide, by unfold Undisturbed; decide, by unfold Seen; decide, by decide, by decide, rfl⟩, by decide, by decide, by decide,
    fun _ h => nomatch h⟩

theorem copy2_fits : ∃ d, CopyFits copy2 (getX copy2 4) 0 0 0 (some 2) false d :=
  ⟨_, by decide, by decide, by decide, by decide,
    ⟨_, _, rfl, by decide, by unfold Undisturbed; decide, by unfold Seen; decide, by decide, by decide, rfl⟩, by decide, by decide, by decide,
    by rintro _ ⟨⟩; decide⟩

theorem witness_CopyIssued :
    poisonedX copy1 [4] = none ∧ (∃ d, CopyFits copy1 (getX copy1 4) 0 0 0 none false d) ∧
      ∃ d, CopyFits copy2 (getX copy2 4) 0 0 0 (some 2) false d :=
  ⟨by decide, copy1_fits, copy2_fits⟩

/-- vec1 with i32 elements in v1, i32 in v2, and f32 in v3 and v4. -/
def vec2 : State :=
  withV (withV (withV (withV vec1 1 (reg 0x05 [1, 2, 3, 4])) 2 (reg 0x05 [5, 0xFFFFFFFF, 7, 8])) 3
    (reg 0x0A [0x3F800000, 0x40000000, 0x7FC00000, 0x80000000])) 4 (reg 0x0A [0x3F800000, 0x3F800000, 0x3F800000, 0x3F800000])

theorem vec2_ready : VectorReady vec2 := ⟨by decide, by decide, by decide, by decide⟩

/-- A body of two words at address 0x1000: its header and `vpid v0` twice. -/
def body1 : State := withX (vecM [(0, 0xA8400000 + 2 ^ 32 * 0xA4000005), (1, 0xA4000005)]) 4 0x1000

/-- A lockstep body whose word is `i`, with one more behind it, for VPs 0 and 1. -/
def inBody (i : Instr) : State :=
  { vec2 with g := { vec2.g with
      aib := some ⟨0x1000, false, [i, i], 0, 0⟩
      vps := [⟨0, .lockstep, none, 0⟩, ⟨1, .lockstep, none, 0⟩]
      vlSnap := 4 } }

theorem inBody_at (i : Instr) : BodyAtWord (inBody i) i ⟨0x1000, false, [i, i], 0, 0⟩ :=
  ⟨rfl, rfl, Nat.lt_add_one _, rfl, nofun, rfl, rfl⟩

theorem witness_VsyncAndQueues :
    (Settles run1 ∧ run1.g.vps = []) ∧
    (∃ (s : State) (v : Vp), Settles s ∧ s.g.vps = [v] ∧ v.st = .stopped 0x1000 1 (some (5, 0x2000)) false ∧ deliverable s s.g.pc) ∧
    ¬ Settles (inBody .vsync) ∧
    (poisonedX run1 [1] = none ∧ run1.g.xqTo.length < 4) ∧ poisonedX run1 [3] = some 3 ∧
    (∃ s : State, poisonedX s [1] = none ∧ s.g.xqTo.length = 4) ∧
    (∃ (s : State) (x : XqEntry), s.g.xqFrom = [x] ∧ s.g.xqTo.length = 3) ∧ run1.g.xqFrom = [] :=
  ⟨⟨⟨by decide, by decide, by decide, by decide, nofun⟩, by decide⟩,
   ⟨{ run1 with g := { run1.g with vps := [⟨3, .stopped 0x1000 1 (some (5, 0x2000)) false, none, 0⟩] } }, _,
     ⟨by decide, by decide, by decide, by decide, by rintro v hv; rw [List.mem_singleton.mp hv]; exact ⟨_, _, _, _, rfl⟩⟩, rfl, rfl,
     by unfold deliverable; decide⟩,
   (fun h : Settles _ => nomatch h.1), by decide, by decide,
   ⟨{ run1 with g := { run1.g with xqTo := List.replicate 4 ⟨7, 5, none⟩ } }, by decide⟩,
   ⟨{ run1 with g := { run1.g with xqFrom := [⟨7, 5, none⟩], xqTo := [⟨7, 5, none⟩, ⟨7, 5, none⟩, ⟨7, 5, none⟩] } }, _, rfl, by decide⟩, by decide⟩

theorem witness_VfetchLaunches :
    ∃ xq body s1, poisonedX body1 [4] = none ∧ queueHeld body1 = false ∧ isSplit body1 body1.g = false ∧ body1.g.binds = [] ∧
      body1.granules = [] ∧ Memory.wf body1.pm = true ∧ fetchAib body1 (whoG body1) (getX body1 4).toNat = .ok xq body s1 ∧
      body1.g.spcount + body.length ≤ body1.g.splimit ∧ 0 < body.length :=
  ⟨_, _, _, by decide, by decide, by decide, by decide, by decide, by decide, rfl, by decide, by decide⟩

theorem witness_BodyWords :
    (∃ a, BodyAtWord (inBody (.tfetch 1 0 true)) (.tfetch 1 0 true) a ∧ (inBody (.tfetch 1 0 true)).g.hSnapPoison = [] ∧
      (inBody (.tfetch 1 0 true)).granules = []) ∧
    (∃ s a, s.granules = [] ∧ BodyAtWord s (.tfetch 2 0 false) a ∧ isInt (vregOf s.g 2).tag = true ∧ cw (vregOf s.g 2).tag = 64 ∧
      s.g.vlSnap ≤ capacity s 2 (vregOf s.g 2).tag (vregOf s.g 2).gf) ∧
    (∃ a, BodyAtWord (inBody (.xqsend 1 0)) (.xqsend 1 0) a ∧ (vregOf (inBody (.xqsend 1 0)).g 1).tag ≠ 0 ∧
      isMx (vregOf (inBody (.xqsend 1 0)).g 1).tag = false ∧ (inBody (.xqsend 1 0)).g.vlSnap ≤ capacity (inBody (.xqsend 1 0)) 1 5 0 ∧
      (inBody (.xqsend 1 0)).g.xq = [] ∧ (inBody (.xqsend 1 0)).g.xqFrom = [] ∧ (actors (inBody (.xqsend 1 0)) 0).length ≤ 4) ∧
    (∃ s a x, s.granules = [] ∧ BodyAtWord s (.xqrecv 1 0) a ∧ (vregOf s.g 1).tag = 5 ∧ s.g.vlSnap ≤ capacity s 1 5 0 ∧ actors s 0 = [3] ∧
      s.g.xqTo = [x] ∧ x.tag = 5) ∧
    (run1.g.aib = none ∧ deliverable run1 run1.g.pc) :=
  ⟨⟨_, inBody_at _, by decide, by decide⟩,
   ⟨withV (inBody (.tfetch 2 0 false)) 2 (reg 0x08 [0x1000, 0x1004]), _, by decide, ⟨rfl, rfl, by decide, rfl, by decide, rfl, rfl⟩, by decide, by decide, by decide⟩,
   ⟨_, inBody_at _, by decide, by decide, by decide, by decide, by decide, by decide⟩,
   ⟨{ inBody (.xqrecv 1 0) with g := { (inBody (.xqrecv 1 0)).g with vps := [⟨3, .lockstep, none, 0⟩], xqTo := [⟨7, 5, none⟩] } }, _, _,
     by decide, ⟨rfl, rfl, by decide, rfl, by decide, rfl, rfl⟩, by decide, by decide, by decide, rfl, by decide⟩,
   by decide, by unfold deliverable; decide⟩

/-! ### Hypotheses met: vector words -/

theorem witness_VectorInteger :
    (∃ f, intForm (.vfma 1 1 2 0 false false) = some f ∧ pairTag (vregOf vec2.g f.a).tag (secondTag vec2 f.k f.a f.b) = some 5 ∧
      isInt 5 = true ∧ (vregOf vec2.g f.d).tag = 5 ∧ sourcesFit vec2 f.k f.one f.fused f.a f.b f.d ∧ DestFits vec2 f.d 5 ∧ f.d < 32) ∧
    (∃ f, intForm (.vnot 31 2 0 false) = some f ∧ f.one = true ∧ (vregOf vec2.g f.b).tag = 5 ∧
      sourcesFit vec2 f.k f.one f.fused f.a f.b f.d ∧ DestFits vec2 f.d 5 ∧ f.d < 32) ∧
    (∃ s f, VectorReady s ∧ intForm (.vxor 5 5 5 0 false false) = some f ∧ f.bitOk = true ∧
      pairTag (vregOf s.g f.a).tag (secondTag s f.k f.a f.b) = some tagBit ∧
      sourcesFit s f.k f.one f.fused f.a f.b f.d ∧ DestFits s f.d tagBit) :=
  ⟨⟨_, rfl, by decide, by decide, by decide, by unfold sourcesFit SourceFits scalarClean; decide, ⟨by decide, by decide, by decide, by decide⟩, by decide⟩,
   ⟨_, rfl, rfl, by decide, by unfold sourcesFit SourceFits scalarClean; decide, ⟨by decide, by decide, by decide, by decide⟩, by decide⟩,
   ⟨withV vec2 5 (reg 0x1C [1, 0, 1, 0]), _, ⟨by decide, by decide, by decide, by decide⟩, rfl, rfl, by decide,
     by unfold sourcesFit SourceFits scalarClean; decide, ⟨by decide, by decide, by decide, by decide⟩⟩⟩

theorem witness_VectorFloat :
    (∃ f, floatForm (.vadd 5 3 4 0 false false) = some f ∧ pairTag (vregOf vec2.g f.a).tag (secondTag vec2 f.k f.a f.b) = some 0x0A ∧
      isFloat 0x0A = true ∧ srGoverns vec2.g.vc.fmode 0x0A = false ∧ sourcesFit vec2 f.k f.one f.fused f.a f.b f.d ∧ DestFits vec2 f.d 0x0A) ∧
    (∃ f, floatForm (.vneg 5 3 0 false) = some f ∧ f.one = true ∧ (vregOf vec2.g f.b).tag = 0x0A ∧ DestFits vec2 f.d 0x0A) ∧
    (∃ f, floatForm (.vfms 4 3 2 0 false true) = some f ∧ f.fused = true ∧ (vregOf vec2.g f.d).tag = 0x0A ∧
      pairTag (vregOf vec2.g f.a).tag (secondTag vec2 f.k f.a f.b) = some 0x0A ∧ sourcesFit vec2 f.k f.one f.fused f.a f.b f.d) :=
  ⟨⟨_, rfl, by decide, by decide, by decide, by unfold sourcesFit SourceFits scalarClean; decide, ⟨by decide, by decide, by decide, by decide⟩⟩,
   ⟨_, rfl, rfl, by decide, ⟨by decide, by decide, by decide, by decide⟩⟩,
   ⟨_, rfl, rfl, by decide, by decide, by unfold sourcesFit SourceFits scalarClean; decide⟩⟩

theorem witness_VectorCompare :
    VectorReady vec2 ∧
    (∃ f, cmpForm (.vclt 7 1 2 0 false false) = some f ∧ pairTag (vregOf vec2.g f.a).tag (secondTag vec2 f.k f.a f.b) = some 5 ∧
      sourcesFit vec2 f.k false false f.a f.b f.d ∧ f.d < 8) ∧
    (∃ f, cmpForm (.vcun 1 3 2 0 false true) = some f ∧ pairTag (vregOf vec2.g f.a).tag (secondTag vec2 f.k f.a f.b) = some 0x0A ∧
      sourcesFit vec2 f.k false false f.a f.b f.d) :=
  ⟨vec2_ready, ⟨_, rfl, by decide, by unfold sourcesFit SourceFits scalarClean; decide, by decide⟩,
   ⟨_, rfl, by decide, by unfold sourcesFit SourceFits scalarClean; decide⟩⟩

theorem witness_VectorConvert :
    VectorReady vec2 ∧ SourceFits vec2 1 ∧ SourceFits vec2 3 ∧
    (DestFits vec2 6 0x01 ∧ isInt (vregOf vec2.g 1).tag = true ∧ isInt 0x01 = true) ∧
    (DestFits vec2 6 0x0B ∧ isFloat (vregOf vec2.g 3).tag = true ∧ isFloat 0x0B = true ∧ srGoverns vec2.g.vc.fmode 0x0B = false) ∧
    (DestFits vec2 6 0x0A ∧ (vregOf vec2.g 1).tag ≠ 0 ∧ (vregOf vec2.g 1).tag ≠ tagBit ∧ isMx (vregOf vec2.g 1).tag = false ∧
      isMx 0x0A = false ∧ cw (vregOf vec2.g 1).tag = cw 0x0A) :=
  ⟨vec2_ready, by unfold SourceFits; decide, by unfold SourceFits; decide, ⟨⟨by decide, by decide, by decide, by decide⟩, by decide⟩,
   ⟨⟨by decide, by decide, by decide, by decide⟩, by decide⟩, ⟨⟨by decide, by decide, by decide, by decide⟩, by decide⟩⟩

theorem witness_VectorReduce :
    VectorReady vec2 ∧ isInt 5 = true ∧ 0 < vec2.g.vc.vl ∧
    (∃ f, redForm (.vredmax 2 1 2 0 false) = some f ∧ pairTag (vregOf vec2.g f.a).tag (vregOf vec2.g f.b).tag = some 5 ∧
      SourceFits vec2 f.a ∧ SourceFits vec2 f.b ∧ DestFits vec2 f.d 5 ∧ f.d < 32) ∧
    (SourceFits vec2 1 ∧ SourceFits vec2 2 ∧ DestFits vec2 6 5) :=
  ⟨vec2_ready, by decide, by decide,
   ⟨_, rfl, by decide, by unfold SourceFits; decide, by unfold SourceFits; decide, ⟨by decide, by decide, by decide, by decide⟩, by decide⟩,
   by unfold SourceFits; decide, by unfold SourceFits; decide, ⟨by decide, by decide, by decide, by decide⟩⟩

theorem witness_VectorMove :
    VectorReady vec2 ∧
    (∃ f, moveForms (.vgath 6 3 1 0 false) = some f ∧ (vregOf vec2.g f.src).tag ≠ 0 ∧ isMx (vregOf vec2.g f.src).tag = false ∧
      SourceFits vec2 f.src ∧ (∀ r, f.idx = some r → isInt (vregOf vec2.g r).tag = true ∧ SourceFits vec2 r) ∧
      DestFits vec2 f.d (vregOf vec2.g f.src).tag) ∧
    (∃ f, moveForms (.vslup 6 1 0 0 false true) = some f ∧ f.scalar = some 0 ∧ poisonedX vec2 [0] = none ∧ SourceFits vec2 f.src ∧
      DestFits vec2 f.d (vregOf vec2.g f.src).tag) ∧
    ((vregOf vec2.g 1).tag ≠ 0 ∧ isMx (vregOf vec2.g 1).tag = false ∧ poisonedX vec2 [2] = none ∧ DestFits vec2 1 5 ∧
      0 < sideLanes vec2 vec2.g (vSide 1)) :=
  ⟨vec2_ready,
   ⟨_, rfl, by decide, by decide, by unfold SourceFits; decide, by rintro _ ⟨⟩; unfold SourceFits; decide, ⟨by decide, by decide, by decide, by decide⟩⟩,
   ⟨_, rfl, rfl, by decide, by unfold SourceFits; decide, ⟨by decide, by decide, by decide, by decide⟩⟩,
   by decide, by decide, by decide, ⟨by decide, by decide, by decide, by decide⟩, by decide⟩

theorem witness_VectorSpecial :
    sfuForms (.vrcp 5 3 0 false) = some (5, 3, 0, .rcp, false) ∧ VectorReady vec2 ∧ (vregOf vec2.g 3).tag = 0x0A ∧ SourceFits vec2 3 ∧
      DestFits vec2 5 0x0A :=
  ⟨rfl, vec2_ready, by decide, by unfold SourceFits; decide, ⟨by decide, by decide, by decide, by decide⟩⟩

theorem witness_MaskAndIndexForms :
    (∃ i, 0xA0200000 < 2 ^ 32 ∧ 0xA0200000 / 2 ^ 26 = 0x28 ∧ decodeControl 0xA0200000 = some i) ∧
    VectorReady vec2 ∧ (∃ f, maskForms (.mandn 7 1 2 0 false) = some (7, 1, 2, 0, f)) ∧
      (isInt (vregOf vec2.g 1).tag = true ∧ DestFits vec2 1 (vregOf vec2.g 1).tag) :=
  ⟨⟨_, by decide, by decide, rfl⟩, vec2_ready, ⟨_, rfl⟩, by decide, ⟨by decide, by decide, by decide, by decide⟩⟩

theorem witness_VectorTagTraps :
    VectorReady vec2 ∧ deliverable vec2 vec2.g.pc ∧ (vregOf vec2.g 20).tag = 0 ∧
    (isInt (vregOf vec2.g 1).tag = true ∧ isFloat (vregOf vec2.g 3).tag = true) ∧
    (∃ s, VectorReady s ∧ deliverable s s.g.pc ∧ isInt (vregOf s.g 1).tag = true ∧ (vregOf s.g 2).tag = (vregOf s.g 1).tag ∧
      (vregOf s.g 5).pin = false ∧ ¬ SourceFits s 1) :=
  ⟨vec2_ready, by unfold deliverable; decide, by decide, by decide,
   ⟨{ vec2 with g := { vec2.g with vc := { vec2.g.vc with vl := 5000 } } }, ⟨by decide, by decide, by decide, by decide⟩,
     by unfold deliverable; decide, by decide, by decide, by decide, by unfold SourceFits; decide⟩⟩

/-! ### Hypotheses met: configuration, streams, tasks -/

theorem witness_ConfigForms :
    (∃ s, poisonedX s [4] = none ∧ (getX s 4).toNat % 65536 = 0x71C ∧ queueHeld s = false ∧ boundTo s.g 31 = none ∧
      rowsWith s.g.rowMap 31 (rowsAsked s 31 0x71C) ≤ 1024) ∧
    (∃ s, poisonedX s [4] = none ∧ (getX s 4).toNat % 65536 = 29 ∧ deliverable s s.g.pc) ∧
    (∃ s, poisonedX s [4] = none ∧ 4096 ≤ (getX s 4).toNat % 65536 ∧ deliverable s s.g.pc) :=
  ⟨⟨withX vec1 4 0x71C, by decide⟩, ⟨withX vec1 4 29, by decide, by decide, by unfold deliverable; decide⟩,
   ⟨withX vec1 4 4096, by decide, by decide, by unfold deliverable; decide⟩⟩

/-- A memory stream of f32 elements described at 0x1000. -/
def stream1 : State :=
  withX (withV (vecM [(0, 0x1100), (1, 4), (2, 0xFFFFFFFFFF), (3, 1)]) 5 (reg 0x0A [])) 4 0x1000

theorem witness_StreamForms :
    (queueHeld vec2 = false ∧ boundTo vec2.g 5 = none ∧ (vregOf vec2.g 5).gf % 4 = 0 ∧ stripOf vec2 vec2.g.pl.core 7 = none) ∧
    (∃ (s : State) (x : StripQ), queueHeld s = false ∧ boundTo s.g 5 = none ∧ stripOf s s.g.pl.core 0 = some x ∧ x.owner = s.g.gid ∧ x.rd = none ∧
      x.wr = none ∧ x.entries ≠ []) ∧
    (∃ s1, queueHeld stream1 = false ∧ poisonedX stream1 [4] = none ∧ MemAt stream1 (whoV stream1) kRead (getX stream1 4) 32 0x5000 s1 ∧
      s1.pm.linePoison (lineOf 0x5000) = false ∧ boundTo stream1.g 5 = none ∧ isSplit stream1 stream1.g = false ∧
      isMx (vregOf stream1.g 5).tag = false ∧ 8 ≤ cw (vregOf stream1.g 5).tag ∧
      dword stream1 0x5000 0 % (cw (vregOf stream1.g 5).tag / 8) = 0 ∧ dword stream1 0x5000 2 / 2 ^ 40 % 2 ^ 22 = 0 ∧
      dword stream1 0x5000 3 / 2 ^ 19 = 0 ∧ dword stream1 0x5000 3 ≠ 0) ∧
    (∃ (s : State) (x : StripQ), queueHeld s = false ∧ boundTo s.g 5 = some (.queueWrite 3) ∧ s.g.appends = [] ∧
      stripOf s s.g.pl.core 3 = some x ∧ x.entries.length = 15 ∧ x.rd ≠ none) ∧
    (∃ (s : State) (x : StripQ), queueHeld s = false ∧ boundTo s.g 5 = some (.queueRead 3) ∧ s.g.appends = [] ∧
      stripOf s s.g.pl.core 3 = some x ∧ x.wr ≠ none) ∧
    deliverable vec2 vec2.g.pc ∧
    (∃ s : State, pendingUse s 5 = true) ∧ (pendingUse vec2 5 = false ∧ 5 ∉ vec2.g.streamEnd) ∧
    (∃ s : State, pendingUse s 5 = false ∧ 5 ∈ s.g.streamEnd ∧ inExtent s.g (s.g.pc + off13 1023 * 4).toNat = true) :=
  ⟨by decide,
   ⟨{ vec2 with eng := { vec2.eng with strips := [⟨0, 0, 0, none, none, [.endMark]⟩] } }, _, by decide, by decide, rfl, by decide⟩,
   ⟨_, by decide, by decide, ⟨by decide, rfl, by decide, by decide, by unfold Undisturbed; decide⟩, by decide⟩,
   ⟨{ vec2 with eng := { vec2.eng with strips := [⟨0, 3, 0, some 6, some 5, List.replicate 15 .endMark⟩] }
                g := { vec2.g with binds := [⟨5, .queueWrite 3⟩] } }, _, by decide, by decide, by decide, rfl, by decide⟩,
   ⟨{ vec2 with eng := { vec2.eng with strips := [⟨0, 3, 0, some 5, some 6, []⟩] }
                g := { vec2.g with binds := [⟨5, .queueRead 3⟩] } }, _, by decide, by decide, by decide, rfl, by decide⟩,
   by unfold deliverable; decide,
   ⟨inBody (.vadd 1 5 5 0 false false), by decide⟩, by decide,
   ⟨{ vec2 with g := { vec2.g with streamEnd := [5] } }, by decide⟩⟩

/-- A task record at 0x1000 with one task left, and a launch that may spawn. -/
def tasks1 : State :=
  withX (withX { vecM [(0, 1), (1, 0xFFFFFFFFFF)] with launches := [{ launch0 with words := Vector.replicate 16 (BitVec.allOnes 64) }] } 4 0x1000) 5 0x1FC0

theorem witness_TasksAndExit :
    (∃ s1, poisonedX tasks1 [4] = none ∧ MemAt tasks1 (whoG tasks1) kReadWrite (getX tasks1 4) 64 0x5000 s1 ∧ s1.pm.linePoison (lineOf 0x5000) = false ∧
      vecAccesses tasks1 = false) ∧
    (∃ s1 s2 l, poisonedX tasks1 [5, 4] = none ∧ tasks1.g.waits.sspawn = false ∧ (getX tasks1 5).toNat % 64 = 0 ∧
      MemAt tasks1 (whoG tasks1) kRead (getX tasks1 4) 64 0x5000 s1 ∧ MemAt s1 (whoG tasks1) kWrite (getX tasks1 5) 64 0x5FC0 s2 ∧ Seen tasks1 (whoG tasks1) 0x5000 64 ∧
      Undisturbed tasks1 0x5FC0 64 ∧ s2.pm.linePoison (lineOf 0x5000) = false ∧ findLaunch tasks1 tasks1.g.launch = some l ∧
      0 < l.spawnGrp ∧ l.tasks.length < 256) ∧
    (tabWf vec2.cores = true ∧ queueDrained vec2 = true ∧ vec2.g.vps = [] ∧ enginesIdle vec2 = true ∧
      ∀ k, k < 8 → (tokOf vec2 k).fail = none) ∧
    (unbindAll vec2 ((List.range 32).filter (fun r => (boundTo vec2.g r).isSome))).g.appends = [] ∧
    (∃ s : State, s.g.live = true ∧ queueDrained s = true ∧
      (unbindAll s ((List.range 32).filter (fun r => (boundTo s.g r).isSome))).g.appends ≠ []) :=
  ⟨⟨_, by decide, ⟨by decide, rfl, by decide, by decide, by unfold Undisturbed; decide⟩, by decide⟩,
   ⟨_, _, _, by decide, by decide, by decide, ⟨by decide, rfl, by decide, by decide, by unfold Undisturbed; decide⟩,
     ⟨by decide, rfl, by decide, by decide, by unfold Undisturbed; decide⟩, by unfold Seen; decide, by unfold Undisturbed; decide, by decide, rfl, by decide, by decide⟩,
   by decide, by decide,
   ⟨{ vec2 with eng := { vec2.eng with strips := [⟨0, 3, 0, some 6, some 5, List.replicate 16 .endMark⟩] }
                g := { vec2.g with binds := [⟨5, .queueWrite 3⟩] } }, by decide⟩⟩

/-! ### Hypotheses met: vector accesses -/

/-- Every place lies in HBM4, at a multiple of `n`, or in a scratchpad at one. -/
def placesFit (s : State) (n : Nat) (ls : List (Nat × PLoc)) : Bool :=
  ls.all (fun q => match q.2 with
    | .pa a => paKind s a == .hbm && a % n == 0
    | .sp _ off => off % n == 0 && decide (off + n ≤ 2 ^ 21))

theorem placesFit_ok (s : State) (n : Nat) (ls : List (Nat × PLoc)) (h : placesFit s n ls = true) (hc : s.chains = []) :
    ∀ q ∈ ls, PlaceOk s n q.2 := by
  intro q hq
  have := List.all_eq_true.1 h q hq
  obtain ⟨e, l⟩ := q
  cases l <;> simp_all [PlaceOk, Undisturbed]

/-- No place is poisoned. -/
def placesClean (s : State) (ls : List (Nat × PLoc)) : Bool :=
  ls.all (fun q => match q.2 with
    | .pa a => !s.pm.linePoison (lineOf a)
    | .sp core off => !s.sp.poison.contains (spWordKey core off))

theorem placesClean_ok (s : State) (ls : List (Nat × PLoc)) (h : placesClean s ls = true) : ∀ q ∈ ls, PlaceClean s q.2 := by
  intro q hq
  have := List.all_eq_true.1 h q hq
  obtain ⟨e, l⟩ := q
  cases l <;> simp_all [PlaceClean]

/-- vec2 with x5 = 0x1000, x6 = -4, 64-bit addresses in v5, and a partition of the scratchpad. -/
def vec3 : State :=
  let s := withX (withX (withV vec2 5 (reg 0x08 [0x1000, 0x1008, 0x1010, 0x1FF8])) 5 0x1000) 6 (BitVec.ofInt 64 (-4))
  { s with g := { s.g with pl := { s.g.pl with spSize := 8 } } }

/-- Four addresses in 0x1000 apart by `n`. -/
def quad (n : Nat) : List (Nat × PLoc) := [(0, .pa 0x5000), (1, .pa (0x5000 + n)), (2, .pa (0x5000 + 2 * n)), (3, .pa (0x5000 + 3 * n))]

def farAddresses : List (Nat × PLoc) := [(0, .pa 0x5000), (1, .pa 0x5008), (2, .pa 0x5010), (3, .pa 0x5FF8)]

/-- vec3 with a live line at 0x5000 of one count. -/
def vec3r : State :=
  { vec3 with pm := { vec3.pm with lines := [⟨0xA0, false, 0, ⟨.live, 1, 0, 0, 0⟩⟩] } }

theorem witness_VectorLoad :
    (∃ f s1, vloadForm (.vld 1 5 0 false false) = some (f, false) ∧ VMemFits vec3 f ∧ DestFits vec3 f.d (vregOf vec3.g f.d).tag ∧
      Found vec3 f kRead (quad 4) s1 ∧ ∀ q ∈ quad 4, PlaceOk vec3 (memBytes (vregOf vec3.g f.d).tag) q.2 ∧ PlaceClean s1 q.2) ∧
    (∃ f s1, vloadForm (.vldX 3 5 1 0 false false 2) = some (f, false) ∧ VMemFits vec3 f ∧ DestFits vec3 f.d (vregOf vec3.g f.d).tag ∧
      Found vec3 f kRead [(0, .pa 0x5004), (1, .pa 0x5008), (2, .pa 0x500C), (3, .pa 0x5010)] s1) ∧
    (∃ f s1, vloadForm (.vldS 1 7 6 0 false true) = some (f, false) ∧ VMemFits vec3 f ∧
      Found (withX vec3 7 12) f kRead [(0, .sp 0 12), (1, .sp 0 8), (2, .sp 0 4), (3, .sp 0 0)] s1) ∧
    (∃ f s1, vloadForm (.vldC 1 5 0 false false) = some (f, true) ∧ VMemFits vec3r f ∧ DestFits vec3r f.d (vregOf vec3r.g f.d).tag ∧
      Found vec3r f kReadWrite (quad 4) s1 ∧ vec3r.ra.held = [] ∧ (∀ q ∈ quad 4, unitOf vec3r q.2 = some (.line 0xA0)) ∧
      (rationOf s1 (.line 0xA0)).st = .live ∧ (rationOf s1 (.line 0xA0)).reserved < (rationOf s1 (.line 0xA0)).count) ∧
    (∃ x s1, VMemFits (withX vec3 5 0x1FF8) (VMemForm.ofUnit 1 5 0 false) ∧ DestFits (withX vec3 5 0x1FF8) 1 5 ∧
      probe (withX vec3 5 0x1FF8) (fun e => whoE (withX vec3 5 0x1FF8) (ctxG (withX vec3 5 0x1FF8)) 1 e false) kRead 4 4 false
        ((acting (withX vec3 5 0x1FF8) 0).map (fun e => ⟨e, (VMemForm.ofUnit 1 5 0 false).loc (withX vec3 5 0x1FF8) e, none⟩)) =
        ([(0, .pa 0x5FF8), (1, .pa 0x5FFC)], some (2, x), s1)) :=
  ⟨⟨_, _, rfl, ⟨⟨by decide, by decide, by decide, by decide⟩, by decide, by decide, by decide, by unfold SourceFits; decide, nofun, by decide, by decide⟩,
      ⟨by decide, by decide, by decide, by decide⟩, rfl, fun q hq => ⟨placesFit_ok vec3 4 (quad 4) (by decide) rfl q hq, placesClean_ok _ _ (by decide) q hq⟩⟩,
   ⟨_, _, rfl, ⟨⟨by decide, by decide, by decide, by decide⟩, by decide, by decide, by decide, by unfold SourceFits; decide,
      by rintro _ ⟨⟩; unfold SourceFits; decide, by decide, by decide⟩, ⟨by decide, by decide, by decide, by decide⟩, rfl⟩,
   ⟨_, _, rfl, ⟨⟨by decide, by decide, by decide, by decide⟩, by decide, by decide, by decide, by unfold SourceFits; decide, nofun, by decide, by decide⟩, rfl⟩,
   ⟨_, _, rfl, ⟨⟨by decide, by decide, by decide, by decide⟩, by decide, by decide, by decide, by unfold SourceFits; decide, nofun, by decide, by decide⟩,
      ⟨by decide, by decide, by decide, by decide⟩, rfl, rfl, by decide, by decide, by decide⟩,
   ⟨_, _, ⟨⟨by decide, by decide, by decide, by decide⟩, by decide, by decide, by decide, by unfold SourceFits; decide, nofun, by decide, by decide⟩,
      ⟨by decide, by decide, by decide, by decide⟩, rfl⟩⟩

theorem witness_PlaceSeen : (∀ q ∈ quad 4, PlaceSeen vec3 4 q.2) ∧ (∀ q ∈ farAddresses, PlaceSeen vec3 8 q.2) := by
  simp only [quad, farAddresses, List.forall_mem_cons]
  refine ⟨⟨?_, ?_, ?_, ?_, nofun⟩, ?_, ?_, ?_, ?_, nofun⟩ <;> (unfold PlaceSeen Seen; decide)

theorem witness_VectorStore :
    (∃ f s1, vstoreForm (.vst 1 5 0 false false) = some (f, false) ∧ VMemFits vec3 f ∧ Found vec3 f kWrite (quad 4) s1 ∧
      ∀ q ∈ quad 4, PlaceOk vec3 (memBytes (vregOf vec3.g f.d).tag) q.2) ∧
    (∃ f s1, vstoreForm (.vstSu 1 5 0 0 false false) = some (f, true) ∧ VMemFits vec3 f ∧
      Found vec3 f kWrite [(0, .pa 0x5000), (1, .pa 0x5000), (2, .pa 0x5000), (3, .pa 0x5000)] s1) :=
  ⟨⟨_, _, rfl, ⟨⟨by decide, by decide, by decide, by decide⟩, by decide, by decide, by decide, by unfold SourceFits; decide, nofun, by decide, by decide⟩,
      rfl, fun q hq => placesFit_ok vec3 4 (quad 4) (by decide) rfl q hq⟩,
   ⟨_, _, rfl, ⟨⟨by decide, by decide, by decide, by decide⟩, by decide, by decide, by decide, by unfold SourceFits; decide, nofun, by decide, by decide⟩, rfl⟩⟩

/-- vec3 with blocks of mxfp8 in v6. -/
def vec4 : State := withV vec3 6 ⟨0x13, 0, false, false, 0, [(0, 0x38), (3, 0x40)], [(0, 127)], false⟩

theorem witness_VectorSegments :
    ∃ s1 s2, VectorReady vec4 ∧ Memory.wf vec4.pm = true ∧ isMx (vregOf vec4.g 6).tag = true ∧ SourceFits vec4 6 ∧ poisonedX vec4 [5] = none ∧
      (getX vec4 5).toNat % 64 = 0 ∧ (∀ q ∈ [(0, PLoc.pa 0x5000)], PlaceOk vec4 64 q.2) ∧ DestFits vec4 6 0x13 ∧
      probe vec4 (fun e => whoE vec4 (ctxG vec4) 6 e false) kRead 64 64 false
        ((blocksOf (acting vec4 0)).map (fun j => ⟨32 * j, .va (getX vec4 5 + BitVec.ofNat 64 (j * 64)).toNat, none⟩)) =
        ([(0, .pa 0x5000)], none, s1) ∧ (∀ q ∈ [(0, PLoc.pa 0x5000)], PlaceClean s1 q.2) ∧
      probe vec4 (fun e => whoE vec4 (ctxG vec4) 6 e false) kWrite 64 64 false
        ((blocksOf (acting vec4 0)).map (fun j => ⟨32 * j, .va (getX vec4 5 + BitVec.ofNat 64 (j * 64)).toNat, none⟩)) =
        ([(0, .pa 0x5000)], none, s2) :=
  ⟨_, _, ⟨by decide, by decide, by decide, by decide⟩, by decide, by decide, by unfold SourceFits; decide, by decide, by decide,
   fun q hq => placesFit_ok vec4 64 [(0, PLoc.pa 0x5000)] (by decide) rfl q hq, ⟨by decide, by decide, by decide, by decide⟩, rfl,
   fun q hq => placesClean_ok _ _ (by decide) q hq, rfl⟩

theorem witness_VectorAtomics :
    VectorReady vec3 ∧ Memory.wf vec3.pm = true ∧
    (∃ op s1, vamoForms (.vamoMax 1 0 0 5 0 false) = some (1, 5, 0, op) ∧ isInt (vregOf vec3.g 1).tag = true ∧ 32 ≤ cw (vregOf vec3.g 1).tag ∧
      holdsAddresses vec3 5 ∧ DestFits vec3 1 5 ∧ probe vec3 (byLane vec3 1) kReadWrite 4 4 true (addressed vec3 5 0) = (farAddresses, none, s1) ∧
      (∀ q ∈ farAddresses, PlaceOk vec3 4 q.2 ∧ PlaceClean s1 q.2) ∧ ∀ q ∈ farAddresses, Alone farAddresses q) ∧
    (∃ s1, millTag (vregOf vec3.g 3).tag = true ∧ SourceFits vec3 3 ∧ holdsAddresses vec3 5 ∧
      probe vec3 (byLane vec3 3) kReadWrite 4 4 true (addressed vec3 5 0) = (farAddresses, none, s1) ∧
      (∀ q ∈ farAddresses, PlaceOk vec3 4 q.2) ∧ s1.pm.present (lineOf 0x5000) = false) ∧
    (∃ s1, probe vec3r (byLane vec3r 3) kReadWrite 4 4 true (addressed vec3r 5 0) = (farAddresses, none, s1) ∧
      s1.pm.present (lineOf 0x5000) = true) :=
  ⟨⟨by decide, by decide, by decide, by decide⟩, by decide,
   ⟨_, _, rfl, by decide, by decide, by unfold holdsAddresses SourceFits; decide, ⟨by decide, by decide, by decide, by decide⟩, rfl,
     fun q hq => ⟨placesFit_ok vec3 4 _ (by decide) rfl q hq, placesClean_ok _ _ (by decide) q hq⟩, by unfold Alone; decide⟩,
   ⟨_, by decide, by unfold SourceFits; decide, by unfold holdsAddresses SourceFits; decide, rfl,
     fun q hq => placesFit_ok vec3 4 _ (by decide) rfl q hq, by decide⟩,
   ⟨_, rfl, by decide⟩⟩

/-- vec3 with the words at its addresses full. -/
def vec3f : State := { vec3 with pm := { vec3.pm with full := [0xA00, 0xA01, 0xA02, 0xBFF] } }

theorem witness_VectorFutures :
    VectorReady vec3f ∧ Memory.wf vec3f.pm = true ∧ holdsAddresses vec3f 5 ∧ DestFits vec3f 5 8 ∧ poisonedX vec3f [0] = none ∧
    vec3f.g.fldv = none ∧ vec3f.futs = [] ∧
    (∃ s1, probeWith (chkFuture kRead) vec3f (byLane vec3f 5) true (addressed vec3f 5 0) = (farAddresses, none, s1) ∧
      (∀ q ∈ farAddresses, PlaceOk vec3f 8 q.2 ∧ PlaceClean s1 q.2) ∧ ∀ q ∈ farAddresses, ∀ pa, q.2 = .pa pa → vec3f.pm.isFull (pa / 8) = true) ∧
    (∃ s1, VectorReady vec3 ∧ holdsAddresses vec3 5 ∧ DestFits vec3 5 8 ∧
      probeWith (chkFuture kRead) vec3 (byLane vec3 5) true (addressed vec3 5 0) = (farAddresses, none, s1) ∧
      (∀ q ∈ farAddresses, PlaceOk vec3 8 q.2) ∧ vec3.pm.isFull (0x5FF8 / 8) = false) ∧
    (∃ s1, cw (vregOf vec3.g 5).tag = 64 ∧ SourceFits vec3 5 ∧
      probeWith (chkFuture kWrite) vec3 (byLane vec3 5) true (addressed vec3 5 0) = (farAddresses, none, s1)) :=
  ⟨⟨by decide, by decide, by decide, by decide⟩, by decide, by unfold holdsAddresses SourceFits; decide, ⟨by decide, by decide, by decide, by decide⟩,
   by decide, by decide, by decide,
   ⟨_, rfl, fun q hq => ⟨placesFit_ok vec3f 8 _ (by decide) rfl q hq, placesClean_ok _ _ (by decide) q hq⟩, by
      simp only [farAddresses, List.forall_mem_cons]
      refine ⟨?_, ?_, ?_, ?_, nofun⟩ <;> · rintro _ ⟨⟩; decide⟩,
   ⟨_, ⟨by decide, by decide, by decide, by decide⟩, by unfold holdsAddresses SourceFits; decide, ⟨by decide, by decide, by decide, by decide⟩, rfl,
     fun q hq => placesFit_ok vec3 8 _ (by decide) rfl q hq, by decide⟩,
   ⟨_, by decide, by unfold SourceFits; decide, rfl⟩⟩

/-! ### Hypotheses met: the ration file, matrix and sparse forms -/

/-- vec1 with a descriptor at 0x1000: one line at 0x1800 is declared with a count. -/
def decl1 (k : Nat) : State := withX (vecM [(0, 0x1800), (1, 128), (2, k)]) 4 0x1000

/-- run1 with an entry of its team's scope, and of another. -/
def entries1 : State := { run1 with g := { run1.g with waits := { run1.g.waits with rclose := true } } }

theorem witness_RationForms :
    (∀ k ∈ [1, 255], ∃ s1 s2, poisonedX (decl1 k) [4] = none ∧ (decl1 k).g.pl.det = false ∧ (decl1 k).g.waits.rdecl = none ∧
      MemAt (decl1 k) (whoG (decl1 k)) kRead (getX (decl1 k) 4) 32 0x5000 s1 ∧ Seen s1 (whoG (decl1 k)) 0x5000 32 ∧ s1.pm.linePoison (lineOf 0x5000) = false ∧
      dword (decl1 k) 0x5000 0 = 0x1800 ∧ dword (decl1 k) 0x5000 1 = 128 ∧ dword (decl1 k) 0x5000 2 = k ∧ dword (decl1 k) 0x5000 3 = 0 ∧
      declUnits (sliceRead s1 0x5000 32).2.2 false 0x1800 128 = (.ok [.pa 0x5800], s2) ∧
      (∀ l ∈ [PLoc.pa 0x5800], (unitOf s2 l).isSome = true) ∧ ([PLoc.pa 0x5800].filterMap (unitOf s2)).Nodup ∧
      freeEntry s2 0 = some 0 ∧ (∀ r ∈ [PLoc.pa 0x5800].filterMap (unitOf s2), (rationOf s2 r).st ≠ .live) ∧
      (∀ l ∈ [0xB0], liveInSet s2 l + 1 ≤ quota s2 l) ∧ s2.ra.held = []) ∧
    (entries1.g.pl.det = false ∧ entries1.g.waits.rclose = true ∧ ∀ c ∈ entries1.ra.closes, c.gid ≠ some entries1.g.gid) ∧
    (∃ (s : State) (c : Close), s.g.waits.rclose = true ∧ c ∈ s.ra.closes ∧ c.gid = some s.g.gid) ∧
    (run1.g.waits.rclose = false ∧ queueHeld run1 = false) ∧
    (∃ s1 u, poisonedX mem1 [1] = none ∧ checkLoc mem1 (whoG mem1) kRead (.va (getX mem1 1).toNat) 1 1 = (.ok (.pa 0x5008), s1) ∧
      unitOf s1 (.pa 0x5008) = some u ∧ heldBack s1 u = false) ∧
    (∃ s1 u, poisonedX vec3 [6] = none ∧ checkLoc vec3 (whoG vec3) kRead (.sp (getX (withX vec3 6 8) 6).toNat true) 1 1 = (.ok (.sp 0 8), s1) ∧
      unitOf s1 (.sp 0 8) = some u ∧ heldBack s1 u = false) :=
  ⟨by
    intro k hk
    rcases List.mem_cons.1 hk with h | h
    · subst h
      exact ⟨_, _, by decide, by decide, by decide, ⟨by decide, rfl, by decide, by decide, by unfold Undisturbed; decide⟩, by unfold Seen; decide, by decide, by decide, by decide,
        by decide, by decide, rfl, by decide, by decide, by decide, by decide, by decide, by decide⟩
    · obtain rfl : k = 255 := by simpa using h
      exact ⟨_, _, by decide, by decide, by decide, ⟨by decide, rfl, by decide, by decide, by unfold Undisturbed; decide⟩, by unfold Seen; decide, by decide, by decide, by decide,
        by decide, by decide, rfl, by decide, by decide, by decide, by decide, by decide, by decide⟩,
   by decide,
   ⟨{ entries1 with ra := { entries1.ra with closes := [⟨1, some entries1.g.gid, none, 0, [], [], []⟩] } }, _, rfl, List.mem_singleton.2 rfl, rfl⟩,
   by decide,
   ⟨_, _, by decide, rfl, rfl, by decide⟩, ⟨_, _, by decide, rfl, rfl, by decide⟩⟩

/-- vec3 with an f32 handle of 4 by 4 in z0 and an i32 one in z1, each with its region, TILEM 4, TILEN 4 and TILEK 32; f16
operands in v8 and v9, and at 0 and 0x800 of the scratchpad. -/
def mat1 : State :=
  let h (t b : Nat) : Nat := 1 + t * 2 ^ 15 + 3 * 2 ^ 20 + 3 * 2 ^ 30 + 2 ^ 40 + b * 2 ^ 49
  let d (bp : Nat) : Word := BitVec.ofNat 64 (0x0B * 2 ^ 24 + bp * 2 ^ 33)
  let s := { vec3 with
    eng := { vec3.eng with regions := [⟨0, vec3.g.gid, 0, 0, 1, .val 0, [], []⟩, ⟨0, vec3.g.gid, 1, 1, 1, .val 7, [], []⟩] }
    g := { vec3.g with
      z := (vec3.g.z.set 0 (BitVec.ofNat 64 (h 0x0A 0))).set 1 (BitVec.ofNat 64 (h 0x05 1))
      v := (vec3.g.v.set 8 (reg 0x0B [0x3C00])).set 9 (reg 0x0B [0x3C00, 0x4000])
      vc := { vec3.g.vc with tilem := 4, tilen := 4, tilek := 32 } } }
  withX (withX (withX (withX s 10 0x4000000000) 11 (d 0x400)) 12 0x4000000800) 13 (d 0x400)

/-- mat1 with a joint shape of two positions in its first descriptor, none bearing a bitmap. -/
def mat2 : State := withX (withX mat1 11 0x040000000B000000) 13 0xB000000

/-- mat1 with the first block of its partition live. -/
def mat3 : State := { mat1 with ra := { mat1.ra with blocks := [(0, ⟨.live, 2, 0, 0, 0⟩)] } }

/-- Each tile's block bears the stamp that it names. -/
def stampsFit (s : State) (ts : List (Nat × SpTile × List (List (Nat × Nat)))) : Bool :=
  ts.all (fun t => (tileBlocks t.2.2).all (fun b =>
    t.2.1.rot != 7 && tabGet s.sp.stamps (blockKey t.2.1.core ((t.2.1.part + b) * 4096)) 0 == t.2.1.rot))

theorem stampsFit_ok (s : State) (ts : List (Nat × SpTile × List (List (Nat × Nat)))) (h : stampsFit s ts = true) :
    ∀ t ∈ ts, ∀ bl ∈ tileBlocks t.2.2,
      t.2.1.rot ≠ 7 ∧ tabGet s.sp.stamps (blockKey t.2.1.core ((t.2.1.part + bl) * 4096)) 0 = t.2.1.rot := by
  intro t ht bl hb
  simpa using List.all_eq_true.1 (List.all_eq_true.1 h t ht) bl hb

theorem mat1_fits : MatFits mat1 0 (opName mat1 false 8) (opName mat1 false 9) 0 false :=
  ⟨by decide, rfl, by decide, by decide, by decide, ⟨4, 4, 0x0A, ⟨by decide, by decide, by decide, by decide⟩, by decide, by decide, by decide⟩,
   by decide, by
     intro o n h _
     rcases List.mem_cons.1 h with h | h
     · obtain ⟨rfl, rfl⟩ := Prod.mk.inj h; decide
     · obtain ⟨rfl, rfl⟩ := Prod.mk.inj (List.mem_singleton.1 h); decide,
   by decide, by decide, stampsFit_ok _ _ (by decide), by decide⟩

/-- What a form whose operands lie in scratchpads meets. -/
theorem inScratch (s : State) (a b : OpName) (m n : Nat) (ha : a.sp = true) (hb : b.sp = true) :
    ∀ o n', (o, n') ∈ [(a, m), (b, n)] → o.sp = false →
      n' * s.g.vc.tilek ≤ capacity s o.reg (o.tag s) (vregOf s.g o.reg).gf := by
  intro o n' h hf
  rcases List.mem_cons.1 h with h | h
  · obtain ⟨rfl, rfl⟩ := Prod.mk.inj h; simp [ha] at hf
  · obtain ⟨rfl, rfl⟩ := Prod.mk.inj (List.mem_singleton.1 h); simp [hb] at hf

theorem witness_MatrixIssue :
    (poisonedX mat1 (opRegs false false 8 9) = none ∧ MatFits mat1 0 (opName mat1 false 8) (opName mat1 false 9) 0 false) ∧
    (poisonedX mat3 (opRegs true true 10 12) = none ∧ MatFits mat3 1 (opName mat3 true 10) (opName mat3 true 12) 0 true) ∧
    (poisonedX mat2 (opRegs true true 10 12) = none ∧ (∀ o ∈ mat2.eng.mats, o.gid = mat2.g.gid → o.phase ≠ .join) ∧
      MatFits mat2 2 (opName mat2 true 10) (opName mat2 true 12) 0 false) ∧
    (∃ s, poisonedX s (opRegs true true 10 12) = none ∧ queueHeld s = false ∧ (handleOf s 1).testBit 0 = true ∧
      descBad s 2 true (opName s true 10) = none ∧ descBad s 2 false (opName s true 12) = none ∧ s.g.vc.tilek = 0) ∧
    (queueHeld mat1 = false ∧ (handleOf mat1 7).testBit 0 = false ∧ deliverable mat1 mat1.g.pc) :=
  ⟨⟨by decide, mat1_fits⟩,
   ⟨by decide, ⟨by decide, rfl, by decide, by decide, by decide,
     ⟨4, 4, 0x0A, ⟨by decide, by decide, by decide, by decide⟩, by decide, by decide, by decide⟩,
     by decide, inScratch _ _ _ _ _ rfl rfl, by decide, by decide, stampsFit_ok _ _ (by decide), by decide⟩⟩,
   ⟨by decide, by decide, ⟨by decide, rfl, by decide, by decide, by decide,
     ⟨4, 4, 0x0A, ⟨by decide, by decide, by decide, by decide⟩, by decide, by decide, by decide⟩,
     by decide, inScratch _ _ _ _ _ rfl rfl, by decide, by decide, stampsFit_ok _ _ (by decide), by decide⟩⟩,
   ⟨{ mat2 with g := { mat2.g with vc := { mat2.g.vc with tilek := 0 } } }, by decide, by decide, by decide, by decide, by decide, by decide⟩,
   ⟨by decide, by decide, by unfold deliverable; decide⟩⟩

set_option maxRecDepth 8000 in
theorem witness_HandleForms :
    (poisonedX mat1 [1] = none ∧ mat1.g.waits.zset = none ∧ queueHeld mat1 = false ∧
      (∀ o ∈ mat1.eng.mats, o.gid = mat1.g.gid → o.z ≠ 0) ∧ refreshWindows mat1 = mat1 ∧ (getX mat1 1).toNat % 2 = 0) ∧
    (∀ p ∈ [(0x05, 1, 1, 0), (0x0A, 512, 256, 0), (0x0A, 4, 4, 256)],
      let h := 1 + p.1 * 2 ^ 15 + (p.2.2.1 - 1) * 2 ^ 20 + (p.2.1 - 1) * 2 ^ 30 + p.2.2.2 * 2 ^ 40
      let need := (p.2.1 + max 1 (coreOf vec3 0).lanemod - 1) / max 1 (coreOf vec3 0).lanemod * ((p.2.2.1 + 15) / 16)
      let words := if h / 2 ^ 40 % 512 = 0 then need else h / 2 ^ 40 % 512
      h % 2 = 1 ∧ h / 2 ^ 58 = 0 ∧ h / 2 % 2 ^ 14 = 0 ∧ h / 2 ^ 15 % 32 = p.1 ∧
        h / 2 ^ 30 % 1024 + 1 = p.2.1 ∧ h / 2 ^ 20 % 1024 + 1 = p.2.2.1 ∧ need ≤ words ∧ words ≤ 256 ∧
        freeRun (releaseRegion vec3 0) 0 words = some 0) := by decide

theorem witness_TileForms :
    (∃ r, queueHeld mat1 = false ∧ Claimed mat1 0 4 4 0x0A ∧ regionOf mat1 mat1.g.gid 0 = some r ∧ TileQuiet mat1 0 ∧ r.poison = [] ∧
      poisonedX (withX mat1 4 0x200000001) [4] = none ∧ VectorReady (withX mat1 4 0x200000001) ∧ PlaceWord 0x200000001 4 4 4 1 0 2 ∧
      SourceFits mat1 3 ∧ isFloat (vregOf mat1.g 3).tag = true ∧ srGoverns mat1.g.vc.fmode 0x0A = false ∧ DestFits mat1 3 0x0A) ∧
    (∃ r, Claimed mat1 1 4 4 0x05 ∧ regionOf mat1 mat1.g.gid 1 = some r ∧ TileQuiet mat1 1 ∧ r.poison = [] ∧
      PlaceWord 0x400000003 4 4 4 3 0 4 ∧ SourceFits mat1 1 ∧ isInt (vregOf mat1.g 1).tag = true ∧ DestFits mat1 1 0x05) :=
  ⟨⟨_, by decide, ⟨by decide, by decide, by decide, by decide⟩, rfl, by unfold TileQuiet; decide, by decide, by decide,
     ⟨by decide, by decide, by decide, by decide⟩, ⟨by decide, by decide, by decide, by decide, by decide, by decide⟩,
     by unfold SourceFits; decide, by decide, by decide, ⟨by decide, by decide, by decide, by decide⟩⟩,
   ⟨_, ⟨by decide, by decide, by decide, by decide⟩, rfl, by unfold TileQuiet; decide, by decide,
     ⟨by decide, by decide, by decide, by decide, by decide, by decide⟩,
     by unfold SourceFits; decide, by decide, ⟨by decide, by decide, by decide, by decide⟩⟩⟩

/-- vec2 with i32 pairs in q1 and q2, an i8 one in q3, and a descriptor of two i32 pairs at 0x1000. -/
def sparse1 : State :=
  let s := withX { vec2 with pm := { vec2.pm with cells := wordsAt 0x5000 [(0, 0x1100), (1, 0x1180), (2, 0x050002), (32, 0x700000003), (48, 0xFFFFFFFF00000009)] } } 4 0x1000
  { s with g := { s.g with q := ((s.g.q.set 1 ⟨5, [(0, 1), (7, 0xFFFFFFFF)], []⟩).set 2 ⟨5, [(7, 3), (0xFFFFFFFF, 4)], []⟩).set 3 ⟨1, [(0, 0x80)], []⟩ } }

theorem witness_SparseForms :
    (VectorReady sparse1 ∧ (∀ b ∈ [2, 3], (qregOf sparse1 1).tag ≠ 0 ∧ (qregOf sparse1 b).tag ≠ 0 ∧
      pairTag (qregOf sparse1 1).tag (qregOf sparse1 b).tag = some 5 ∧ (qregOf sparse1 1).poison = [] ∧ (qregOf sparse1 b).poison = []) ∧
      PairsFit sparse1 0 5 (unionCoords (qregOf sparse1 1).pairs (qregOf sparse1 2).pairs).length ∧
      PairsFit sparse1 0 5 (commonCoords (qregOf sparse1 1) (qregOf sparse1 2)).length) ∧
    (pairValueTag (vregOf sparse1.g 1).tag = true ∧ SourceFits sparse1 1 ∧ PairsFit sparse1 7 (vregOf sparse1.g 1).tag (acting sparse1 0).length ∧
      isMx (qregOf sparse1 1).tag = false ∧ DestFits sparse1 1 (qregOf sparse1 1).tag) ∧
    (∃ s1 s2 s3 s4 s5 cs vs, Memory.wf sparse1.pm = true ∧ poisonedX sparse1 [4] = none ∧ (getX sparse1 4).toNat % 32 = 0 ∧
      checkLoc sparse1 (whoV sparse1) kRead (.va (getX sparse1 4).toNat) 32 1 = (.ok (.pa 0x5000), s1) ∧ PlaceOk sparse1 32 (.pa 0x5000) ∧
      PlaceClean s1 (.pa 0x5000) ∧ PlaceSeen s1 32 (.pa 0x5000) ∧ dword sparse1 0x5000 0 = 0x1100 ∧ dword sparse1 0x5000 1 = 0x1180 ∧ dword sparse1 0x5000 2 = 0x050002 ∧
      dword sparse1 0x5000 3 = 0 ∧ PairsFit sparse1 0 5 2 ∧ arrayFails (sliceRead s1 0x5000 32).2.2 kRead 0x1100 4 2 = ([], s2) ∧
      arrayFails s2 kRead 0x1180 4 2 = ([], s3) ∧ readArray s3 0x1100 4 2 = (cs, s4) ∧ readArray s4 0x1180 4 2 = (vs, s5) ∧
      (∀ c ∈ cs, c.2 = false) ∧ (cs.map (·.1)).Pairwise (· < ·)) ∧
    (∃ s1 s2 s3 s4, checkLoc sparse1 (whoV sparse1) kRead (.va (getX sparse1 4).toNat) 16 1 = (.ok (.pa 0x5000), s1) ∧
      PlaceOk sparse1 16 (.pa 0x5000) ∧ PlaceClean s1 (.pa 0x5000) ∧ PlaceSeen s1 16 (.pa 0x5000) ∧
      arrayFails (sliceRead s1 0x5000 16).2.2 kWrite 0x1100 4 2 = ([], s2) ∧ arrayFails s2 kWrite 0x1180 4 2 = ([], s3) ∧
      arrayFails s3 kWrite ((getX sparse1 4).toNat + 16) 8 1 = ([], s4)) :=
  ⟨⟨⟨by decide, by decide, by decide, by decide⟩, by decide, by unfold PairsFit; decide, by unfold PairsFit; decide⟩,
   ⟨by decide, by unfold SourceFits; decide, by unfold PairsFit; decide, by decide, ⟨by decide, by decide, by decide, by decide⟩⟩,
   ⟨_, _, _, _, _, _, _, by decide, by decide, by decide, rfl, by unfold PlaceOk Undisturbed; decide, by unfold PlaceClean; decide, by unfold PlaceSeen Seen; decide,
     by decide, by decide, by decide, by decide, by unfold PairsFit; decide, rfl, rfl, rfl, rfl, by decide, by decide⟩,
   ⟨_, _, _, _, rfl, by unfold PlaceOk Undisturbed; decide, by unfold PlaceClean; decide, by unfold PlaceSeen Seen; decide, rfl, rfl, rfl⟩⟩

/-! ### Hypotheses met: steps of units -/

/-- mem1 once booted: a bank of buffered translations is as map1 leaves it, and the table that a walk reads stands at 0x6000
of the device, the walk itself at level 1. -/
def unit1 : State :=
  { mem1 with
    pm := { mem1.pm with cells := mem1.pm.cells ++ wordsAt 0x6000 [(0, 0x4000000005), (1, 0x7001)] }
    io := { mem1.io with bootStage := 5, xinv := [⟨1, 0, 0, []⟩] }
    xl := { mem1.xl with walks := [⟨0, 0, 0x200000, 1, 0x6000, 12, []⟩] } }

/-- unit1 with walks at level 0 and at level 4. -/
def walk0 : State := { unit1 with xl := { unit1.xl with walks := [⟨0, 0, 0, 0, 0x6000, 12, []⟩] } }
def walk4 : State := { unit1 with xl := { unit1.xl with walks := [⟨0, 0, 0x1000000000000, 4, 0x6000, 12, []⟩] } }

theorem witness_TranslationSteps :
    (unit1.io.xinv = [⟨1, 0, 0, []⟩] ∧ Outstanding unit1 ⟨1, 0, 0, []⟩) ∧
    (∃ s : State, s.io.xinv = [⟨2, 0, 0, []⟩] ∧ ¬ Outstanding s ⟨2, 0, 0, []⟩) ∧
    (∃ s : State, Outstanding s ⟨2, 0, 0, []⟩ ∧ s.xl.walks = [] ∧ s.futs ≠ []) ∧
    (∃ s1, WalkReads (withMsg unit1 { va := 0x200FFF }) ⟨0, 0, 0x200000, 1, 0x6000, 12, []⟩ 0x7001 s1 ∧ bits 0x7001 2 1 ≠ 2) ∧
    (∃ s1, WalkReads walk0 ⟨0, 0, 0, 0, 0x6000, 12, []⟩ 0x4000000005 s1 ∧ bits 0x4000000005 2 1 = 2 ∧ bit 0x4000000005 55 = false) ∧
    (∃ s1, WalkReads (withMsg walk4 { va := 0x1000000000FFF }) ⟨0, 0, 0x1000000000000, 4, 0x6000, 12, []⟩ 0x7001 s1) :=
  ⟨⟨rfl, .inl ⟨_, List.mem_singleton.2 rfl, by decide⟩⟩,
   ⟨{ mem1 with io := { mem1.io with xinv := [⟨2, 0, 0, []⟩] } }, rfl, by
      rintro (⟨w, h, -⟩ | ⟨w, h, -⟩ | ⟨w, h, -⟩ | ⟨w, h, -⟩ | ⟨w, h, -⟩) <;> exact nomatch h⟩,
   ⟨{ mem1 with futs := [⟨.group 0, 0, false, false, 0, .nacked, 0, false⟩] },
     .inr (.inl ⟨_, List.mem_singleton.2 rfl, .inl rfl, by decide, .inl rfl⟩), rfl, by decide⟩,
   ⟨_, ⟨by decide, by decide, by decide, by decide, rfl, by decide, by decide⟩, by decide⟩,
   ⟨_, ⟨by decide, by decide, by decide, by decide, rfl, by decide, by decide⟩, by decide, by decide⟩,
   ⟨_, ⟨by decide, by decide, by decide, by decide, rfl, by decide, by decide⟩⟩⟩

theorem witness_RegisterSteps :
    (∃ s : State, s.io.nodeidSet = true) ∧
    (∀ off ∈ [0x80, 0x128, 0x300, 0x50018, 0x40, 0x308], ∃ s : State, s.msg.off = off ∧ s.msg.val < 2 ^ 64) ∧
    (∃ s : State, s.msg.num = 63 ∧ s.msg.num < 64 ∧ s.io.msix.fnMask = false ∧ 63 ∈ s.io.msix.pending) :=
  ⟨⟨{ unit1 with io := { unit1.io with nodeidSet := true } }, rfl⟩,
   fun off _ => ⟨withMsg unit1 { off := off, val := 2 ^ 64 - 1 }, rfl, (by decide : 2 ^ 64 - 1 < 2 ^ 64)⟩,
   ⟨{ withMsg unit1 { num := 63 } with io := { unit1.io with msix := { unit1.io.msix with fnMask := false, pending := [63] } } },
     rfl, by decide, rfl, by decide⟩⟩

/-- unit1 with a line at its home slice. -/
def unit2 : State := { unit1 with pm := { unit1.pm with lines := [⟨0xA0, false, 0, RationRec.reset⟩] } }

theorem atHome_ok (s : State) (pa n : Nat) (h : Memory.wf s.pm = true) (k : paKind s pa = .hbm) (hp : pa < 2 ^ 52)
    (hl : pa % 128 + n ≤ 128) (hn : 0 < n) (hc : s.chains = []) : AtHome s pa n :=
  ⟨h, .inl k, hp, hl, hn, by simp [Undisturbed, hc]⟩

theorem witness_HomeSlices :
    (AtHome unit1 0x5000 128 ∧ AtHome unit1 0x507F 1) ∧
    (∀ n ∈ [4, 8], n = (if n = 4 then 4 else 8) ∧ 0x5008 % n = 0 ∧ AtHome unit1 0x5008 n ∧
      (busRead unit1 (whoMsg unit1) 0x5008 n).2.1 = false) ∧
    (paKind unit2 (0xA0 * 128) = .hbm ∧ Memory.wf unit2.pm = true ∧ unit2.msg.ok = true ∧ nodeOf (0xA0 * 128) = unit2.io.nodeid ∧
      NoDeviceQueue unit2 ∧ FirstError unit2 0xA0 ∧ unit2.msg.lost = .data ∧ unit2.pm.line? 0xA0 = some ⟨0xA0, false, 0, RationRec.reset⟩) ∧
    (∃ s : State, s.msg.line = 0xA0 ∧ s.msg.ok = false ∧ NoDeviceQueue s ∧ nodeOf (0xA0 * 128) = s.io.nodeid) ∧
    (∃ (s : State) (x : Line), s.msg.line = 0xA0 ∧ s.pm.line? 0xA0 = some x ∧ nodeOf (0xA0 * 128) = s.io.nodeid ∧ NoDeviceQueue s ∧
      FirstError s 0xA0 ∧ s.msg.lost = .feBit 15) ∧
    (∃ s : State, s.msg.pa = 0x5008 ∧ millTag s.msg.tag = true ∧ 0x5008 % (cw s.msg.tag / 8) = 0 ∧ paKind s 0x5008 = .hbm ∧
      s.pm.present (lineOf 0x5008) = false) ∧
    (∃ s : State, s.msg.pa = 0x5008 ∧ millTag s.msg.tag = true ∧ s.pm.present (lineOf 0x5008) = true ∧ AtHome s 0x5008 (cw s.msg.tag / 8)) ∧
    (∀ w, ∃ (s : State) (g : Group), s.msg.wr = w ∧ findGroup s s.msg.gid = some g ∧ 64 = max 1 (min s.msg.n 64) ∧ s.msg.va % 64 = 0 ∧
      spLocate s g s.msg.va 64 = some (0, 64) ∧ tabWf s.sp.cells = true) ∧
    (∃ s : State, (portOf s s.msg.port).up = true ∧ isDuplicate s s.msg.src s.msg.seq = false ∧ AtHome s 0x5008 8 ∧
      nodeOf 0x5008 = s.io.nodeid ∧ s.msg.req = .read 0x5008 8) ∧
    (∃ s : State, (portOf s s.msg.port).up = true ∧ isDuplicate s s.msg.src s.msg.seq = false ∧ AtHome s 0x5008 8 ∧
      s.msg.req = .write 0x5008 8 7) ∧
    (∃ s : State, (portOf s s.msg.port).up = true ∧ isDuplicate s s.msg.src s.msg.seq = true) := by
  let up : Port := { Port.reset with up := true }
  refine ⟨⟨atHome_ok _ _ _ (by decide) (by decide) (by decide) (by decide) (by decide) rfl,
      atHome_ok _ _ _ (by decide) (by decide) (by decide) (by decide) (by decide) rfl⟩, ?_,
    ⟨by decide, by decide, by decide, by decide, by unfold NoDeviceQueue; decide, nofun, by decide, by decide⟩,
    ⟨withMsg unit2 { line := 0xA0, ok := false }, rfl, rfl, by unfold NoDeviceQueue; decide, by decide⟩,
    ⟨withMsg unit2 { line := 0xA0, lost := .feBit 15 }, _, rfl, rfl, by decide, by unfold NoDeviceQueue; decide, nofun, rfl⟩,
    ⟨withMsg unit1 { pa := 0x5008, tag := 0x0A }, rfl, by decide, by decide, by decide, by decide⟩,
    ⟨withMsg unit2 { pa := 0x5008, tag := 0x0A }, rfl, by decide, by decide,
      atHome_ok _ _ _ (by decide) (by decide) (by decide) (by decide) (by decide) rfl⟩,
    fun w => ⟨withMsg vec3 { va := 64, n := 100, wr := w }, _, rfl, rfl, by cases w <;> decide, by cases w <;> decide, by cases w <;> rfl, by cases w <;> decide⟩,
    ⟨{ withMsg unit1 { req := .read 0x5008 8 } with io := { unit1.io with ports := [(0, up)] } }, by decide, by decide,
      atHome_ok _ _ _ (by decide) (by decide) (by decide) (by decide) (by decide) rfl, by decide, rfl⟩,
    ⟨{ withMsg unit1 { req := .write 0x5008 8 7 } with io := { unit1.io with ports := [(0, up)] } }, by decide, by decide,
      atHome_ok _ _ _ (by decide) (by decide) (by decide) (by decide) (by decide) rfl, rfl⟩,
    ⟨{ withMsg unit1 { src := 3, seq := 9 } with io := { unit1.io with ports := [(0, up)], peerSeq := [(3, [9])] } }, by decide, by decide⟩⟩
  intro n hn
  rcases List.mem_cons.1 hn with h | h
  · subst h
    exact ⟨rfl, rfl, atHome_ok _ _ _ (by decide) (by decide) (by decide) (by decide) (by decide) rfl, by decide⟩
  · obtain rfl : n = 8 := by simpa using h
    exact ⟨rfl, rfl, atHome_ok _ _ _ (by decide) (by decide) (by decide) (by decide) (by decide) rfl, by decide⟩

/-- unit1 with a line of the host window. -/
def unit3 (r : RationRec) : State := { unit1 with pm := { unit1.pm with lines := [⟨0x40000000000 / 128, false, 5, r⟩] } }

theorem witness_HostAccess :
    Memory.wf unit1.pm = true ∧ hostReady unit1 = true ∧
    (∃ s : State, s.msg.half = 0x140 ∧ ownHalf s 0x140 = true ∧ Undisturbed s 0x5000 64 ∧ hostReady s = true) ∧
    (∃ (s : State) (x : Line), s.msg.half = 0x141 ∧ ownHalf s 0x141 = true ∧ Undisturbed s 0x5040 64 ∧ Memory.wf s.pm = true ∧
      s.pm.line? 0xA0 = some x ∧ halfState x.outside 0x141 = 2 ∧ s.msg.bytes = [(63, 200)]) ∧
    (∃ s : State, s.msg.pa = 0x5030 ∧ s.msg.n = 16 ∧ AtHome s 0x5030 16 ∧ 0x5030 % 64 + 16 ≤ 64 ∧ ownHalf s (0x5030 / 64) = true ∧
      hostReady s = true) ∧
    (∀ st ∈ [Ration.none, .live], ∃ (s : State) (x : Line), s.msg.line = 0x40000000000 / 128 ∧ hostReady s = true ∧
      holdsHost s s.msg.line = true ∧ s.pm.line? s.msg.line = some x ∧ x.ration.st = st) ∧
    (∃ s : State, s.msg.line = 0x40000000000 / 128 ∧ hostReady s = true ∧ paKind s (s.msg.line * 128) = .host) ∧
    (∃ s : State, s.msg.pa = 0x5008 ∧ AtHome s 0x5008 8 ∧ nodeOf 0x5008 = s.io.nodeid ∧ paKind s 0x5008 = .hbm) ∧
    (∃ s : State, s.msg.pa < 2 ^ 52 ∧ s.msg.pa % 8 = 0 ∧ nodeOf s.msg.pa ≠ s.io.nodeid ∧ NoDeviceQueue s) :=
  ⟨by decide, by decide,
   ⟨withMsg unit1 { half := 0x140 }, rfl, by decide, by unfold Undisturbed; decide, by decide⟩,
   ⟨{ withMsg unit1 { half := 0x141, bytes := [(63, 200)] } with pm := { unit1.pm with lines := [⟨0xA0, false, 8, RationRec.reset⟩] } }, _,
     rfl, by decide, by unfold Undisturbed; decide, by decide, rfl, by decide, rfl⟩,
   ⟨withMsg unit1 { pa := 0x5030, n := 16 }, rfl, rfl,
     atHome_ok _ _ _ (by decide) (by decide) (by decide) (by decide) (by decide) rfl, by decide, by decide, by decide⟩,
   fun st _ => ⟨withMsg (unit3 ⟨st, 1, 0, 0, 0⟩) { line := 0x40000000000 / 128 }, ⟨_, _, _, ⟨st, 1, 0, 0, 0⟩⟩, rfl, by cases st <;> decide, by cases st <;> rfl, by cases st <;> rfl, rfl⟩,
   ⟨withMsg unit1 { line := 0x40000000000 / 128 }, rfl, by decide, by decide⟩,
   ⟨withMsg unit1 { pa := 0x5008 }, rfl, atHome_ok _ _ _ (by decide) (by decide) (by decide) (by decide) (by decide) rfl, by decide, by decide⟩,
   ⟨withMsg unit1 { pa := 2 ^ 43 }, by decide, by decide, by decide, by unfold NoDeviceQueue; decide⟩⟩

/-! ### Hypotheses met: rations, futures and engines -/

/-- unit1 with a live line of `k` counts of which `r` are reserved, under entry 63 of core 0. -/
def live1 (k r : Nat) : State :=
  { withMsg unit1 { unit := 0xA0, line := 0xA0, count := 255 - k, scope := 3 } with
    pm := { unit1.pm with lines := [⟨0xA0, false, 0, ⟨.live, k, r, 3, 63⟩⟩] }
    ra := { unit1.ra with
      entries := [⟨0, 63, 3, some 0x5008, 1, 0, 0, true, 0, 0⟩]
      events := [(0, 63)] } }

/-- Eight live lines of one set, and a ninth to be declared. -/
def fullSet : State :=
  { withMsg unit1 { line := 0xA0 + 1572995, count := 1 } with
    pm := { unit1.pm with lines := [0, 196844, 393272, 589957, 786385, 983229, 1179882, 1376342].map (fun i => ⟨0xA0 + i, false, 0, ⟨.live, 1, 0, 0, 0⟩⟩) } }

/-- unit1 with a close of team scope 3 that waits for slice 0 or core 255. -/
def close1 (slices cores : List Nat) : Close := ⟨3, some 0, none, 0, slices, cores, [(0, 63)]⟩

theorem futureHome_ok (s : State) (pa : Nat) (h : Memory.wf s.pm = true) (k : paKind s pa = .hbm) (h8 : pa % 8 = 0)
    (hp : pa < 2 ^ 52) (hc : s.chains = []) : FutureHome s pa :=
  ⟨h, k, h8, hp, by simp [Undisturbed, hc]⟩

theorem witness_RationSteps :
    (∀ k ∈ [2, 255], (rationOf (live1 k 1) (msgUnit (live1 k 1))).st = .live ∧
      (rationOf (live1 k 1) (msgUnit (live1 k 1))).reserved < (rationOf (live1 k 1) (msgUnit (live1 k 1))).count ∧
      0 < (rationOf (live1 k 1) (msgUnit (live1 k 1))).reserved ∧ 1 < (rationOf (live1 k 1) (msgUnit (live1 k 1))).count) ∧
    (¬ (rationOf (live1 1 1) (msgUnit (live1 1 1))).reserved < (rationOf (live1 1 1) (msgUnit (live1 1 1))).count ∧
      0 < (rationOf (live1 1 1) (msgUnit (live1 1 1))).reserved ∧ (rationOf (live1 1 1) (msgUnit (live1 1 1))).count ≤ 1 ∧
      RationForm (live1 1 1)) ∧
    ((live1 1 0).msg.count = 254 ∧ rationOf (live1 1 0) (.line 0xA0) = ⟨.live, 1, 0, (live1 1 0).msg.scope, 63⟩ ∧ 1 + 254 ≤ 255) ∧
    (NoneHeld (live1 1 0) 0xA0 ∧ 0 < (live1 1 0).msg.count ∧ paKind (live1 1 0) (0xA0 * 128) = .hbm) ∧
    (∃ s : State, s.msg.line = 0xA0 ∧ s.msg.count = 1 ∧ paKind s (0xA0 * 128) = .hbm ∧ ¬ NoneHeld s 0xA0) ∧
    (NoneHeld unit1 0xA0 ∧ paKind unit1 (0xA0 * 128) = .hbm) ∧
    (paKind fullSet (fullSet.msg.line * 128) = .hbm ∧ fullSet.msg.count = 1 ∧ rationOf fullSet (.line fullSet.msg.line) = RationRec.reset ∧ quota fullSet fullSet.msg.line ≤ liveInSet fullSet fullSet.msg.line) ∧
    (rationOf unit1 (.line 0xA0) = RationRec.reset ∧ liveInSet unit1 0xA0 < quota unit1 0xA0 ∧ Memory.wf unit1.pm = true) ∧
    (∃ e, takeNth (live1 1 0).ra.events (live1 1 0).msg.idx = some ((0, 63), []) ∧ entryOf (live1 1 0) 0 63 = some e ∧ e.lines = 1 ∧
      e.sealed = true ∧ e.notify = some 0x5008 ∧ FutureHome (live1 1 0) 0x5008) ∧
    (∀ n ∈ [1, 2], ∃ (s : State) (e : DeclEntry), takeNth s.ra.events s.msg.idx = some ((0, 63), []) ∧ entryOf s 0 63 = some e ∧
      e.lines = n ∧ e.sealed = true ∧ e.notify = none) ∧
    (∃ s : State, s.msg.unit = 511 ∧ RationForm s ∧ NoQueueFor s none ∧
      s.ra.closes.find? (fun c => if s.msg.unit < 256 then c.slices.contains s.msg.unit else c.cores.contains (s.msg.unit - 256)) =
        some (close1 [] [255])) ∧
    (∃ s : State, s.msg.unit = 0 ∧ RationForm s ∧ NoQueueFor s none ∧
      s.ra.closes.find? (fun c => if s.msg.unit < 256 then c.slices.contains s.msg.unit else c.cores.contains (s.msg.unit - 256)) =
        some (close1 [0] [])) ∧
    (∃ s : State, s.ra.closes.find? (fun c => decide (c.slices = []) && decide (c.cores = [])) = some (close1 [] [])) :=
  ⟨by decide, ⟨by decide, by decide, by decide, by unfold RationForm; decide⟩, by decide,
   ⟨by unfold NoneHeld; decide, by decide, by decide⟩,
   ⟨{ withMsg unit1 { line := 0xA0, count := 1 } with ra := { unit1.ra with held := [⟨0xA0, 1, 0, 0, 0⟩] } }, rfl, rfl, by decide,
     fun h => h _ (List.mem_singleton.2 rfl) rfl⟩,
   ⟨by unfold NoneHeld; decide, by decide⟩, by decide, by decide,
   ⟨_, by decide, rfl, rfl, rfl, rfl, futureHome_ok _ _ (by decide) (by decide) (by decide) (by decide) rfl⟩,
   fun n _ => ⟨{ unit1 with ra := { unit1.ra with entries := [⟨0, 63, 3, none, n, 0, 0, true, 0, 0⟩], events := [(0, 63)] } }, _, by rfl, by rfl,
     rfl, rfl, rfl⟩,
   ⟨{ withMsg unit1 { unit := 511 } with ra := { unit1.ra with closes := [close1 [] [255]] } }, rfl, by unfold RationForm; decide,
     by unfold NoQueueFor; decide, by rfl⟩,
   ⟨{ withMsg unit1 { unit := 0 } with ra := { unit1.ra with closes := [close1 [0] []] } }, rfl, by unfold RationForm; decide,
     by unfold NoQueueFor; decide, by rfl⟩,
   ⟨{ unit1 with ra := { unit1.ra with closes := [close1 [] []] } }, by rfl⟩⟩

/-- unit1 with the wait of `w` on the word at 0x5008, in a state. -/
def wait1 (w : Waiter) (e : Bool) (st : FutState) : State :=
  { withMsg unit1 { pa := 0x5008, who := w } with futs := [⟨w, 0x5008, e, false, 0, st, 8, true⟩] }

theorem witness_FutureSteps :
    (∃ s : State, s.msg.pa = 0x5008 ∧ FutureHome s 0x5008 ∧ (sliceRead s 0x5008 8).2.1 = false) ∧
    (∀ e, ∃ f, PlainWaiter (.group 0) ∧ futOf (wait1 (.group 0) e (.waking 7 false)) (.group 0) = some f ∧ f.st = .waking 7 false ∧
      f.emptying = e ∧ FutureHome (wait1 (.group 0) e (.waking 7 false)) f.pa ∧
      (sliceRead (wait1 (.group 0) e (.waking 7 false)) f.pa 8).2.1 = false) ∧
    (∃ f, PlainWaiter (.queue 0) ∧ futOf (wait1 (.queue 0) false (.answering 7 true)) (.queue 0) = some f ∧ f.st = .answering 7 true) ∧
    (∃ f, futOf (wait1 (.group 0) false .nacked) (.group 0) = some f ∧ f.st = .nacked) ∧
    (∃ f, futOf (wait1 (.group 0) true .backoff) (.group 0) = some f ∧ f.st = .backoff ∧
      waiterGid (.group 0) = some (wait1 (.group 0) true .backoff).g.gid ∧ (wait1 (.group 0) true .backoff).g.live = true ∧
      FutureHome (wait1 (.group 0) true .backoff) f.pa ∧ (sliceRead (wait1 (.group 0) true .backoff) f.pa 8).2.1 = false) ∧
    (∃ f, PlainWaiter (.vp 0 3) ∧ futOf (wait1 (.vp 0 3) false (.parked 0 0)) (.vp 0 3) = some f ∧ f.timed = true) ∧
    (∃ (s : State) (r : FldvRun), Mine s ∧ (∀ g v, s.msg.who ≠ .vp g v) ∧ s.g.fldv = some r ∧ r.timed = true ∧ r.fail = none) :=
  ⟨⟨withMsg unit1 { pa := 0x5008 }, rfl, futureHome_ok _ _ (by decide) (by decide) (by decide) (by decide) rfl, by decide⟩,
   fun e => ⟨_, .inl ⟨0, rfl⟩, rfl, rfl, rfl,
     futureHome_ok _ _ (by cases e <;> decide) (by cases e <;> decide) (by cases e <;> decide) (by cases e <;> decide) rfl,
     by cases e <;> decide⟩,
   ⟨_, .inr (.inr ⟨0, rfl⟩), rfl, rfl⟩,
   ⟨_, rfl, rfl⟩,
   ⟨_, rfl, rfl, rfl, rfl, futureHome_ok _ _ (by decide) (by decide) (by decide) (by decide) rfl, by decide⟩,
   ⟨_, .inr (.inl ⟨0, 3, rfl⟩), rfl, rfl⟩,
   ⟨{ run1 with g := { run1.g with fldv := some ⟨1, 2, [0], [0], 4, true, none, false, none⟩ } }, _, by unfold Mine; decide, nofun, rfl, rfl, rfl⟩⟩

/-- A linear transfer of 8 bytes from 0x1000 to 0x1100, of batch 1 of token 7, in a phase, with `u` units done. -/
def xfer1 (ph : XferPhase) (u : Nat) : Xfer :=
  ⟨9, 0, 7, 1, mat1.g.asid, false, ph, (((Vector.replicate 16 0).set 0 0x1000).set 1 0x1100).set 2 0x1000000000000000 |>.set 4 8, none, 0, 0, [], 4, 0, 0,
    u, 0, false, [], [], 0, reg 0 [], MReg.reset, (0, false), none, false⟩

/-- mat1 with the transfer; batches below 1 are done, the open one is 2. -/
def eng1 (ph : XferPhase) (u : Nat) : State :=
  { withMsg mat1 { id := 9 } with
    eng := { mat1.eng with xfers := [xfer1 ph u], regions := mat1.eng.regions }
    g := { mat1.g with tok := mat1.g.tok.set 7 ⟨none, 0, 2, []⟩ } }

/-- A matrix operation on v8 and v9 of mat1. -/
def mop1 (k : MatKind) (ph : MatPhase) (n core : Nat) : MatOp :=
  ⟨n, core * 16, core, k, 0, 0, ph, 0, 4, 4, 32, .vreg 8, .vreg 9, 0, 0x0B, 0x0B, 0, false, [], false, 1⟩

def eng2 (l : List MatOp) : State :=
  { withMsg mat1 { id := 4, num := 1 } with eng := { mat1.eng with mats := l, leaves := l.map (fun o => ⟨0, o.gid, none, some o.id, none, 2, true⟩) } }

/-- mat1 with a request for the whole of a budget, with one for less while some is held, and with one for more. -/
def eng3 (held n : Nat) : State :=
  { mat1 with eng := { mat1.eng with leaves := [⟨0, 0, some 1, none, none, held, true⟩, ⟨0, 0, none, some 2, none, n, false⟩] } }

theorem witness_EngineSteps :
    (OnlyId (eng1 .place 0).eng.xfers Xfer.id (xfer1 .place 0) ∧
      (eng1 .place 0).eng.xfers.find? (fun x => x.gid / 16 == (eng1 .place 0).msg.core && x.phase == .place) = some (xfer1 .place 0) ∧
      placesUsed (eng1 .place 0) 0 < 64) ∧
    (OnlyId (eng1 .queued 0).eng.xfers Xfer.id (xfer1 .queued 0) ∧ beginNext (eng1 .queued 0) 0 = some (xfer1 .queued 0)) ∧
    (∃ s1 s2, let s := eng1 .running 0
      let x := xfer1 .running 0
      msgXfer s = some x ∧ OnlyId s.eng.xfers Xfer.id x ∧ s.g.live = true ∧ x.gid = s.g.gid ∧ x.failed = false ∧ x.unit = 0 ∧ dLen x.desc = 8 ∧
      (dKind x.desc = 1 ∧ dSrcK x.desc = 0 ∧ dDstK x.desc = 0 ∧ dFold x.desc = 0) ∧ x.rows = none ∧ x.decl = none ∧
      dWord x.desc 0 % 128 + 8 ≤ 128 ∧ dWord x.desc 1 % 128 + 8 ≤ 128 ∧
      checkLoc s (whoX s.g x) kRead (.va (dWord x.desc 0)) 8 1 = (.ok (.pa 0x5000), s1) ∧
      checkLoc s1 (whoX s.g x) kWrite (.va (dWord x.desc 1)) 8 1 = (.ok (.pa 0x5100), s2) ∧ AtHome s 0x5000 8 ∧ AtHome s 0x5100 8 ∧
      paKind s 0x5000 = .hbm ∧ paKind s 0x5100 = .hbm ∧ Seen s2 (whoX s.g x) 0x5000 8 ∧ s.sp.poison = [] ∧ s.pm.poisoned = [] ∧ (∀ l ∈ s.pm.lines, l.poison = false) ∧ ∀ c ∈ s.chains, c.poison = false) ∧
    (let s := eng1 .running 1
      let x := xfer1 .running 1
      msgXfer s = some x ∧ s.eng.xfers = [x] ∧ s.eng.mats = [] ∧ s.g.live = true ∧ x.gid = s.g.gid ∧ xferReady s x = true ∧ x.adds = [] ∧
      x.decl = none ∧ x.mreg = 0 ∧ x.ret = 0 ∧ dDstK x.desc ≠ 2 ∧ SourcesKept s x ∧ (tokOf s 7).fails = [] ∧ x.batch = ((tokOf s 7).done + 1) % 65536 ∧
      (tokOf s 7).opn < 65536 ∧ (tokOf s 7).opn = (x.batch + 1) % 65536) ∧
    (OnlyId (eng2 [mop1 .mma .leave 4 0]).eng.mats MatOp.id (mop1 .mma .leave 4 0) ∧
      matNext (eng2 [mop1 .mma .leave 4 0]) 0 = some (mop1 .mma .leave 4 0)) ∧
    (∃ r, MatRuns (eng2 [mop1 .mma .running 4 0]) (mop1 .mma .running 4 0) r ∧ (eng2 [mop1 .mma .running 4 0]).eng.xfers = []) ∧
    (let s := eng2 [mop1 (.mjoin 0 1 0) .join 4 0, mop1 (.mjoin 0 1 1) .join 5 1]
      let ops := (jointOps s (s.msg.core, s.msg.num)).filter (fun o => o.phase == .join)
      jointFull ops = true ∧ jointMixed ops = false ∧ ops.any MatOp.consume = false ∧ (s.eng.mats.map MatOp.id).Nodup) ∧
    (∃ (s : State) (b : Nat), Mine s ∧ s.g.waits.zset = some (7, 0x28001, 1) ∧ freeRun s s.g.pl.core 1 = some b ∧ regionOf s s.g.gid 7 = none) ∧
    (∀ p ∈ [(0, 64), (0, 1000), (62, 2)], ∃ l, leaveNext (eng3 p.1 p.2) 0 = some l ∧
      leaveHeld (eng3 p.1 p.2) 0 + leaveCost (eng3 p.1 p.2) l ≤ budgetOf (eng3 p.1 p.2) 0) ∧
    (∃ l, leaveNext (eng3 63 2) 0 = some l ∧ budgetOf (eng3 63 2) 0 < leaveHeld (eng3 63 2) 0 + leaveCost (eng3 63 2) l) :=
  ⟨by unfold OnlyId; decide, by unfold OnlyId; decide,
   ⟨_, _, by decide, by unfold OnlyId; decide, by decide, by decide, by decide, by decide, by decide, by decide, by decide, by decide, by decide,
     by decide, by rfl, by rfl, atHome_ok _ _ _ (by decide) (by decide) (by decide) (by decide) (by decide) rfl,
     atHome_ok _ _ _ (by decide) (by decide) (by decide) (by decide) (by decide) rfl, by decide, by decide, by unfold Seen; decide, by decide, by decide, by decide, by decide⟩,
   ⟨by decide, by decide, by decide, by decide, by decide, by decide, by decide, by decide, by decide, by decide, by decide, ⟨by decide, nofun⟩,
     by decide, by decide, by decide, by decide⟩, by unfold OnlyId; decide,
   ⟨_, ⟨by decide, by unfold OnlyId; decide, by decide, by decide, by decide, by decide, rfl, by decide⟩, by decide⟩,
   by decide,
   ⟨{ mat1 with g := { mat1.g with waits := { mat1.g.waits with zset := some (7, 0x28001, 1) } } }, _, by unfold Mine; decide, rfl, rfl, by decide⟩,
   fun p hp => ⟨⟨0, 0, none, some 2, none, p.2, false⟩, by
      simp only [List.mem_cons, List.not_mem_nil, or_false] at hp
      rcases hp with rfl | rfl | rfl <;> rfl, by
      simp only [List.mem_cons, List.not_mem_nil, or_false] at hp
      rcases hp with rfl | rfl | rfl <;> decide⟩,
   ⟨_, rfl, by decide⟩⟩

/-! ### Hypotheses met: steps of a group's own units, saving and restoring -/

/-- vec1 bound and queued as a message finds it: strip queue 0 with `n` entries, an entry waiting for room, v1 bound to the
queue's read end and starved, v2 bound to a stream of 4 elements with 3 read ahead. -/
def grp1 (n : Nat) : State :=
  let s := withMsg (withV vec2 2 (reg 0x05 [])) { reg := 2, tok := 7 }
  { s with
    eng := { s.eng with strips := [⟨0, 0, 0, some 1, none, List.replicate n .endMark⟩] }
    g := { s.g with
      appends := [(0, .endMark, false)]
      waits := { s.g.waits with starved := some 1 }
      binds := [⟨1, .queueRead 0⟩, ⟨2, .stream ⟨0x1000, 4, false, false, 4, 1⟩ 0 [(1, false), (2, false), (3, false)]⟩] } }

/-- run1 with a lockstep body of three words, at word `n`. -/
def grp2 (n : Nat) : State :=
  { run1 with g := { run1.g with
      aib := some ⟨0x1000, false, [.tfetch 1 2 false, .xqsend 1 0, .xqrecv 1 0], n, 0⟩
      vps := [⟨0, .lockstep, none, 0⟩, ⟨1, .lockstep, none, 16⟩] } }

/-- An independent VP at word `n` of a body. -/
def vp3 (n : Nat) : Vp :=
  ⟨2, .indep 0x1000 false [.vadd 1 1 2 0 false false, .vadd 1 1 2 0 false false, .vadd 1 1 3 0 false false] n, none, 0⟩

/-- vec2 with that VP, whose turn the message says is `vp`'s. -/
def grp3 (n vp : Nat) : State :=
  { withMsg vec2 { vp := vp } with g := { vec2.g with
      vps := [vp3 n] } }

theorem grp3_served : ∀ p ∈ [(1, 2), (1, 66), (2, 2), (3, 2)], ServedNext (grp3 p.1 p.2) (vp3 p.1) := by
  intro p hp
  refine ⟨List.mem_singleton.2 rfl, ?_, fun w hw _ _ => ?_⟩
  · simp only [List.mem_cons, List.not_mem_nil, or_false] at hp
    rcases hp with rfl | rfl | rfl | rfl <;> rfl
  · cases List.mem_singleton.1 hw
    exact Nat.le_refl _

/-- run1 with one convoy in its queue, which heads it and has not begun. -/
def grp5 (words : List Instr) : State :=
  { run1 with g := { run1.g with vq := [entryHere run1.g words false] } }

/-- team1S with an arrival of its group, from its present word, of generation 0 at barrier 15 which has since completed. -/
def grp4 : State :=
  { team1S with
    teams := [{ team1 with bars := team1.bars.set 15 ⟨1, 0, 1, false, []⟩ }]
    g := { team1S.g with arrived := [⟨team1S.g.pc, 15, 0, 31⟩] } }

theorem witness_GroupSteps :
    (∀ p ∈ [(Instr.seedWrite, 0x032), (.secroleWrite, 0x012), (.asidWrite, 0x070), (.bseqWrite, 0x067)],
      Mine (withMsg run1 { tok := 7, val := 1 }) ∧ deferredForm (withMsg run1 { tok := 7, val := 1 }) p.1 = some p.2 ∧
      queueHeld run1 = false ∧ vpIndependent run1.g = false ∧ tokenBusy run1 7 = false ∧ run1.g.portable = false ∧
      NoneCompletes p.2 (BitVec.ofNat 64 (withMsg run1 { tok := 7, val := 1 }).msg.val)) ∧
    (∀ n ∈ [0x000, 0x001, 0x002, 0x020, 0x021, 0x022, 0x031],
      Mine (withMsg run1 { num := n }) ∧ deferredForm (withMsg run1 { num := n }) .sysregDeferredWrite = some n) ∧
    (∃ s, Mine s ∧ deferredForm s .seedWrite = some 0x032 ∧ queueHeld s = true) ∧
    (∃ s, Mine s ∧ deferredForm s .secroleWrite = some 0x012 ∧ s.g.portable = true ∧ roleSplits s s.msg.val = true) ∧
    (∀ n ∈ [1, 15, 16], ∃ x, Mine (grp1 n) ∧ (grp1 n).g.appends = [(0, .endMark, false)] ∧
      stripOf (grp1 n) (grp1 n).g.pl.core 0 = some x ∧ x.entries.length = n ∧ (grp1 n).g.waits.starved = some 1 ∧
      boundTo (grp1 n).g 1 = some (.queueRead 0) ∧ ∃ e rest, x.entries = e :: rest) ∧
    (∃ l v bad s1 s2, Mine (grp1 0) ∧ boundTo (grp1 0).g (grp1 0).msg.reg =
        some (.stream ⟨0x1000, 4, false, false, 4, 1⟩ 0 [(1, false), (2, false), (3, false)]) ∧
      checkLoc (grp1 0) (whoG (grp1 0)) kRead ((StreamDesc.mk 0x1000 4 false false 4 1).loc (tagOf (grp1 0) 2) 3) 4 4 = (.ok l, s1) ∧
      plRead s1 (whoG s1) l 4 = (v, bad, s2)) ∧
    (∀ n, Mine (grp2 n)) ∧ ([0, 1, 2].map (fun n => (grp2 n).g.aib.bind (fun a => a.body[a.pos]?)) =
      [some (.tfetch 1 2 false), some (.xqsend 1 0), some (.xqrecv 1 0)]) ∧
    (∃ a, (grp2 3).g.aib = some a ∧ a.xq = false ∧ a.body.length ≤ a.pos ∧ (grp2 3).g.fldv = none ∧ (grp2 3).g.abandoned = false ∧ ((grp2 3).g.vps.map Vp.idx).Nodup ∧
      ∀ v ∈ (grp2 3).g.vps, v.st = .lockstep ∧ v.target = none) ∧
    (∀ n ∈ [1, 2, 3], Mine (grp3 n 2) ∧ ((grp3 n 2).g.vps.map Vp.idx).Pairwise (· < ·) ∧ ServedNext (grp3 n 2) (vp3 n) ∧ (vp3 n).idx = 2 ∧ (vp3 n).target = none) ∧
    (ServedNext (grp3 1 66) (vp3 1) ∧ laneOf (grp3 1 66) 2 = laneOf (grp3 1 66) 66) ∧
    (∃ s0 s1 v1, ServedNext (grp3 1 2) (vp3 1) ∧ s0 = served (grp3 1 2) (vp3 1) ∧ anyWord (.vadd 1 1 2 0 false false) s0 (vpCtx s0 2) = .done s1 ∧
      s1.g.vps.find? (fun w => w.idx == 2) = some v1) ∧
    (∃ s0 s1 c x e b v1, ServedNext (grp3 2 2) (vp3 2) ∧ s0 = served (grp3 2 2) (vp3 2) ∧
      anyWord (.vadd 1 1 3 0 false false) s0 (vpCtx s0 2) = .fail s1 c x e b ∧ s1.g.vps.find? (fun w => w.idx == 2) = some v1) ∧
    (∃ t0 r, Mine grp4 ∧ grp4.g.halt = none ∧ grp4.g.saving = none ∧ teamOf grp4 grp4.g = some t0 ∧ grp4.g.waits.cwait = none ∧
      grp4.g.arrived.find? (fun r => r.pc == grp4.g.pc) = some r ∧ r.rd < 32 ∧ (myBar grp4 false r.barrier).gen ≠ r.gen) ∧
    (∀ p ∈ [0, 1, 2], ∃ s t0, Mine s ∧ teamOf s s.g = some t0 ∧ s.g.waits.cwait = some (7, p) ∧
      (p = 2 ∨ (if (myBar s true 7).p then 1 else 0) ≠ p)) ∧
    (∀ p ∈ [(false, 15, 1), (false, 0, 0), (true, 7, 1), (true, 0, 1)], ∃ s g t0, s.msg.barrier = p.2.1 ∧ s.msg.cluster = p.1 ∧
      findGroup s s.msg.member = some g ∧ teamOf s g = some t0 ∧ p.2.1 < (if p.1 then 8 else 16) ∧
      (p.1 = true → (clusterOf s t0).isSome = true ∧ (barOf s t0 p.1 p.2.1).marks.contains s.msg.member = false)) ∧
    (∃ s g, findGroup s s.msg.gid = some g ∧ g.toll = 3 ∧ PursesForm s ∧ g.vq = []) ∧
    (let e : QueueEntry := entryHere run1.g [.vadd 1 2 3 0 false false, .vadd 4 5 6 0 false true] false;
      Mine (grp5 e.words) ∧ (grp5 e.words).g.vq = [e] ∧ e.begun = false ∧ queueBusy (grp5 e.words) = false ∧
        convoyConflict (grp5 e.words).g e.words = none ∧ ∀ i ∈ e.words, isVmul i = false) ∧
    (let e : QueueEntry := entryHere run1.g [.vadd 1 2 3 0 false false, .vadd 4 5 1 0 false true, .vadd 7 5 1 0 false true] false;
      Mine (grp5 e.words) ∧ (grp5 e.words).g.vq = [e] ∧ e.begun = false ∧ queueBusy (grp5 e.words) = false ∧
        convoyConflict (grp5 e.words).g e.words = some 2 ∧ ¬ halts (e.enter (grp5 e.words).g) e.pc) ∧
    ((allGroups vec1).map (fun g => (g.pl.core, g.pl.slot))).Nodup := by
  refine ⟨by unfold Mine NoneCompletes; decide, by unfold Mine; decide,
    ⟨{ run1 with g := { run1.g with fldv := some ⟨1, 2, [0], [0], 4, true, none, false, none⟩ } }, by unfold Mine; decide, rfl, by decide⟩,
    ⟨{ withMsg vec1 { val := 1 } with g := { vec1.g with portable := true } }, by unfold Mine; decide, rfl, rfl, by decide⟩, ?_,
    ⟨_, _, _, _, _, by unfold Mine; decide, rfl, by rfl, by rfl⟩, fun n => ⟨rfl, rfl⟩, by decide,
    ⟨_, rfl, rfl, by decide, rfl, rfl, by decide, by decide⟩, ?_, ⟨grp3_served (1, 66) (by decide), by decide⟩,
    ⟨_, _, _, grp3_served (1, 2) (by decide), rfl, by rfl, by rfl⟩, ⟨_, _, _, _, _, _, _, grp3_served (2, 2) (by decide), rfl, by rfl, by rfl⟩,
    ⟨_, _, by unfold Mine; decide, rfl, rfl, rfl, rfl, rfl, by decide, by decide⟩, ?_, ?_,
    ⟨{ run1 with g := { run1.g with toll := 3 } }, _, rfl, rfl, ⟨by decide, fun c => by rfl⟩, rfl⟩,
    ⟨by unfold Mine; decide, rfl, rfl, by decide, by decide, by decide⟩, ⟨by unfold Mine; decide, rfl, rfl, by decide, by decide, by decide⟩, by decide⟩
  · intro n hn
    simp only [List.mem_cons, List.not_mem_nil, or_false] at hn
    rcases hn with rfl | rfl | rfl <;> exact ⟨_, by unfold Mine; decide, rfl, rfl, rfl, rfl, rfl, _, _, rfl⟩
  · intro n hn
    simp only [List.mem_cons, List.not_mem_nil, or_false] at hn
    rcases hn with rfl | rfl | rfl <;> exact ⟨⟨rfl, rfl⟩, by decide, grp3_served (_, 2) (by decide), rfl, rfl⟩
  · intro p hp
    refine ⟨{ team1S with
      clusters := [{ cluster1 with bars := cluster1.bars.set 7 ⟨1, 0, 0, p == 0, []⟩ }]
      g := { team1S.g with waits := { team1S.g.waits with cwait := some (7, p) } } }, _, ⟨rfl, rfl⟩, rfl, rfl, ?_⟩
    simp only [List.mem_cons, List.not_mem_nil, or_false] at hp
    rcases hp with rfl | rfl | rfl <;> decide
  · intro p hp
    refine ⟨withMsg team1S { barrier := p.2.1, cluster := p.1 }, _, _, rfl, rfl, rfl, rfl, ?_⟩
    simp only [List.mem_cons, List.not_mem_nil, or_false] at hp
    rcases hp with rfl | rfl | rfl | rfl <;> decide

/-- vec1 with a group of core 1 at place 1 of the others, which the message names. -/
def away1 : State :=
  let g (slot : Nat) : Group := { run1.g with pl := { run1.g.pl with core := 1, slot := slot } }
  { withMsg vec1 { gid := 16 } with others := [g 5, g 0] }

theorem witness_StepsOfOtherGroups : ∀ i ∈ groupUnitSteps, ∃ g, Elsewhere away1 1 g :=
  fun _ _ => ⟨_, rfl, by decide, by decide, by decide, by
    intro j h hj hh
    obtain rfl : j = 0 := by omega
    cases hh
    decide⟩

/-- vec1 with its launch, at its first safe point, a request to save, and an arena of two granules at 0x10000. -/
def save1 (w1 : Nat) (d : Option Nat) : State :=
  { vec1 with
    pm := { vec1.pm with cells := wordsAt 0x5800 [(0, 0xFFFFFFFFFFFFFFFF), (1, w1)] }
    launches := [{ launch0 with image := { launch0.image with sptBase := 0x1800 } }]
    io := { vec1.io with arenaBase := 1, arenaSize := 5 }
    g := { vec1.g with
      atSpt := some (0, 0x1010)
      request := some ⟨[], true, false, d⟩ } }

def saveFull (b : Bool) : Saving := ⟨true, allLive, 0, 0, false, false, true, 0, .leave, b⟩

/-- A group saved whole, and run1 away from its slot. -/
def gone1 : State :=
  let v : Saved := ⟨{ vec1.g with pl := { vec1.g.pl with slot := 4096 } }, saveFull false, 64, 64, false, 0, 1, 0x10000, [5], [], [], [], []⟩
  { withMsg run1 { idx := 0 } with
    saved := [v]
    pm := { run1.pm with cells := wordsAt 0x10000 [(0, 5)] }
    launches := [launch0]
    g := { run1.g with live := false } }

/-- save1 away from a safe point, with a deadline that has passed. -/
def withAtSpt (a : Option (Nat × Word)) : State :=
  { save1 0 (some 0) with g := { (save1 0 (some 0)).g with atSpt := a } }

set_option maxRecDepth 8000 in
theorem witness_SaveSteps :
    (∃ r h s1, Mine (save1 0 none) ∧ AtSafePoint (save1 0 none) 0 0x1010 ∧ (save1 0 none).g.request = some r ∧ r.saves = true ∧
      readEntry (save1 0 none) 0 0x1010 = (some (some h), s1)) ∧
    (∃ r s1, Mine (save1 (2 ^ 50) none) ∧ AtSafePoint (save1 (2 ^ 50) none) 0 0x1010 ∧ (save1 (2 ^ 50) none).g.request = some r ∧
      readEntry (save1 (2 ^ 50) none) 0 0x1010 = (some none, s1)) ∧
    (∃ s e s1, Mine s ∧ AtSafePoint s 0 0x1010 ∧ s.g.request = none ∧ readEntry s 0 0x1010 = (some e, s1) ∧ growth s1 = []) ∧
    (∃ r, (save1 0 none).g.request = some r ∧ r.deadline = none) ∧
    (∃ r, Mine (withAtSpt none) ∧ FullSaveDue (withAtSpt none) r 0) ∧
    (∀ b, ∃ s, Mine s ∧ s.g.saving = some (saveFull b) ∧ saveQuiet s = true ∧ s.g.halt = none ∧ NothingAwaited s ∧ s.io.arenaSize = 0) ∧
    (∃ s b, Mine s ∧ s.g.saving = some (saveFull false) ∧ saveQuiet s = true ∧ s.g.halt = none ∧ NothingAwaited s ∧
      freeGranules s (ceilDiv (8 * (frameWords s { saveFull false with resume := s.g.pc } (s.eng.strips.filter (fun q => q.owner == s.g.gid))).length) 65536) = some b ∧
      Memory.wf s.pm = true ∧ s.chains = [] ∧ paKind s (granuleAddr s b) = .hbm) ∧
    (∃ v secs slot, Restorable gone1 v secs slot) ∧
    (∃ s : State, s.io.ctx = [⟨0, 1, []⟩]) ∧
    (∃ s : State, s.io.ctx = [⟨2, 1, [0]⟩]) :=
  ⟨⟨_, _, _, by unfold Mine; decide, by unfold AtSafePoint; decide, rfl, rfl, by rfl⟩,
   ⟨_, _, by unfold Mine; decide, by unfold AtSafePoint; decide, rfl, by rfl⟩,
   ⟨{ save1 0 none with g := { (save1 0 none).g with request := none } }, _, _, by unfold Mine; decide, by unfold AtSafePoint; decide, rfl, by rfl, by rfl⟩,
   ⟨_, rfl, rfl⟩,
   ⟨_, by unfold Mine; decide, rfl, rfl, by decide, rfl, rfl, rfl, rfl, rfl, nofun⟩,
   fun b => ⟨{ vec1 with g := { vec1.g with saving := some (saveFull b) } }, by unfold Mine; cases b <;> decide, rfl, by cases b <;> decide,
     rfl, ⟨nofun, rfl, rfl, rfl⟩, rfl⟩,
   ⟨{ run1 with io := { run1.io with arenaBase := 1, arenaSize := 5 }, g := { run1.g with saving := some (saveFull false) } }, 0, by unfold Mine; decide, rfl, by decide, rfl, ⟨nofun, rfl, rfl, rfl⟩, by decide,
     by decide, rfl, by decide⟩,
   ⟨_, _, _, rfl, by decide, by decide, by decide, by decide, nofun, ⟨by rfl, by decide⟩, ⟨by decide, rfl, by decide, by decide⟩, _, by rfl⟩,
   ⟨{ run1 with io := { run1.io with ctx := [⟨0, 1, []⟩] } }, rfl⟩,
   ⟨{ run1 with
      io := { run1.io with ctx := [⟨2, 1, [0]⟩] } }, rfl⟩⟩

/-! ### Hypotheses met: launches -/

/-- An entry of the address space table; a code object at 0x95000 of the device, of one image with one section and one
entry; and a start record of that object at 0x96000. -/
def object1 : List Host.Cell :=
  wordsAt 0x80000 [(1, 0x90001)] ++ wordsAt 0x95000 [(0, 0x4358340101000001), (1, 8192), (8, 0x0101FFFF), (9, 128), (10, 4096), (11, 4096), (15, 160),
    (16, 4096), (17, 4096)] ++
  wordsAt 0x96000 [(0, 0x0100000000010000), (7, 0x1100000100), (8, 64), (9, 1)]

/-- The record's words, with a priority. -/
def record1 (prio : Nat) : Vector Word 16 :=
  ((((Vector.replicate 16 0).set 0 (BitVec.ofNat 64 (0x0100000000010000 + prio * 2 ^ 32))).set 7 0x1100000100).set 8 64).set 9 1

/-- A launch of the record that waits, with sections, and with its first section's future filled. -/
def launch1 (prio : Nat) (start : Bool) (crc : Nat) : Launch :=
  { launch0 with
    id := 5
    words := record1 prio
    placed := 0
    started := 0
    image := { launch0.image with sections := [(start, 0, 0, 2, 128, crc)] }
    secs := [(0, .waiting)] }

/-- A booted device with the object at page 0 of address space 1, as a buffer has it, and queue 127 with that one record. -/
def lau1 : State :=
  { withMsg vec1 { queue := 127, launch := 5 } with
    pm := { vec1.pm with cells := object1, full := [0x95080 / 8] }
    xl := { vec1.xl with ctlb := [(511 * 256 + coreSet 1 0 12, [⟨1, 12, 0, 0x95000, 7, false⟩])] }
    io := { vec1.io with
      bootStage := 5
      astbase := 1
      hq := [(127, { HostQueue.reset with en := true, base := 0x12C0, seen := 1 })] } }

def lauWith (l : List Launch) : State := { lau1 with launches := l }

/-- The record as the launch unit reads it, the queue then, and the record's image. -/
def read1 : Option Nat × State := readRecord lau1 (0x12C0 * 128)
def next1 (s1 : State) : State := setHq s1 127 { hqOf lau1 127 with head := 1 }
def image1 : Option Image × State := recordImage (next1 read1.2) (record1 0)

theorem pair_eq {α β : Type} (p : Option α × β) (d : α) (h : p.1.isSome = true) : p = (some (p.1.getD d), p.2) := by
  obtain ⟨o, s⟩ := p
  cases o with
  | none => cases h
  | some a => rfl

theorem lau1_found : (read1.1.isSome && recordCode (next1 read1.2) (record1 0) == 0 &&
    Vector.ofFn (fun i => BitVec.ofNat 64 (word64 (read1.1.getD 0) i.val)) == record1 0) = true := by decide +kernel

theorem lau1_fits : (image1.1.isSome && everFits image1.2 (record1 0)) = true := by decide +kernel

theorem lau1_accepts : ∃ r s1, readRecord lau1 (0x12C0 * 128) = (some r, s1) ∧
    Vector.ofFn (fun i => BitVec.ofNat 64 (word64 r i.val)) = record1 0 ∧ recordCode (next1 s1) (record1 0) = 0 ∧
    ∃ img s3, recordImage (next1 s1) (record1 0) = (some img, s3) ∧ everFits s3 (record1 0) = true := by
  have h := lau1_found
  have k := lau1_fits
  simp only [Bool.and_eq_true, beq_iff_eq] at h k
  exact ⟨_, _, pair_eq read1 0 h.1.1, h.2, h.1.2, _, _, pair_eq image1 launch0.image k.1, k.2⟩

theorem witness_LaunchSteps :
    (∀ q ∈ [0, 127], q < 128) ∧
    (TailWritable lau1 (hostPa lau1 ((hqOf lau1 127).tail * 8)) ∧ Memory.wf lau1.pm = true ∧ (hqOf lau1 127).en = true ∧
      (hqOf lau1 127).stopped = false ∧ lau1.io.bootStage = 5) ∧
    (∃ s, s.msg.queue = 127 ∧ (hqOf s 127).en = true ∧ (hqOf s 127).reread = true ∧ (hqOf s 127).stopped = false) ∧
    hqReady lau1 127 = true ∧
    (∃ s : State, hqReady s 127 = true ∧ recordCode s (Vector.replicate 16 0) ≠ 0) ∧
    (nextPlacement (lauWith [launch1 7 false 0]) = some (launch1 7 false 0, 0) ∧
      findLaunch (lauWith [launch1 7 false 0]) 5 = some (launch1 7 false 0)) ∧
    nextPlacement lau1 = none ∧
    (let s := { lauWith [launch0, launch1 7 false 0] with g := { lau1.g with launch := 0 }, cycle := 65536 }
     let l := launch1 7 false 0
     findLaunch s s.msg.launch = some l ∧ l.unplaced ≠ 0 ∧ l.reserved = none ∧ l.killed = false ∧ l.held = false ∧
      65536 ≤ (s.cycle - l.since).toNat ∧ 0 ∈ legalCorners (recCols l.words) (recRows l.words) ∧
      0 ∈ rectCores 0 (recCols l.words) (recRows l.words) ∧ s.g ∈ allGroups s ∧ s.g.pl.core = 0 ∧
      prioOf s s.g < l.prio ∧ ownedSections s s.g ≠ []) ∧
    (∃ (s : State) (l : Launch), findLaunch s s.msg.launch = some l ∧ (s.cycle - l.since).toNat < 65536) ∧
    (∃ (s : State) (l : Launch) (p : Nat × Nat × List Nat), findLaunch s s.msg.launch = some l ∧ l.tasks = [0x1234] ∧ spawnCore s l = some p) ∧
    (∀ n ∈ [0, 1], ∃ (s : State) (l : Launch), findLaunch s s.msg.launch = some l ∧ launchDone s l = (n == 1) ∧ recWord l.words 5 = 0) ∧
    (∃ (s : State) (l : Launch), Fires s l ∧ NoQueueFor s (some l.id)) ∧
    (∃ (s : State) (l : Launch), findLaunch s s.msg.launch = some l ∧ l.wdlimit = 0) ∧
    (∃ (s : State) (l : Launch), findLaunch s s.msg.launch = some l ∧ l.wdlimit ≠ 0 ∧ l.wdcount < l.wdlimit) ∧
    (∀ st, ∀ c ∈ [crc32c [1, 0], 7], ∃ x bs, SectionRead (lauWith [launch1 0 st c]) (launch1 0 st c) x (some bs) ∧ x.start = st ∧
      (launch1 0 st c).placed = 0 ∧ crc32c bs = crc32c [1, 0]) ∧
    crc32c [1, 0] ≠ 7 ∧
    (∃ s c x bs, SectionRead s (launch1 0 false c) x (some bs) ∧ s.g.launch = 5 ∧ s.g.external = true ∧ s.g ∈ allGroups s) := by
  refine ⟨by decide, ⟨⟨by decide, by decide⟩, by decide, by decide, by decide, by decide⟩,
    ⟨{ lau1 with io := { lau1.io with hq := [(127, { HostQueue.reset with en := true, reread := true })] } }, by decide⟩, by decide,
    ⟨lau1, by decide⟩, by decide +kernel, by decide, by decide +kernel,
    ⟨{ lauWith [launch1 0 false 0] with cycle := 65535 }, _, by rfl, by decide⟩,
    ⟨lauWith [{ launch1 0 false 0 with tasks := [0x1234] }] |> (fun s => { s with teams := [{ team1 with launch := 5 }] }), _, (0, 1, []), by rfl, by rfl,
      by decide +kernel⟩,
    fun n hn => ⟨lauWith [{ launch1 0 false 0 with placed := 1, started := 1, exited := n }], _, by rfl, by
      simp only [List.mem_cons, List.not_mem_nil, or_false] at hn
      rcases hn with rfl | rfl <;> decide, by rfl⟩,
    ⟨lauWith [{ launch1 0 false 0 with wdlimit := 1, wdcount := 1 }] |> (fun s => { s with g := { s.g with launch := 5 } }), _,
      ⟨by rfl, by decide, by decide, by decide, by rfl, by rfl, by unfold deliverable; decide⟩, by unfold NoQueueFor; decide⟩,
    ⟨lauWith [launch1 0 false 0], _, by rfl, by rfl⟩, ⟨lauWith [{ launch1 0 false 0 with wdlimit := 1 }], _, by rfl, by decide, by decide⟩, ?_, by decide +kernel,
    ⟨{ lauWith [launch1 0 false 7] with g := { lau1.g with launch := 5, external := true } }, 7, ⟨0, false, 0, 0, 2, 128, 7⟩, [1, 0],
      ⟨by rfl, by unfold OwnId OnlyId; decide, by rfl, by decide, by decide⟩, rfl, rfl, by decide⟩⟩
  intro st c hc
  simp only [List.mem_cons, List.not_mem_nil, or_false] at hc
  refine ⟨⟨0, st, 0, 0, 2, 128, c⟩, [1, 0], ⟨?_, ?_, ?_, ?_, ?_⟩, rfl, rfl, rfl⟩ <;> rcases hc with rfl | rfl <;> cases st <;>
    first | rfl | (unfold OwnId OnlyId; decide +kernel)

/-! ### Hypotheses met: the Clerk, release queues, links, boot and repair -/

/-- lau1 with the Clerk at a command at 0x97000. -/
def clerk1 (op a b t k : Nat) (w : Bool) : State :=
  { lau1 with
    pm := { lau1.pm with cells := object1 ++ wordsAt 0x97000 [(0, op * 2 ^ 56 + k * 2 ^ 48), (1, a), (2, b), (3, t)] }
    io := { lau1.io with clerk := { Clerk.reset with run := true, pc := 0x97000 / 32, wait := w } } }

/-- A command whose operands need no memory, at its widest. -/
def clerkAt_ok (s : State) (op a b t k : Nat) : Bool :=
  s.io.clerk.run && (match clerkCommand s with
    | some v => v % 2 ^ 48 == 0 && cmdOp v == op && word64 v 1 == a && word64 v 2 == b && word64 v 3 == t && bits v 55 48 == k
    | none => false)

theorem clerkAt_of (s : State) (op a b t k : Nat) (h : clerkAt_ok s op a b t k = true) : ClerkAt s op a b t k := by
  unfold clerkAt_ok at h
  refine ⟨by simp_all, ?_⟩
  split at h
  · rename_i v hv
    exact ⟨v, hv, by simp_all⟩
  · simp at h

theorem witness_ClerkCommands :
    lau1.io.clerk.run = false ∧
    ((clerk1 0x0C 0 0 0 0 false).io.clerk.run = true ∧ 0x0B < clerkOp (clerk1 0x0C 0 0 0 0 false)) ∧
    ClerkAt (clerk1 0x00 0 0 0 0 false) 0x00 0 0 0 0 ∧
    (∀ w, ∀ b ∈ [5, 2 ^ 64 - 1], ClerkAt (clerk1 0x03 0x97008 b 0 0 w) 0x03 0x97008 b 0 0 ∧
      ClerkWord (clerk1 0x03 0x97008 b 0 0 w) 0x97008 ∧ (clerk1 0x03 0x97008 b 0 0 w).io.clerk.wait = w) ∧
    ((clerk1 0x03 0x97008 5 0 0 false).pm.word 0x97008 8 = 0x97008 ∧
      (clerk1 0x03 0x97008 (2 ^ 64 - 1) 0 0 false).pm.word 0x97008 8 < 2 ^ 64 - 1) ∧
    (ClerkAt (clerk1 0x04 0x98000 7 0 0 false) 0x04 0x98000 7 0 0 ∧ ClerkPlaceAt (clerk1 0x04 0x98000 7 0 0 false) 0x98000) ∧
    (∀ w, ClerkAt (clerk1 0x03 0x7F000000080 5 0 0 w) 0x03 0x7F000000080 5 0 0 ∧ ClerkRegister (clerk1 0x03 0x7F000000080 5 0 0 w) 0x7F000000080) ∧
    (ClerkAt (clerk1 0x04 0x7F000000080 7 0 0 false) 0x04 0x7F000000080 7 0 0 ∧ ClerkRegister (clerk1 0x04 0x7F000000080 7 0 0 false) 0x7F000000080 ∧
      ioRead (clerk1 0x04 0x7F000000080 7 0 0 false) false (offOf 0x7F000000080) < 2 ^ 64) ∧
    (∀ op ∈ [5, 8, 9], ClerkAt (clerk1 op 0x98000 7 0x97000 0 false) op 0x98000 7 0x97000 0 ∧
      ClerkWord (clerk1 op 0x98000 7 0x97000 0 false) 0x98000) ∧
    (∀ op ∈ [6, 7, 10, 11], ClerkAt (clerk1 op 0 (2 ^ 64 - 1) 0xFFFFFFFFFFFE0 255 false) op 0 (2 ^ 64 - 1) 0xFFFFFFFFFFFE0 255) := by
  refine ⟨rfl, by decide, clerkAt_of _ _ _ _ _ _ (by decide +kernel), ?_, by decide +kernel,
    ⟨clerkAt_of _ _ _ _ _ _ (by decide +kernel), by decide +kernel, .inl (by decide), by decide, by unfold Undisturbed; decide⟩, ?_,
    ⟨clerkAt_of _ _ _ _ _ _ (by decide +kernel), by unfold ClerkRegister; decide, by decide⟩, ?_, ?_⟩
  · intro w b hb
    simp only [List.mem_cons, List.not_mem_nil, or_false] at hb
    rcases hb with rfl | rfl <;> cases w <;>
      exact ⟨clerkAt_of _ _ _ _ _ _ (by decide +kernel), by unfold ClerkWord ClerkPlaceAt InMemory Undisturbed; decide +kernel, rfl⟩
  · intro w
    cases w <;> exact ⟨clerkAt_of _ _ _ _ _ _ (by decide +kernel), by unfold ClerkRegister; decide⟩
  · intro op h
    simp only [List.mem_cons, List.not_mem_nil, or_false] at h
    rcases h with rfl | rfl | rfl <;>
      exact ⟨clerkAt_of _ _ _ _ _ _ (by decide +kernel), by unfold ClerkWord ClerkPlaceAt InMemory Undisturbed; decide +kernel⟩
  · intro op h
    simp only [List.mem_cons, List.not_mem_nil, or_false] at h
    rcases h with rfl | rfl | rfl | rfl <;> exact clerkAt_of _ _ _ _ _ _ (by decide +kernel)

/-- The state in which the Clerk's record is checked. -/
def clerk2 : State :=
  let s := (sliceRead (clerk1 0x01 0x96000 0 0 0 false) 0x96000 128).2.2
  setClerk s { s.io.clerk with count := s.io.clerk.count + 1 }

theorem witness_ClerkLaunches :
    (launchRoom (clerk1 0x01 0x96000 0 0 0 false) = true ∧ paKind (clerk1 0x01 0x96000 0 0 0 false) 0x96000 = .hbm ∧ clerkPlace (clerk1 0x01 0x96000 0 0 0 false) 0x96000 128 = true ∧
      ClerkAt (clerk1 0x01 0x96000 0 0 0 false) 0x01 0x96000 0 0 0 ∧ (sliceRead (clerk1 0x01 0x96000 0 0 0 false) 0x96000 128).2.1 = false) ∧
    recordCode clerk2 (record1 0) = 0 ∧ recordCode clerk2 (Vector.replicate 16 0) ≠ 0 ∧
    ((recordImage clerk2 (record1 0)).1.isSome && everFits (recordImage clerk2 (record1 0)).2 (record1 0)) = true ∧
    (ClerkAt (clerk1 0x02 0x96000 0x95010 0 0 false) 0x02 0x96000 0x95010 0 0 ∧
      paKind (clerk1 0x02 0x96000 0x95010 0 0 false) 0x95010 = .hbm ∧ clerkPlace (clerk1 0x02 0x96000 0x95010 0 0 false) 0x95010 8 = true ∧
      (sliceRead (clerk1 0x02 0x96000 0x95010 0 0 false) 0x96000 128).1 < 2 ^ 1024 ∧
      (sliceRead (clerk1 0x02 0x96000 0x95010 0 0 false) 0x95010 8).2.1 = false) :=
  ⟨⟨by decide, by decide, by decide, clerkAt_of _ _ _ _ _ _ (by decide +kernel), by decide +kernel⟩, by decide +kernel, by decide +kernel,
   by decide +kernel, ⟨clerkAt_of _ _ _ _ _ _ (by decide +kernel), by decide, by decide, by decide +kernel, by decide +kernel⟩⟩

/-- lau1 with release queue 15, whose ring is at 0x100 of address space 1, and every word of memory's first page full. -/
def rel1 (entry : Option (Word × Word × Word)) (ready : Bool) (hsize verdict : Nat) : State :=
  { withMsg lau1 { queue := 15 } with
    pm := { lau1.pm with cells := wordsAt 0x95000 [(1, verdict), (35, 0x12345678)], full := [0x95008 / 8, 0x95118 / 8] }
    io := { lau1.io with rq := [(15, { RelQueue.reset with
      en := true, ring := 0x100, asid := 1, hsize := hsize, entry := entry, ready := ready })] } }

theorem loadFull_ok (s s1 : State) (r va pa : Nat)
    (hf : ownWalk s (fun s => checkFuture s (whoRq s r) kReadWrite va) = (.ok pa, s1)) (h : Memory.wf s1.pm = true)
    (hn : futOf s (.queue r) = none) (hk : paKind s1 pa = .hbm) (hb : s1.pm.isFull (pa / 8) = true)
    (hc : (sliceRead s1 pa 8).2.1 = false) (hu : s1.chains = []) : LoadFull s r va pa s1 :=
  ⟨h, hn, hf, .inl hk, hb, hc, by simp [Undisturbed, hu]⟩

theorem witness_ReleaseSteps :
    (∃ s s1, s = rel1 none false 4 0 ∧ tabWf s.io.rq = true ∧ (rqOf s 15).en = true ∧ (rqOf s 15).entry = none ∧
      LoadFull s 15 (rqEntry (rqOf s 15) (rqOf s 15).head + 24) 0x95118 s1) ∧
    (∀ v ∈ [1, 2], ∃ s s1, s = rel1 (some (0x200, 4088, 8)) false 4 v ∧ (rqOf s 15).entry = some (0x200, 4088, 8) ∧
      (rqOf s 15).ready = false ∧ LoadFull s 15 8 0x95008 s1 ∧ s1.pm.word 0x95008 8 = v ∧ entryGood 4088 = true) ∧
    (rqRoom (rqOf (rel1 (some (0x200, 1, 8)) true 0 0) 15) = true ∧
      rqRoom { rqOf (rel1 (some (0x200, 1, 8)) true 0 0) 15 with prod := 1 } = false) := by
  refine ⟨⟨_, _, rfl, by decide, by decide, by decide, loadFull_ok _ _ _ _ _ (by rfl) (by decide) (by decide) (by decide) (by decide) (by decide) rfl⟩,
    ?_, by decide⟩
  intro v hv
  simp only [List.mem_cons, List.not_mem_nil, or_false] at hv
  rcases hv with rfl | rfl <;>
    exact ⟨_, _, rfl, rfl, rfl, loadFull_ok _ _ _ _ _ (by rfl) (by decide) (by decide) (by decide) (by decide) (by decide) rfl, by decide, by decide⟩

/-- A device at a stage of its boot. -/
def boot1 (stage val : Nat) : State := { withMsg run1 { val := val } with io := { run1.io with bootStage := stage } }

/-- Port 15 up, with a flit refused `n` times in a row and one to be replayed. -/
def port1 (n : Nat) : State :=
  { withMsg run1 { port := 15, seq := 7, ok := n == 0 } with
    io := { run1.io with ports := [(15, { Port.reset with up := true, expect := 7, refused := n, replay := true })] } }

/-- An error of a unit, `n` of which have been counted: corrected ones or not. -/
def error1 (u : RepairUnit) (n : Nat) (ok : Bool) : State :=
  { withMsg run1 { repair := u, num := 3, ok := ok } with io := { run1.io with errors := List.replicate n ⟨u, 3, 0, !ok⟩ } }

theorem witness_BootLinksAndRepair :
    ((portOf (port1 0) 15).up = true ∧ (port1 0).msg.ok = true ∧ (port1 0).msg.seq = (portOf (port1 0) 15).expect ∧
      (port1 1).msg.ok = false) ∧
    (∀ n ∈ [14, 15], (portOf (port1 n) 15).replay = true ∧ tabWf (port1 n).io.ports = true ∧ (portOf (port1 n) 15).refused = n) ∧
    (∀ p ∈ [(1, 0), (2, 0), (2, 5), (3, 0), (4, 0), (5, 0), (0xE, 0)], (boot1 p.1 p.2).io.bootStage = p.1 ∧ (boot1 p.1 p.2).msg.val = p.2 ∧
      (boot1 p.1 p.2).io.testing = [] ∧ (boot1 p.1 p.2).io.nodeidSet = false) ∧
    (∃ s : State, s.io.bootStage = 3 ∧ s.io.testing ≠ []) ∧
    (∃ s : State, s.io.bootStage = 4 ∧ s.io.nodeidSet = true ∧ s.io.pounden = 255) ∧
    (∀ n ∈ [2 ^ 24, 2 ^ 24 + 1], ∃ s : State, s.io.bootStage = 0xE ∧ s.io.rcvlen = n ∧ s.io.rcvaddr.toNat % 4096 = 0 ∧ s.msg.val = 0) ∧
    (tripped [95, 99, 100, 114, 0] = false ∧ tripped [0, 115] = true) ∧
    (∀ u ∈ [RepairUnit.l2way 255 767, .serdes 15 0, .lane 255 67], ∀ n ∈ [0, 1], countsErrors u = true ∧ ErrorOf (error1 u n false) u ∧
      (RetireDue (error1 u n false) u ↔ 1 ≤ n)) ∧
    (∀ n ∈ [254, 255], ErrorOf (error1 (.serdes 15 0) n true) (.serdes 15 0) ∧ (RetireDue (error1 (.serdes 15 0) n true) (.serdes 15 0) ↔ n = 255)) ∧
    (∃ s : State, s.msg.err = .x s.g.gid 31 ∧ s.msg.ok = false ∧ s.g.live = true ∧ NoQueueFor s (some s.g.launch)) ∧
    (run1.io.repairs = [] ∧ run1.io.fuses.length < 1024 ∧ NoDeviceQueue run1 ∧ Memory.wf run1.pm = true) ∧
    (∀ u ∈ [RepairUnit.l2way 255 767, .serdes 15 0, .lane 255 67, .hbmRow 0 0, .pseudoChannel 0 0], ∃ s : State, s.msg.repair = u ∧ ErrorOf s u ∧
      s.io.repairs = [] ∧ s.io.fuses.length < 1024 ∧ NoDeviceQueue s ∧ Memory.wf s.pm = true) ∧
    ((coreOf run1 255).retired.contains 67 = false ∧ affectedSlots (coreOf run1 255) 67 = []) ∧
    (∃ s : State, .serdes s.msg.port 8 ∈ s.io.repairs ∧ tabWf s.io.ports = true) ∧
    (∃ s : State, s.msg.die = 7 ∧ s.io.maintOpen = none ∧ dieEmpty s 7 = true) ∧
    (∃ s : State, s.io.maintOpen ≠ none) ∧
    (∃ s : State, s.io.testing.contains s.msg.die = true ∧ s.msg.found = [] ∧ s.io.repairs = []) :=
  ⟨by decide, by decide, by decide,
   ⟨{ boot1 3 0 with io := { (boot1 3 0).io with testing := [7] } }, rfl, by decide⟩,
   ⟨{ boot1 4 0 with io := { (boot1 4 0).io with nodeidSet := true, pounden := 255 } }, rfl, rfl, rfl⟩,
   fun n _ => ⟨{ boot1 0xE 0 with io := { (boot1 0xE 0).io with rcvlen := n } }, rfl, rfl, by rfl, rfl⟩,
   by decide, by unfold ErrorOf RetireDue; decide, by unfold ErrorOf RetireDue; decide +kernel,
   ⟨withMsg run1 { err := .x run1.g.gid 31, ok := false }, by decide, rfl, by decide, by unfold NoQueueFor; decide⟩,
   ⟨rfl, by decide, by unfold NoDeviceQueue; decide, by decide⟩,
   fun u _ => ⟨withMsg run1 { repair := u }, rfl, ⟨rfl, .inl rfl⟩, rfl, (by decide : run1.io.fuses.length < 1024), by rfl, by rfl⟩,
   by decide,
   ⟨{ withMsg run1 { port := 15 } with io := { run1.io with repairs := [.serdes 15 8] } }, by decide, by decide⟩,
   ⟨withMsg run1 { die := 7 }, rfl, rfl, by decide⟩,
   ⟨{ run1 with io := { run1.io with maintOpen := some 7 } }, by decide⟩,
   ⟨{ withMsg run1 { die := 7 } with io := { run1.io with testing := [7] } }, by decide, rfl, rfl⟩⟩

/-! ### Hypotheses met: encodings and steps -/

/-- run1 with the words at its pc. -/
def stepS (ws : List (Nat × Nat)) : State :=
  let s := map1 run1
  { s with pm := { s.pm with cells := wordsAt 0x5000 ws } }

/-- A state whose group has one convoy in its queue, begun, behind which it waits. -/
def headS (s : State) : State :=
  { s with g := { s.g with vq := [entryHere s.g [.vadd 1 1 2 0 false false] true] }, stalled := true }

/-- The word fetched in a turn of the current group. -/
def fetched (s : State) : Option Nat :=
  let u := noteTurn (focus (tick s) s.g.gid)
  match fetchWord u (whoG u) u.g.pc.toNat with
  | .word w _ => some w
  | _ => none

/-- The word that stands at a place, followed by none that joins a convoy. -/
theorem headS_turn : ∀ p ∈ [(vec2, true), (run1, false)], let s := headS p.1
    turnOf s = .queue s.g.gid ∧ (focus (tick s) s.g.gid).g.vq = s.g.vq ∧
    ∃ t, exec (.vadd 1 1 2 0 false false) { focus (tick s) s.g.gid with g := (entryHere p.1.g [.vadd 1 1 2 0 false false] true).enter s.g }
      = .next t ∧ t.stalled = false ∧ (t.g.retired != p.1.g.retired) = p.2 := by
  intro p hp
  simp only [List.mem_cons, List.not_mem_nil, or_false] at hp
  rcases hp with rfl | rfl <;> exact ⟨by decide, by decide, _, by rfl, by decide, by decide⟩

theorem witness_StepRuns :
    (∃ s : State, s.inputs = [(.powerGood, {})] ∧ isUnitStep .powerGood = true ∧ isUnitStep (.add 1 2 3) = false) ∧
    (∃ s t : State, s.barred = false ∧ t.barred = true) ∧
    (waitsBehind [(.l2Read, { pa := 0x5000 })] .l2Write { pa := 0x507F } = true ∧
      waitsBehind [(.l2Read, { pa := 0x5000 })] .l2Write { pa := 0x5080 } = false) ∧
    (run1.g.live = true ∧ run1.g.canRun = true ∧ run1.stalled = false ∧ run1.g.vq = [] ∧ run1.inputs = [] ∧ run1.others = [] ∧
      run1.waiting = [] ∧ run1.hostReads = [] ∧ enabled run1 = []) ∧
    (∀ p ∈ [(vec2, true), (run1, false)], let s := headS p.1
      turnOf s = .queue s.g.gid ∧ (focus (tick s) s.g.gid).g.vq = s.g.vq ∧
      ∃ t, exec (.vadd 1 1 2 0 false false) { focus (tick s) s.g.gid with g := (entryHere p.1.g [.vadd 1 1 2 0 false false] true).enter s.g }
        = .next t ∧ t.stalled = false ∧ (t.g.retired != p.1.g.retired) = p.2) ∧
    (∃ s i m, s.inputs = [] ∧ turnOf s = .unit i m ∧ isUnitStep i = true) ∧
    turnOf State.reset = .idle ∧
    (∀ p ∈ [(0, none), (0x04642800, some (Instr.add 3 4 5))], fetched (stepS [(0, p.1)]) = some p.1 ∧ decodeControl p.1 = p.2 ∧
      turnOf (stepS [(0, p.1)]) = .run run1.g.gid) ∧
    (bodyOnly (.tfetch 0 0 false) = true ∧ joins (.vadd 1 1 2 0 true false) = true ∧ bodyOnly (.add 3 4 5) = false ∧
      joins (.add 3 4 5) = false ∧ convoyable (.add 3 4 5) = false ∧ counts (.add 3 4 5) = true ∧ counts (.trap 0) = false) ∧
    (convoyable (.vadd 1 1 2 0 false false) = true ∧ convoyHere (stepS []) (.vadd 1 1 2 0 false false) = some [.vadd 1 1 2 0 false false] ∧
      convoyConflict run1.g [.vadd 1 1 2 0 false false] = none ∧ convoyLeave run1 [.vadd 1 1 2 0 false false] = none) ∧
    (∀ n ∈ [2047, 2048], ∃ s : State, s.g.spcount = n ∧ s.g.splimit = 2048 ∧ s.g.tr.lev = false) :=
  ⟨⟨{ run1 with inputs := [(.powerGood, {})] }, rfl, by decide, by decide⟩, ⟨run1, { run1 with barred := true }, rfl, rfl⟩, by decide, by decide, headS_turn,
   ⟨{ run1 with g := { run1.g with begun := false } }, .groupStart, { gid := 0 }, rfl, by decide, by decide⟩,
   by decide, by decide, by decide, by decide,
   fun n _ => ⟨{ run1 with g := { run1.g with spcount := n } }, rfl, rfl, rfl⟩⟩

theorem witness_DecodeEncode :
    encode (.add 3 4 5) = some 0x04642800 ∧ (Instr.add 3 4 5).wellFormed = true ∧ bodyOnly (.add 3 4 5) = false ∧
    encode (.tfetch 31 7 true) ≠ none ∧ bodyOnly (.tfetch 31 7 true) = true ∧ decode false 0 = none ∧
    decode false 0x04642800 = some (.add 3 4 5) := by decide

theorem witness_StepKeepsMemoryForm : ∃ t, Memory.wf (stepS [(0, 0x04642800)]).pm = true ∧ step (stepS [(0, 0x04642800)]) = .next t :=
  ⟨_, by decide, rfl⟩

/-! ### Words of the opcode table

The words are written from the places that R201 to R208 and spec/opcode_table.json give each field, every field with a value
of its own. -/

/-- Each word is read as its instruction, and no row of another word. -/
def readsAs (body : Bool) (l : List (Nat × Instr)) : Bool := l.all (fun p => decode body p.1 == some p.2)

/-- Major 0x01. -/
theorem test_words_01 : readsAs false
    [(0x046CA800, .add 3 12 21),
     (0x046CA801, .sub 3 12 21),
     (0x046CA802, .and 3 12 21),
     (0x046CA803, .or 3 12 21),
     (0x046CA804, .xor 3 12 21),
     (0x046CA805, .sll 3 12 21),
     (0x046CA806, .srl 3 12 21),
     (0x046CA807, .sra 3 12 21),
     (0x046CA808, .slt 3 12 21),
     (0x046CA809, .sltu 3 12 21),
     (0x046CA80A, .mul 3 12 21),
     (0x046CA80B, .mulh 3 12 21),
     (0x046CA80C, .mulhu 3 12 21),
     (0x046CA80D, .div 3 12 21),
     (0x046CA80E, .divu 3 12 21),
     (0x046CA80F, .rem 3 12 21),
     (0x046CA810, .remu 3 12 21),
     (0x046CA811, .min 3 12 21),
     (0x046CA812, .max 3 12 21),
     (0x046CA813, .minu 3 12 21),
     (0x046CA814, .maxu 3 12 21),
     (0x046C0015, .clz 3 12),
     (0x046C0016, .ctz 3 12),
     (0x046C0017, .popc 3 12)] = true := by decide

/-- Major 0x02. -/
theorem test_words_02 : readsAs false
    [(0x086C8421, .addi 3 12 33825)] = true := by decide

/-- Major 0x03. -/
theorem test_words_03 : readsAs false
    [(0x0C6C8421, .andi 3 12 33825)] = true := by decide

/-- Major 0x04. -/
theorem test_words_04 : readsAs false
    [(0x106C8421, .ori 3 12 33825)] = true := by decide

/-- Major 0x05. -/
theorem test_words_05 : readsAs false
    [(0x146C8421, .xori 3 12 33825)] = true := by decide

/-- Major 0x06. -/
theorem test_words_06 : readsAs false
    [(0x186C002B, .slli 3 12 43),
     (0x186C402B, .srli 3 12 43),
     (0x186C802B, .srai 3 12 43)] = true := by decide

/-- Major 0x07. -/
theorem test_words_07 : readsAs false
    [(0x1C6C8421, .slti 3 12 33825)] = true := by decide

/-- Major 0x08. -/
theorem test_words_08 : readsAs false
    [(0x2072345A, .ldhi 3 1193050)] = true := by decide

/-- Major 0x09. -/
theorem test_words_09 : readsAs false
    [(0x2472345A, .adpc 3 1193050)] = true := by decide

/-- Major 0x0A. -/
theorem test_words_0a : readsAs false
    [(0x286C8421, .beq 3 12 33825)] = true := by decide

/-- Major 0x0B. -/
theorem test_words_0b : readsAs false
    [(0x2C6C8421, .bne 3 12 33825)] = true := by decide

/-- Major 0x0C. -/
theorem test_words_0c : readsAs false
    [(0x306C8421, .blt 3 12 33825)] = true := by decide

/-- Major 0x0D. -/
theorem test_words_0d : readsAs false
    [(0x346C8421, .bge 3 12 33825)] = true := by decide

/-- Major 0x0E. -/
theorem test_words_0e : readsAs false
    [(0x386C8421, .bltu 3 12 33825)] = true := by decide

/-- Major 0x0F. -/
theorem test_words_0f : readsAs false
    [(0x3C6C8421, .bgeu 3 12 33825)] = true := by decide

/-- Major 0x10. -/
theorem test_words_10 : readsAs false
    [(0x42ABCDE1, .jl 44813793)] = true := by decide

/-- Major 0x11. -/
theorem test_words_11 : readsAs false
    [(0x446C8421, .jlr 3 12 33825)] = true := by decide

/-- Major 0x12. -/
theorem test_words_12 : readsAs false
    [(0x486C1A05, .ldB 3 12 6661),
     (0x486C3A05, .ldH 3 12 6661),
     (0x486C5A05, .ldW 3 12 6661),
     (0x486C7A05, .ldD 3 12 6661),
     (0x486C9A05, .ldBu 3 12 6661),
     (0x486CBA05, .ldHu 3 12 6661),
     (0x486CDA05, .ldWu 3 12 6661)] = true := by decide

/-- Major 0x13. -/
theorem test_words_13 : readsAs false
    [(0x4C6C1A05, .stB 3 12 6661),
     (0x4C6C3A05, .stH 3 12 6661),
     (0x4C6C5A05, .stW 3 12 6661),
     (0x4C6C7A05, .stD 3 12 6661)] = true := by decide

/-- Major 0x14. -/
theorem test_words_14 : readsAs false
    [(0x506CAC60, .amoSwap 3 12 21 4 1 true),
     (0x506CAC61, .amoAdd 3 12 21 4 1 true),
     (0x506CAC62, .amoAnd 3 12 21 4 1 true),
     (0x506CAC63, .amoOr 3 12 21 4 1 true),
     (0x506CAC64, .amoXor 3 12 21 4 1 true),
     (0x506CAC65, .amoMin 3 12 21 4 1 true),
     (0x506CAC66, .amoMax 3 12 21 4 1 true),
     (0x506CAC67, .amoMinu 3 12 21 4 1 true),
     (0x506CAC68, .amoMaxu 3 12 21 4 1 true),
     (0x506CAC69, .amoCas 3 12 21 4 1 true),
     (0x506C036A, .amoLd 3 12 3 1 true),
     (0x500363AB, .amoSt 3 12 3 2 true)] = true := by decide

/-- Major 0x15. -/
theorem test_words_15 : readsAs false
    [(0x54000000, .fenceSv),
     (0x54000001, .fenceVs),
     (0x54000002, .fenceSvW),
     (0x54000013, .fenceAcq 1),
     (0x54000014, .fenceRel 1),
     (0x54000015, .fenceAr 1)] = true := by decide

/-- Major 0x16. -/
theorem test_words_16 : readsAs false
    [(0x58600120, .gsr 3 18),
     (0x58030121, .ssr 3 18),
     (0x5800A5C2, .trap 2652),
     (0x58000003, .tret),
     (0x58000004, .gexit),
     (0x58000005, .yield),
     (0x581C3056, .spt 115461),
     (0x58030007, .pwlease 3)] = true := by decide

/-- Major 0x17. -/
theorem test_words_17 : readsAs false
    [(0x5C6C0000, .fld 3 12),
     (0x5C6C0001, .fldE 3 12),
     (0x5C6C0002, .fldx 3 12),
     (0x5C6C0003, .fldxE 3 12),
     (0x5C036004, .ffill 3 12)] = true := by decide

/-- Major 0x18. -/
theorem test_words_18 : readsAs false
    [(0x606C0000, .tbar 3 12),
     (0x606C0001, .carrive 3 12),
     (0x60036002, .cwait 3 12),
     (0x606C0003, .tattach 3 12),
     (0x60000004, .tdetach),
     (0x60036005, .ipost 3 12),
     (0x606CA806, .iwait 3 12 21),
     (0x606C0007, .sgrab 3 12),
     (0x60036008, .sspawn 3 12)] = true := by decide

/-- Major 0x19. -/
theorem test_words_19 : readsAs false
    [(0x646C0000, .vcfg 3 12),
     (0x646C00C1, .vgrant 3 12 1 4),
     (0x646C0002, .mshape 3 12)] = true := by decide

/-- Major 0x20. -/
theorem test_words_20 : readsAs false
    [(0x806CAC80, .vadd 3 12 21 4 true false),
     (0x806CAC81, .vsub 3 12 21 4 true false),
     (0x806CAC82, .vrsub 3 12 21 4 true false),
     (0x806CAC83, .vmul 3 12 21 4 true false),
     (0x806CAC84, .vmulh 3 12 21 4 true false),
     (0x806CAC85, .vdiv 3 12 21 4 true false),
     (0x806CAC86, .vrem 3 12 21 4 true false),
     (0x806CAC87, .vmin 3 12 21 4 true false),
     (0x806CAC88, .vmax 3 12 21 4 true false),
     (0x806CAC89, .vfma 3 12 21 4 true false),
     (0x806CAC8A, .vfms 3 12 21 4 true false),
     (0x806CAC8B, .vfnma 3 12 21 4 true false),
     (0x806CAC8C, .vsadd 3 12 21 4 true false),
     (0x806CAC8D, .vssub 3 12 21 4 true false),
     (0x8060638E, .vabs 3 12 3 true),
     (0x8060638F, .vneg 3 12 3 true),
     (0x806CAC90, .vabsd 3 12 21 4 true false)] = true := by decide

/-- Major 0x21. -/
theorem test_words_21 : readsAs false
    [(0x846CAC80, .vand 3 12 21 4 true false),
     (0x846CAC81, .vor 3 12 21 4 true false),
     (0x846CAC82, .vxor 3 12 21 4 true false),
     (0x846CAC83, .vandn 3 12 21 4 true false),
     (0x84606384, .vnot 3 12 3 true),
     (0x846CAC85, .vsll 3 12 21 4 true false),
     (0x846CAC86, .vsrl 3 12 21 4 true false),
     (0x846CAC87, .vsra 3 12 21 4 true false),
     (0x84606388, .vclz 3 12 3 true),
     (0x84606389, .vpopc 3 12 3 true)] = true := by decide

/-- Major 0x22. -/
theorem test_words_22 : readsAs false
    [(0x882CAC80, .vceq 1 12 21 4 true false),
     (0x882CAC81, .vcne 1 12 21 4 true false),
     (0x882CAC82, .vclt 1 12 21 4 true false),
     (0x882CAC83, .vcle 1 12 21 4 true false),
     (0x882CAC84, .vcgt 1 12 21 4 true false),
     (0x882CAC85, .vcge 1 12 21 4 true false),
     (0x882CAC86, .vcun 1 12 21 4 true false)] = true := by decide

/-- Major 0x23. -/
theorem test_words_23 : readsAs false
    [(0x8C6CAC80, .vcvt 3 12 21 4 true),
     (0x8C6CAC81, .vcvtSat 3 12 21 4 true),
     (0x8C6CAC82, .vretag 3 12 21 4 true)] = true := by decide

/-- Major 0x24. -/
theorem test_words_24 : readsAs false
    [(0x906CAC80, .vredsum 3 12 21 4 true),
     (0x906CAC81, .vredsumU 3 12 21 4 true),
     (0x906CAC82, .vredmin 3 12 21 4 true),
     (0x906CAC83, .vredmax 3 12 21 4 true),
     (0x906CAC84, .vredand 3 12 21 4 true),
     (0x906CAC85, .vredor 3 12 21 4 true),
     (0x906CAC86, .vredxor 3 12 21 4 true),
     (0x906CAC87, .vscan 3 12 21 4 true)] = true := by decide

/-- Major 0x25. -/
theorem test_words_25 : readsAs false
    [(0x94606380, .vmv 3 12 3 true false),
     (0x94606081, .vmvX 3 12 true),
     (0x946CAC82, .vslup 3 12 21 4 true false),
     (0x946CAC83, .vsldn 3 12 21 4 true false),
     (0x946CAC84, .vgath 3 12 21 4 true),
     (0x94606385, .vcompr 3 12 3 true),
     (0x94606386, .vexpd 3 12 3 true),
     (0x94606387, .vrev 3 12 3 true)] = true := by decide

/-- Major 0x26. -/
theorem test_words_26 : readsAs false
    [(0x98606380, .vrcp 3 12 3 true),
     (0x98606381, .vrsqrt 3 12 3 true),
     (0x98606382, .vsqrt 3 12 3 true),
     (0x98606383, .vexp2 3 12 3 true),
     (0x98606384, .vlog2 3 12 3 true),
     (0x98606385, .vsin 3 12 3 true),
     (0x98606386, .vcos 3 12 3 true),
     (0x98606387, .vtanh 3 12 3 true)] = true := by decide

/-- Major 0x27. -/
theorem test_words_27 : readsAs false
    [(0x9C760BD5, .vidx 3 705 3 true 85)] = true := by decide

/-- Major 0x28. -/
theorem test_words_28 : readsAs false
    [(0xA0221C80, .mand 1 2 3 4 true),
     (0xA0221C81, .mor 1 2 3 4 true),
     (0xA0221C82, .mxor 1 2 3 4 true),
     (0xA0221C83, .mandn 1 2 3 4 true),
     (0xA0201384, .mnot 1 2 3 true),
     (0xA0200285, .mset 1 2 true),
     (0xA0200286, .mclr 1 2 true),
     (0xA0601387, .mpopc 3 2 3 true),
     (0xA0601388, .mfirst 3 2 3 true)] = true := by decide

/-- Major 0x29. -/
theorem test_words_29 : readsAs false
    [(0xA4001A40, .vfetch 3 2),
     (0xA4000002, .vsync),
     (0xA4030003, .xqsendCt 3),
     (0xA4600004, .xqrecvCt 3),
     (0xA4600205, .vpid 3 2)] = true := by decide

/-- Major 0x29 in a body. -/
theorem test_words_29_body : readsAs true
    [(0xA4001A41, .tfetch 3 2 true),
     (0xA4030203, .xqsend 3 2),
     (0xA4600204, .xqrecv 3 2)] = true := by decide

/-- Major 0x2B. -/
theorem test_words_2b : readsAs false
    [(0xAC6C0380, .vld 3 12 3 true false),
     (0xAC6CAC88, .vldS 3 12 21 4 true false),
     (0xAC6CAC91, .vldX 3 12 21 4 true false 1),
     (0xAC6C0398, .vldFf 3 12 3 true),
     (0xAC6C03A0, .vldSeg 3 12 3 true),
     (0xAC6C03A8, .vldC 3 12 3 true false),
     (0xAC6CACB0, .vldCs 3 12 21 4 true false),
     (0xAC6CACB9, .vldCx 3 12 21 4 true false 1)] = true := by decide

/-- Major 0x2C. -/
theorem test_words_2c : readsAs false
    [(0xB06C0380, .vst 3 12 3 true false),
     (0xB06CAC88, .vstS 3 12 21 4 true false),
     (0xB06CAC91, .vstX 3 12 21 4 true false 1),
     (0xB06C0398, .vstU 3 12 3 true false),
     (0xB06C03A0, .vstSeg 3 12 3 true),
     (0xB06CACA8, .vstSu 3 12 21 4 true false),
     (0xB06CACB1, .vstXu 3 12 21 4 true false 1)] = true := by decide

/-- Major 0x2D. -/
theorem test_words_2d : readsAs false
    [(0xB469F580, .vamoSwap 3 2 1 30 5 true),
     (0xB469F588, .vamoAdd 3 2 1 30 5 true),
     (0xB469F590, .vamoAnd 3 2 1 30 5 true),
     (0xB469F598, .vamoOr 3 2 1 30 5 true),
     (0xB469F5A0, .vamoXor 3 2 1 30 5 true),
     (0xB469F5A8, .vamoMin 3 2 1 30 5 true),
     (0xB469F5B0, .vamoMax 3 2 1 30 5 true),
     (0xB46063B8, .samo 3 12 3 true),
     (0xB46063C0, .samoO 3 12 3 true)] = true := by decide

/-- Major 0x2E. -/
theorem test_words_2e : readsAs false
    [(0xB86C0000, .sbindM 3 12),
     (0xB8601008, .sbindQR 3 2),
     (0xB8601009, .sbindQW 3 2),
     (0xB8600010, .sunbind 3),
     (0xB87A0518, .bse 3 6661)] = true := by decide

/-- Major 0x2F. -/
theorem test_words_2f : readsAs false
    [(0xBC6C1C00, .fldv 3 12 3 4),
     (0xBC6C1C08, .fldvX 3 12 3 4),
     (0xBC606310, .vffill 3 12 3)] = true := by decide

/-- Major 0x30. -/
theorem test_words_30 : readsAs false
    [(0xC062AC80, .cpy 3 2 21 4 true),
     (0xC06C1C81, .cpyG 3 12 3 4 true)] = true := by decide

/-- Major 0x31. -/
theorem test_words_31 : readsAs false
    [(0xC4600200, .bclose 3 2),
     (0xC4600201, .bwait 3 2),
     (0xC4600002, .bwaitm 3)] = true := by decide

/-- Major 0x32. -/
theorem test_words_32 : readsAs false
    [(0xC8606000, .rdecl 3 12),
     (0xC8020001, .rcloseTeam),
     (0xC8030001, .rcloseClu),
     (0xC861A802, .rchk 3 true 21)] = true := by decide

/-- Major 0x33. -/
theorem test_words_33 : readsAs false
    [(0xCCCAA980, .mma 6 10 true false 5 1 true),
     (0xCCCADC81, .mmas 6 10 3 4 true),
     (0xCCCADC82, .mjoin 6 10 3 4 true),
     (0xCC000003, .mfence)] = true := by decide

/-- Major 0x34. -/
theorem test_words_34 : readsAs false
    [(0xD0000800, .mzero 1),
     (0xD06C1801, .mput 3 12 3),
     (0xD06C1802, .mext 3 12 3),
     (0xD0601003, .zset 3 2),
     (0xD0601004, .zget 3 2)] = true := by decide

/-- Major 0x35. -/
theorem test_words_35 : readsAs false
    [(0xD42C0000, .sld 1 12),
     (0xD42C0001, .sst 1 12),
     (0xD4221802, .sadd 1 2 3),
     (0xD4221803, .smul 1 2 3),
     (0xD4621804, .sdot 3 2 3),
     (0xD42C1805, .sfromv 1 12 3),
     (0xD4621806, .stov 3 2 3),
     (0xD4620007, .slen 3 2)] = true := by decide

/-- Major 0x3E. -/
theorem test_words_3e : readsAs false
    [(0xFAABCDE1, .hint 44813793)] = true := by decide

/-! ### Worked words of the spec -/

/-- The words worked out at the ends of 08_isa_formats to 13_isa_sync_system. -/
theorem test_worked_words_control : readsAs false
    [(0x08A0FFFD, .addi 5 0 0xFFFD), (0x48E54008, .ldW 7 5 8), (0x28A00003, .beq 5 0 3), (0x43FFFFF8, .jl 0x3FFFFF8),
     (0xF8000000, .hint 0), (0x54000044, .fenceRel 4), (0x64C90000, .vcfg 6 9), (0x64A40002, .mshape 5 4),
     (0x60A60000, .tbar 5 6), (0x60E80001, .carrive 7 8), (0x60083802, .cwait 8 7), (0x614B0003, .tattach 10 11),
     (0x60000004, .tdetach), (0x600C6805, .ipost 12 13), (0x61CC6806, .iwait 14 12 13), (0x62840007, .sgrab 20 4),
     (0x60042808, .sspawn 4 5), (0x5D450000, .fld 10 5), (0x5C053004, .ffill 5 6)] = true := by decide

theorem test_worked_words_vector : readsAs false
    [(0x9C5FE002, .vidx 2 0x3FC 0 false 2), (0x80611000, .vadd 3 1 2 0 false false), (0x808348C3, .vmul 4 3 9 0 true true),
     (0xA4003040, .vfetch 6 0), (0x8CCB2000, .vcvt 6 11 4 0 false), (0x88411800, .vceq 2 1 3 0 false false),
     (0x90E02000, .vredsum 7 0 4 0 false), (0x99204003, .vexp2 9 8 0 false), (0x94A14842, .vslup 5 1 9 0 false true),
     (0x95601801, .vmvX 11 3 false), (0xA0611000, .mand 3 1 2 0 false), (0xA1401007, .mpopc 10 2 0 false),
     (0xA4006140, .vfetch 12 1), (0xA4000002, .vsync), (0xA4600005, .vpid 3 0)] = true ∧
    readsAs true [(0xA4003801, .tfetch 7 0 false), (0xA4001041, .tfetch 2 0 true), (0xA4800004, .xqrecv 4 0),
      (0xA4050003, .xqsend 5 0)] = true := by decide

theorem test_worked_words_memory : readsAs false
    [(0xAD0A0200, .vld 8 10 2 false false), (0xAC450018, .vldFf 2 5 0 false), (0xAC854812, .vldX 4 5 9 0 false false 2),
     (0xAC670068, .vldC 3 7 0 false true), (0xB0C20833, .vstXu 6 2 1 0 false false 3), (0xB5516008, .vamoAdd 10 4 1 12 0 false),
     (0xB4401840, .samoO 2 3 0 false), (0xB8440000, .sbindM 2 4), (0xBA201808, .sbindQR 17 3), (0xB8201809, .sbindQW 1 3),
     (0xB8200010, .sunbind 1), (0xB8A00518, .bse 5 5), (0xBE891900, .fldv 20 9 3 1), (0xC1826980, .cpy 12 2 13 1 true),
     (0xC1862A01, .cpyG 12 6 5 2 false), (0xC4A00100, .bclose 5 1), (0xC4A00101, .bwait 5 1), (0xC4E00002, .bwaitm 7),
     (0xC8C05000, .rdecl 6 10), (0xC8020001, .rcloseTeam), (0xC8C05802, .rchk 6 false 11)] = true := by decide

theorem test_worked_words_matrix : readsAs false
    [(0xCD4CD380, .mma 10 12 true true 2 3 true), (0xCDD0C801, .mmas 14 16 1 0 false), (0xCD4CC202, .mjoin 10 12 0 2 false),
     (0xD0001800, .mzero 3), (0xD0C00804, .zget 6 1), (0xD1200003, .zset 9 0), (0xD2A70001, .mput 21 7 0), (0xCC000003, .mfence),
     (0xCE110100, .mma 16 17 false false 0 1 false), (0xD2870002, .mext 20 7 0), (0xD4450000, .sld 2 5), (0xD4660001, .sst 3 6),
     (0xD4611002, .sadd 3 1 2), (0xD4811003, .smul 4 1 2), (0xD5411004, .sdot 10 1 2), (0xD4342005, .sfromv 1 20 4),
     (0xD6A12006, .stov 21 1 4), (0xD5610007, .slen 11 1)] = true := by decide

/-- The body chain of 08_isa_formats, with its header. -/
theorem test_worked_body : decodeAib [0xA8620000, 0xA4800004, 0x80A40800, 0xA4050003] =
    .ok (true, [.xqrecv 4 0, .vadd 5 4 1 0 false false, .xqsend 5 0]) := rfl

/-! ### Words and operands refused -/

/-- R204, R217: reserved majors, selectors and fields; each check of well-formedness has an operand that it refuses. -/
theorem test_words_refused :
    [0x00000000, 0xFFFFFFFF, 0x046CA818, 0x046CA815, 0x186C0040, 0x186CC000, 0x4800E000, 0x4C008000, 0x5000000C, 0x50000010,
      0x54000010, 0x54000006, 0x58000008, 0x68000000, 0x60020004, 0x64000003, 0x640007E0, 0x8060104E, 0x80001011,
      0xA4003000, 0xAC000058, 0xB0000038, 0xB0000060, 0xB8200011, 0xBE800018, 0xC8000003, 0xCC000804, 0xD0000005,
      0xD5000000, 0xD8000000].all (fun w => decodeControl w == none) = true := by decide

theorem test_ill_formed_refused :
    ([.amoSwap 1 2 3 6 0 false, .amoLd 1 2 6 0 false, .amoLd 1 2 0 2 false, .amoLd 1 2 0 3 false, .amoSt 1 2 7 0 false,
      .amoSt 1 2 0 1 false, .amoSt 1 2 0 3 false, .fenceAcq 6, .fenceRel 7, .fenceAr 6, .gsr 1 4, .ssr 1 0xFFF, .gsr 1 0x1E0,
      .sgrab 0 1, .sgrab 28 1, .vgrant 1 2 0 6, .vgrant 1 2 0 7, .vceq 0 1 2 0 false false, .vcun 0 1 2 0 false false,
      .mand 0 1 2 0 false, .mnot 0 1 0 false, .mset 0 0 false, .mclr 0 0 false, .vcvt 1 0 2 0 false, .vcvtSat 1 29 2 0 false,
      .vretag 1 31 2 0 false, .vamoSwap 1 6 0 2 0 false, .vamoMax 1 7 0 2 0 false, .mma 3 4 false true 0 0 false,
      .mma 4 3 true false 0 0 false, .mma 0 4 false true 0 0 false, .mma 4 5 false false 0 0 true, .mmas 3 4 0 0 false,
      .mmas 4 0 0 0 false, .mjoin 4 5 0 0 false] : List Instr).all (fun i => !i.wellFormed) = true := by decide

/-! ### Single steps with worked results -/

/-- Something of the next state. -/
def after {α : Type} (o : Host.Outcome State Fault Refusal) (f : State → α) : Option α :=
  match o with
  | .next t => some (f t)
  | _ => none

/-- The table below R230: x1 = 2^63, x2 = −1, x3 = 0. -/
def div1 : State := withX (withX { run1 with g := { run1.g with xPoison := [] } } 1 0x8000000000000000) 2 0xFFFFFFFFFFFFFFFF

theorem test_division_and_products :
    after (exec (.div 4 1 2) div1) (fun t => getX t 4) = some 0x8000000000000000 ∧
    after (exec (.rem 5 1 2) div1) (fun t => getX t 5) = some 0 ∧
    after (exec (.divu 6 1 3) div1) (fun t => getX t 6) = some 0xFFFFFFFFFFFFFFFF ∧
    after (exec (.remu 7 1 3) div1) (fun t => getX t 7) = some 0x8000000000000000 ∧
    after (exec (.mulh 8 1 2) div1) (fun t => getX t 8) = some 0 ∧
    after (exec (.mulhu 9 1 2) div1) (fun t => getX t 9) = some 0x7FFFFFFFFFFFFFFF ∧
    after (exec (.sra 10 1 2) div1) (fun t => getX t 10) = some 0xFFFFFFFFFFFFFFFF := by decide

/-- R229: a source that is also the destination supplies its old value, and a write to x0 is discarded. -/
theorem test_add_same_register :
    after (exec (.add 1 1 1) div1) (fun t => (getX t 1, t.g.pc)) = some (0, div1.g.pc + 4) ∧
    after (exec (.addi 0 1 7) div1) (fun t => getX t 0) = some 0 := by decide

/-- R203, R232: a branch target is the branch's own address and four times the offset. -/
theorem test_branch :
    after (exec (.bltu 1 2 3) div1) (fun t => t.g.pc) = some (div1.g.pc + 12) ∧
    after (exec (.blt 2 1 3) div1) (fun t => t.g.pc) = some (div1.g.pc + 4) := by decide

/-- R234: little-endian, with the sign of the halfword. -/
theorem test_load_halfword :
    after (exec (.ldH 4 1 0) { mem1 with pm := { mem1.pm with cells := [(0x5008, 0x02), (0x5009, 0x81)] } }) (fun t => getX t 4)
      = some 0xFFFFFFFFFFFF8102 ∧
    after (exec (.stH 2 1 2) mem1) (fun t => (t.pm.byte 0x500A, t.pm.byte 0x500B, t.pm.byte 0x5009)) = some (5, 0, 2) := by decide

/-- The worked example of 02_main_memory: stack, die and home slice of HBM offset 0x2A_0000_5F80. -/
theorem test_home_slice : stackOf 0x2A00005F80 = 13 ∧ stackOf 0x2A00005F80 / 2 = 6 ∧ sliceOf 0x2A00005F80 = 201 := by decide

/-- The table below R481: a share of 8 lanes and one of 64 give 128 and 1,024 elements of 32 bits. -/
theorem test_grant :
    after (exec (.vgrant 5 6 0 4) (withX { run1 with cores := [(0, { Core.reset with lanepart := Core.reset.lanepart.set 3 (some 0) })] } 6 2000))
      (fun t => (getX t 5, t.g.vc.vlmax)) = some (128, 128) ∧
    after (exec (.vgrant 5 6 0 4) (withX vec1 6 2000)) (fun t => (getX t 5, t.g.vc.vlmax)) = some (1024, 1024) := by decide

/-- The table below R294: VL = 6, m2 = 0b10_1101. -/
def perm1 : State :=
  let s := withV (withV vec1 2 (reg 0x05 [10, 11, 12, 13, 14, 15])) 3 (reg 0x05 [0, 0, 0, 0, 0, 0])
  { s with g := { s.g with vc := { s.g.vc with vl := 6 }, m := s.g.m.set 2 ⟨0, [(0, true), (1, false), (2, true), (3, true), (4, false), (5, true)]⟩ } }

theorem test_compress_expand :
    after (exec (.vcompr 3 2 2 false) perm1) (fun t => (List.range 6).map (elemOf t 3)) = some [10, 12, 13, 15, 0, 0] ∧
    after (exec (.vexpd 3 2 2 false) perm1) (fun t => (List.range 6).map (elemOf t 3)) = some [10, 0, 11, 12, 0, 13] := by decide

/-- 11_isa_vector: 2^−1.5 to the nearest fp32, inexact. -/
theorem test_exp2 :
    after (exec (.vexp2 9 8 0 false) (withV (withV { vec1 with g := { vec1.g with vc := { vec1.g.vc with vl := 1 } } } 8 (reg 0x0A [0xBFC00000])) 9
      (reg 0x0A [0]))) (fun t => elemOf t 9 0) = some 0x3EB504F3 := by decide +kernel

/-- The table below R343: qA = (3, 1.0), (7, 2.0), (9, 0.5) and qB = (7, 4.0), (8, 1.0), with VL = 10. -/
def pairs1 : State :=
  { vec1 with g := { vec1.g with
      vc := { vec1.g.vc with vl := 10 }
      q := (vec1.g.q.set 1 ⟨0x0A, [(3, 0x3F800000), (7, 0x40000000), (9, 0x3F000000)], []⟩).set 2 ⟨0x0A, [(7, 0x40800000), (8, 0x3F800000)], []⟩ } }

theorem test_sparse :
    after (exec (.sadd 3 1 2) pairs1) (fun t => qregOf t 3) =
      some ⟨0x0A, [(3, 0x3F800000), (7, 0x40C00000), (8, 0x3F800000), (9, 0x3F000000)], []⟩ ∧
    after (exec (.smul 4 1 2) pairs1) (fun t => (qregOf t 4).pairs) = some [(7, 0x41000000)] ∧
    after (exec (.sdot 10 1 2) pairs1) (fun t => getX t 10) = some 0x41000000 ∧
    after (exec (.slen 11 1) pairs1) (fun t => getX t 11) = some 3 := by decide +kernel

/-- R421: a trap of task level saves the pc and the level and goes to the handler. -/
theorem test_trap : after (exec (.trap 0xABC) run1) (fun t => (t.g.tr.tcause, t.g.tr.tval, t.g.tr.tepc, t.g.tr.lev, t.g.tr.plev, t.g.pc))
    = some (0x10, 0xABC, run1.g.pc, true, false, 0x1100) := by decide

/-- The table of 12_isa_matrix_sparse on chunk boundaries: fp8 ones in v16, and two ones in v17, with K = 40, from 16,777,216.0. -/
def chunks1 (at_ : List Nat) : State :=
  withV (withV { vec1 with eng := { vec1.eng with regions := [⟨0, vec1.g.gid, 0, 0, 1, .val 0x4B800000, [], []⟩] } } 16
    (reg 0x0D (List.replicate 40 0x38))) 17 (reg 0x0D ((List.range 40).map (fun k => if at_.contains k then 0x38 else 0)))

theorem test_chunks : ∀ p ∈ [([0, 32], 0x4B800000), ([0, 1], 0x4B800001)],
    (matElem (chunks1 p.1) ⟨4, 0, 0, .mma, 0, 0, .running, 0, 1, 1, 40, .vreg 16, .vreg 17, 0, 0x0D, 0x0D, 0, false, [], false, 0⟩ 0 0
      0x4B800000).1 = p.2 := by decide +kernel

/-! ### Hypotheses met: what holds at reset -/

theorem witness_ResetValues : ∃ s, s = State.reset ∧ s.g.live = false := ⟨_, rfl, by decide⟩

end Sys2Proof.Tests
end

section
/-!
PROOFS. The scalar forms of the control thread: what they compute, and where branches and jumps go (R149, R230 to R233).
-/

namespace Sys2Proof.Proofs.ScalarControl

open Sys2Proof Sys2Proof.Machine Sys2Proof.Claims

/-! ### The model's arithmetic in the words of the rules (R149, R230, R231) -/

theorem mod_64_eq_toNat_and (y : Word) : y.toNat % 64 = (y &&& 63#64).toNat := by
  rw [BitVec.toNat_and]
  exact (Nat.and_two_pow_sub_one_eq_mod y.toNat 6).symm

theorem shiftLeft_mod_64 (x y : Word) : x <<< (y.toNat % 64) = x <<< (y &&& 63#64) :=
  congrArg (x <<< ·) (mod_64_eq_toNat_and y)

theorem shiftRight_mod_64 (x y : Word) : x >>> (y.toNat % 64) = x >>> (y &&& 63#64) :=
  congrArg (x >>> ·) (mod_64_eq_toNat_and y)

theorem sshiftRight_mod_64 (x y : Word) : x.sshiftRight (y.toNat % 64) = x.sshiftRight' (y &&& 63#64) :=
  congrArg x.sshiftRight (mod_64_eq_toNat_and y)

theorem ite_slt_eq {α : Type} (x y : Word) (p q : α) :
    (if x.slt y then p else q) = if x.toInt < y.toInt then p else q := by
  simp only [BitVec.slt, decide_eq_true_eq]

theorem ite_ult_eq {α : Type} (x y : Word) (p q : α) :
    (if x.ult y then p else q) = if x.toNat < y.toNat then p else q := by
  simp only [BitVec.ult, decide_eq_true_eq]

/-- A strict and a weak comparison select alike where equal keys leave nothing to select. -/
theorem ite_lt_eq_ite_le {α β : Type} [LinearOrder α] {x y : α} {p q : β} (h : x = y → p = q) :
    (if x < y then p else q) = if x ≤ y then p else q := by
  rcases lt_trichotomy x y with hlt | heq | hgt
  · rw [if_pos hlt, if_pos hlt.le]
  · rw [if_neg heq.not_lt, if_pos heq.le, h heq]
  · rw [if_neg hgt.not_gt, if_neg hgt.not_ge]

theorem lesser_eq (x y : Word) : (if x.slt y then x else y) = if x.toInt ≤ y.toInt then x else y :=
  (ite_slt_eq x y x y).trans (ite_lt_eq_ite_le BitVec.eq_of_toInt_eq)

theorem greater_eq (x y : Word) : (if x.slt y then y else x) = if x.toInt ≤ y.toInt then y else x :=
  (ite_slt_eq x y y x).trans (ite_lt_eq_ite_le fun h => (BitVec.eq_of_toInt_eq h).symm)

theorem lesserU_eq (x y : Word) : (if x.ult y then x else y) = if x.toNat ≤ y.toNat then x else y :=
  (ite_ult_eq x y x y).trans (ite_lt_eq_ite_le BitVec.eq_of_toNat_eq)

theorem greaterU_eq (x y : Word) : (if x.ult y then y else x) = if x.toNat ≤ y.toNat then y else x :=
  (ite_ult_eq x y y x).trans (ite_lt_eq_ite_le fun h => (BitVec.eq_of_toNat_eq h).symm)

theorem extractLsb'_high_ofInt (p : Int) : (BitVec.ofInt 128 p).extractLsb' 64 64 = BitVec.ofInt 64 (p / 2 ^ 64) := by
  apply BitVec.eq_of_toNat_eq
  simp only [BitVec.extractLsb'_toNat, BitVec.toNat_ofInt, Nat.shiftRight_eq_div_pow]
  omega

theorem highSigned_eq (x y : Word) :
    BitVec.ofInt 64 (x.toInt * y.toInt / 2 ^ 64) = (x.signExtend 128 * y.signExtend 128).extractLsb' 64 64 := by
  rw [← extractLsb'_high_ofInt, BitVec.ofInt_mul]
  rfl

theorem highUnsigned_eq (x y : Word) :
    BitVec.ofNat 64 (x.toNat * y.toNat / 2 ^ 64) = (x.zeroExtend 128 * y.zeroExtend 128).extractLsb' 64 64 := by
  have hlt : x.toNat * y.toNat < 2 ^ 64 * 2 ^ 64 := Nat.mul_lt_mul'' x.isLt y.isLt
  have hext (z : Word) : (z.zeroExtend 128).toNat = z.toNat := BitVec.toNat_setWidth_of_le (by omega)
  apply BitVec.eq_of_toNat_eq
  rw [BitVec.extractLsb'_toNat, BitVec.toNat_mul, hext, hext, BitVec.toNat_ofNat, Nat.shiftRight_eq_div_pow,
    Nat.mod_eq_of_lt (b := 2 ^ 128) hlt]

theorem sdivX_eq (x y : Word) : sdivX x y = if y = 0 then BitVec.allOnes 64 else x.sdiv y := by
  have hdiv : BitVec.ofInt 64 (x.toInt.tdiv y.toInt) = x.sdiv y :=
    BitVec.eq_of_toInt_eq (by rw [BitVec.toInt_ofInt, BitVec.toInt_sdiv])
  rw [sdivX, hdiv]

theorem sremX_eq (x y : Word) : sremX x y = if y = 0 then x else x.srem y := by
  rw [sremX, ← BitVec.toInt_srem, BitVec.ofInt_toInt]

theorem udivX_eq (x y : Word) : udivX x y = if y = 0 then BitVec.allOnes 64 else x / y := by
  rw [udivX, ← BitVec.udiv_def]

theorem uremX_eq (x y : Word) : uremX x y = if y = 0 then x else x % y := by
  rw [uremX, ← BitVec.umod_def]

theorem sext64_imm16 (i : Fin 65536) : sext64 i 16 = imm16 i := sext64_eq i 16 (by decide) (by decide) i.isLt

theorem zext64_imm16 (i : Fin 65536) : zext64 i 16 = BitVec.ofNat 64 i.val := by
  rw [zext64, Nat.mod_eq_of_lt (b := 2 ^ 16) i.isLt]

theorem sext64_upper (i : Fin 2097152) : sext64 i 21 * (65536 : Word) = (BitVec.ofNat 21 i.val).signExtend 64 <<< 16 := by
  rw [sext64_eq i 21 (by decide) (by decide) i.isLt]
  exact BitVec.mul_twoPow_eq_shiftLeft _ 16

/-! ### Bit counts (R230) -/

theorem bit_toNat_eq_getLsbD (a : Word) (j : Nat) : bit a.toNat j = a.getLsbD j := by
  rw [BitVec.getLsbD, Nat.testBit_eq_decide_div_mod_eq, bit, Nat.shiftRight_eq_div_pow]
  rfl

/-- clz: the highest 1 stands below as many zeros, and 64 zeros are those of 0. -/
theorem clzX_counts (a : Word) : (clzX a).toNat ≤ 64 ∧ ((clzX a).toNat = 64 ↔ a = 0) ∧
    ((clzX a).toNat < 64 → a.getLsbD (63 - (clzX a).toNat) = true) ∧
    ∀ j, 64 - (clzX a).toNat ≤ j → a.getLsbD j = false := by
  by_cases ha : a = 0
  · simp [clzX, ha]
  · have h0 : a.toNat ≠ 0 := fun h => ha (BitVec.eq_of_toNat_eq h)
    have hlog : a.toNat.log2 < 64 := (Nat.log2_lt h0).mpr a.isLt
    have hv : (clzX a).toNat = 63 - a.toNat.log2 := by rw [clzX, if_neg ha, BitVec.toNat_ofNat]; omega
    rw [hv]
    refine ⟨by omega, ⟨by omega, fun h => absurd h ha⟩, fun _ => ?_, fun j hj => ?_⟩
    · rw [show 63 - (63 - a.toNat.log2) = a.toNat.log2 by omega]
      exact Nat.testBit_log2 h0
    · exact Nat.testBit_lt_two_pow ((Nat.log2_lt h0).mp (by omega))

theorem toNat_ctzX (a : Word) : (ctzX a).toNat = ((List.range 64).find? (fun i => a.getLsbD i)).getD 64 := by
  simp only [ctzX, BitVec.toNat_ofNat, bit_toNat_eq_getLsbD]
  apply Nat.mod_eq_of_lt
  cases h : (List.range 64).find? (fun i => a.getLsbD i) with
  | none => decide
  | some k =>
    have hk : k < 64 := List.mem_range.mp (List.mem_of_find?_eq_some h)
    exact hk.trans (by decide)

/-- ctz: the lowest 1 stands above as many zeros, and 64 zeros are those of 0. -/
theorem ctzX_counts (a : Word) : (ctzX a).toNat ≤ 64 ∧ ((ctzX a).toNat = 64 ↔ a = 0) ∧
    ((ctzX a).toNat < 64 → a.getLsbD (ctzX a).toNat = true) ∧
    ∀ j, j < (ctzX a).toNat → a.getLsbD j = false := by
  rw [toNat_ctzX]
  cases h : (List.range 64).find? (fun i => a.getLsbD i) with
  | none =>
    have hz : ∀ j, j < 64 → a.getLsbD j = false := by simpa using h
    have ha : a = 0 := BitVec.eq_of_getLsbD_eq fun j hj => by simpa using hz j hj
    simpa using ⟨ha, hz⟩
  | some k =>
    obtain ⟨hk, hk64, hlow⟩ := List.find?_range_eq_some.mp h
    rw [List.mem_range] at hk64
    have ha : a ≠ 0 := by rintro rfl; simp at hk
    simp only [Option.getD_some]
    exact ⟨hk64.le, ⟨by omega, fun h => absurd h ha⟩, fun _ => hk, fun j hj => by simpa using hlow j hj⟩

theorem toNat_popcX (a : Word) : (popcX a).toNat = ((List.range 64).filter (fun j => a.getLsbD j)).length := by
  have hle := List.length_filter_le (fun j => a.getLsbD j) (List.range 64)
  rw [List.length_range] at hle
  simp only [popcX, BitVec.toNat_ofNat, bit_toNat_eq_getLsbD]
  omega

/-! ### Forms that write one register -/

/-- An outcome is what the rules state of a form: with no source poisoned the form's value is written to its destination,
and the word retires. -/
def Computes (r : Res) (f : XForm) (s : State) : Prop :=
  poisonedX s f.srcs = none → ∃ d : Fin 32, f.d = d ∧ r = .next (retire (setX s d (f.val s)))

theorem aluRR_computes {s : State} {d a b : Fin 32} {f g : Word → Word → Word} (h : ∀ x y, f x y = g x y) :
    Computes (aluRR s d a b f) (.two d a b g) s := by
  intro hp
  exact ⟨d, rfl, by rw [aluRR_clean s d a b f hp, h]; rfl⟩

theorem aluR_computes {s : State} {d a : Fin 32} {f g : Word → Word} (h : ∀ x, f x = g x) :
    Computes (aluR s d a f) (.one d a g) s := by
  intro hp
  exact ⟨d, rfl, by rw [aluR_clean s d a f hp, h]; rfl⟩

theorem value_computes {s : State} {d : Fin 32} {v : Word} {val : State → Word} (h : v = val s) :
    Computes (.next (retire (setX s d v))) ⟨d, [], val⟩ s :=
  fun _ => ⟨d, rfl, by rw [h]⟩

/-- The model computes each form of `xForm` as the rules state it. -/
theorem exec_xForm (i : Instr) (f : XForm) (s : State) (h : xForm i = some f) : Computes (exec i s) f s := by
  cases i
  case add d a b => cases h; exact (aluRR_computes fun _ _ => rfl : Computes (execAdd d a b s) _ s)
  case sub d a b => cases h; exact (aluRR_computes fun _ _ => rfl : Computes (execSub d a b s) _ s)
  case and d a b => cases h; exact (aluRR_computes fun _ _ => rfl : Computes (execAnd d a b s) _ s)
  case or d a b => cases h; exact (aluRR_computes fun _ _ => rfl : Computes (execOr d a b s) _ s)
  case xor d a b => cases h; exact (aluRR_computes fun _ _ => rfl : Computes (execXor d a b s) _ s)
  case sll d a b => cases h; exact (aluRR_computes shiftLeft_mod_64 : Computes (execSll d a b s) _ s)
  case srl d a b => cases h; exact (aluRR_computes shiftRight_mod_64 : Computes (execSrl d a b s) _ s)
  case sra d a b => cases h; exact (aluRR_computes sshiftRight_mod_64 : Computes (execSra d a b s) _ s)
  case slt d a b => cases h; exact (aluRR_computes fun x y => ite_slt_eq x y 1 0 : Computes (execSlt d a b s) _ s)
  case sltu d a b => cases h; exact (aluRR_computes fun x y => ite_ult_eq x y 1 0 : Computes (execSltu d a b s) _ s)
  case mul d a b => cases h; exact (aluRR_computes fun _ _ => rfl : Computes (execMul d a b s) _ s)
  case mulh d a b => cases h; exact (aluRR_computes highSigned_eq : Computes (execMulh d a b s) _ s)
  case mulhu d a b => cases h; exact (aluRR_computes highUnsigned_eq : Computes (execMulhu d a b s) _ s)
  case div d a b => cases h; exact (aluRR_computes sdivX_eq : Computes (execDiv d a b s) _ s)
  case divu d a b => cases h; exact (aluRR_computes udivX_eq : Computes (execDivu d a b s) _ s)
  case rem d a b => cases h; exact (aluRR_computes sremX_eq : Computes (execRem d a b s) _ s)
  case remu d a b => cases h; exact (aluRR_computes uremX_eq : Computes (execRemu d a b s) _ s)
  case min d a b => cases h; exact (aluRR_computes lesser_eq : Computes (execMin d a b s) _ s)
  case max d a b => cases h; exact (aluRR_computes greater_eq : Computes (execMax d a b s) _ s)
  case minu d a b => cases h; exact (aluRR_computes lesserU_eq : Computes (execMinu d a b s) _ s)
  case maxu d a b => cases h; exact (aluRR_computes greaterU_eq : Computes (execMaxu d a b s) _ s)
  case addi d a i =>
    cases h
    exact (aluR_computes fun x => congrArg (x + ·) (sext64_imm16 i) : Computes (execAddi d a i s) _ s)
  case andi d a i =>
    cases h
    exact (aluR_computes fun x => congrArg (x &&& ·) (zext64_imm16 i) : Computes (execAndi d a i s) _ s)
  case ori d a i =>
    cases h
    exact (aluR_computes fun x => congrArg (x ||| ·) (zext64_imm16 i) : Computes (execOri d a i s) _ s)
  case xori d a i =>
    cases h
    exact (aluR_computes fun x => congrArg (x ^^^ ·) (zext64_imm16 i) : Computes (execXori d a i s) _ s)
  case slli d a n => cases h; exact (aluR_computes fun _ => rfl : Computes (execSlli d a n s) _ s)
  case srli d a n => cases h; exact (aluR_computes fun _ => rfl : Computes (execSrli d a n s) _ s)
  case srai d a n => cases h; exact (aluR_computes fun _ => rfl : Computes (execSrai d a n s) _ s)
  case slti d a i =>
    cases h
    exact (aluR_computes fun x => by rw [sext64_imm16, ite_slt_eq] : Computes (execSlti d a i s) _ s)
  case ldhi d i =>
    cases h
    change Computes (execLdhi d i s) _ s
    exact value_computes (sext64_upper i)
  case adpc d i =>
    cases h
    change Computes (execAdpc d i s) _ s
    exact value_computes (congrArg (s.g.pc + ·) (sext64_upper i))
  all_goals cases h

theorem bitCount_writes {s : State} {a : Fin 32} (d : Fin 32) (count : Word → Word) (hp : poisonedX s [a.val] = none) :
    ∃ t, aluR s d a count = .next t ∧ OnlyX s t d (count (getX s a)) ∧ Retired s t :=
  ⟨_, aluR_clean s d a count hp, retire_setX_only s d _⟩

/-! ### Words of a bit count with a second source (R208, R230) -/

theorem decAlu_bitCount_secondSource {w : Nat} (hb : w / 2048 % 32 ≠ 0)
    (hfn : w % 2048 = 0x15 ∨ w % 2048 = 0x16 ∨ w % 2048 = 0x17) : decAlu w = none := by
  rcases hfn with h | h | h <;> simp only [decAlu, h, if_neg hb]

theorem decodeControl_alu_none {w : Nat} (hmajor : w / 67108864 = 1) (h : decAlu w = none) : decodeControl w = none := by
  simp only [decodeControl, decode, hmajor, h]

/-- Settles O1: each form writes the value of its rule by `exec_xForm`, each bit count its count, and a second source
leaves no word of a bit count. -/
theorem scalarResults : Obligations.ScalarResults := by
  refine ⟨fun i f s hf hp => ?_, fun d a s hp => ⟨?_, ?_, ?_⟩, fun d a b fn hd ha hb0 hb hfn => ?_⟩
  · obtain ⟨d, hd, he⟩ := exec_xForm i f s hf hp
    exact ⟨_, he, hd ▸ retire_setX_only s d (f.val s)⟩
  · obtain ⟨t, he, hx, hr⟩ := bitCount_writes d clzX hp
    exact ⟨t, _, he, hx, hr, clzX_counts (getX s a)⟩
  · obtain ⟨t, he, hx, hr⟩ := bitCount_writes d ctzX hp
    exact ⟨t, _, he, hx, hr, ctzX_counts (getX s a)⟩
  · obtain ⟨t, he, hx, hr⟩ := bitCount_writes d popcX hp
    exact ⟨t, _, he, hx, hr, toNat_popcX (getX s a)⟩
  · exact decodeControl_alu_none (by omega) (decAlu_bitCount_secondSource (by omega) (by omega))

/-! ### Branches and jumps (R232, R233) -/

/-- A write that a word which retires makes is made alike by one that jumps. -/
theorem onlyX_retireTo {s u : State} {d : Nat} {v : Word} (p : Word) (h : OnlyX s (retire u) d v) :
    OnlyX s (retireTo u p) d v := by
  obtain ⟨⟨x, q, hit, n, pc, flow, waits, conv, ret, sp, st, he⟩, hkept, hfree, hpoison⟩ := h
  refine ⟨⟨x, q, hit, n, p, .jumped, Waits.none, 0, ret, sp, false, ?_⟩, hkept, hfree, hpoison⟩
  exact congrArg (fun t : State =>
    { t with g := { t.g with pc := p, flow := .jumped, waits := Waits.none, convoyLen := 0 }, stalled := false }) he

theorem jumpedTo_retireTo {s u : State} (p : Word) (h : Retired s (retire u)) : JumpedTo s (retireTo u p) p :=
  ⟨rfl, rfl, h.2⟩

theorem retireTo_only (s : State) (p : Word) : OnlyControl s (retireTo s p) := ⟨_, _, _, _, _, _, _, rfl⟩

theorem retireTo_setX_only (s : State) (d : Fin 32) (v p : Word) :
    OnlyX s (retireTo (setX s d v) p) d v ∧ JumpedTo s (retireTo (setX s d v) p) p :=
  (retire_setX_only s d v).imp (onlyX_retireTo p) (jumpedTo_retireTo p)

/-- The model takes each conditional branch as the rules state it. -/
theorem exec_branchForm (i : Instr) (f : BranchForm) (s : State) (h : branchForm i = some f) :
    ∃ taken : Word → Word → Bool,
      exec i s = branch s f.a f.b f.off taken ∧ ∀ x y, taken x y = true ↔ f.taken x y := by
  cases i
  case beq => cases h; exact ⟨fun x y => x == y, rfl, fun _ _ => beq_iff_eq⟩
  case bne => cases h; exact ⟨fun x y => x != y, rfl, fun _ _ => bne_iff_ne⟩
  case blt => cases h; exact ⟨BitVec.slt, rfl, fun _ _ => BitVec.slt_iff_toInt_lt⟩
  case bge => cases h; exact ⟨fun x y => !x.slt y, rfl, fun _ _ => by simp [BitVec.slt]⟩
  case bltu => cases h; exact ⟨BitVec.ult, rfl, fun _ _ => by simp [BitVec.ult]⟩
  case bgeu => cases h; exact ⟨fun x y => !x.ult y, rfl, fun _ _ => by simp [BitVec.ult]⟩
  all_goals cases h

theorem branch_clean {s : State} {a b : Nat} (o : Fin 65536) (taken : Word → Word → Bool)
    (hp : poisonedX s [a, b] = none) : branch s a b o taken =
      .next (if taken (getX s a) (getX s b) then transfer s (s.g.pc + imm16 o * 4) id else retire s) := by
  rw [branch, readingX_clean s _ _ hp, sext64_imm16]

theorem exec_jl (s : State) (o : Fin 67108864) :
    exec (.jl o) s = .next (transfer s (jlTarget s o) fun s => setX s 1 (s.g.pc + 4)) := by
  rw [jlTarget, ← sext64_eq o 26 (by decide) (by decide) o.isLt]
  rfl

theorem exec_jlr_clean (d : Fin 32) {a : Fin 32} (i : Fin 65536) {s : State} (hp : poisonedX s [a.val] = none) :
    exec (.jlr d a i) s = .next (if (getX s a + imm16 i).toNat % 4 ≠ 0 then trap s cMisaligned (getX s a + imm16 i)
      else transfer s (getX s a + imm16 i) fun s => setX s d (s.g.pc + 4)) := by
  rw [← sext64_imm16]
  exact congrArg _ (readingX_clean s [a.val] _ hp)

theorem word_mod_4_eq_zero_iff (t : Word) : t % 4 = 0 ↔ t.toNat % 4 = 0 := by
  rw [← BitVec.toNat_inj]
  rfl

theorem branches (i : Instr) (f : BranchForm) (s : State) (hf : branchForm i = some f) (hp : poisonedX s [f.a, f.b] = none) :
    (¬ f.taken (getX s f.a) (getX s f.b) → ∃ t, exec i s = .next t ∧ OnlyControl s t ∧ Retired s t) ∧
    (f.taken (getX s f.a) (getX s f.b) → inExtent s.g (f.target s).toNat = true →
      ∃ t, exec i s = .next t ∧ OnlyControl s t ∧ JumpedTo s t (f.target s)) := by
  obtain ⟨taken, he, htaken⟩ := exec_branchForm i f s hf
  rw [he, branch_clean f.off taken hp]
  refine ⟨fun hn => ?_, fun ht hin => ?_⟩
  · rw [if_neg (mt (htaken _ _).mp hn)]
    exact ⟨_, rfl, retire_only s⟩
  · rw [if_pos ((htaken _ _).mpr ht)]
    exact ⟨_, congrArg _ ((transfer_cases s _ id).1 hin), retireTo_only s _, jumpedTo_retireTo _ (retire_only s).2⟩

/-- A jump into the code extent writes its link and goes to its target. -/
theorem jump_links {s : State} {p : Word} (d : Fin 32) (hin : inExtent s.g p.toNat = true) :
    ∃ t, (.next (transfer s p fun s => setX s d (s.g.pc + 4)) : Res) = .next t ∧ OnlyX s t d (s.g.pc + 4) ∧
      JumpedTo s t p :=
  ⟨_, congrArg _ ((transfer_cases s p _).1 hin), retireTo_setX_only s d (s.g.pc + 4) p⟩

/-- Settles O2: a branch by `exec_branchForm`, a jump by `jump_links`, and a misaligned `jlr` by the trap that it takes. -/
theorem branchesAndJumps : Obligations.BranchesAndJumps := by
  refine ⟨branches, fun o s hin => ?_, fun d a i s hp h4 hin => ?_, fun d a i s hp h4 hd => ?_⟩
  · rw [exec_jl]
    exact jump_links 1 hin
  · rw [exec_jlr_clean d i hp, if_neg (not_not.mpr ((word_mod_4_eq_zero_iff _).mp h4))]
    exact jump_links d hin
  · rw [exec_jlr_clean d i hp, if_pos (mt (word_mod_4_eq_zero_iff _).mpr h4)]
    exact ⟨_, rfl, takeTrap_entered s cMisaligned _ _ hd⟩

end Sys2Proof.Proofs.ScalarControl
end

section
/-!
PROOFS. Vector words of the control thread at a group that is ready for them: the checks that pass, what is written,
and how such a word ends (R119, R127, R131, R168, R279, R425).
-/

namespace Sys2Proof.Proofs.VectorWords

open Sys2Proof Sys2Proof.Machine Sys2Proof.Claims

/-! ### Elements that act -/

theorem mem_range_iff {a b e : Nat} : e ∈ range a b ↔ a ≤ e ∧ e < b := by
  simp only [range, List.mem_map, List.mem_range]
  exact ⟨by rintro ⟨i, hi, rfl⟩; omega, fun h => ⟨e - a, by omega, by omega⟩⟩

theorem lt_vl_of_mem_acting {s : State} {m e : Nat} (h : e ∈ acting s m) : e < s.g.vc.vl :=
  (mem_range_iff.mp (List.mem_of_mem_filter h)).2

/-! ### How a performed word ends (R279) -/

/-- What a vector word may have changed before it retires. -/
def VectorWork (s u : State) : Prop :=
  ∃ v vs m mh rm ff lf fc ck,
    u = { s with
      g := { s.g with v := v, vSeq := vs, m := m, mHit := mh, rowMap := rm
                      vc := { s.g.vc with fflags := ff, lfsr := lf } }
      freeCtr := fc, clock := ck }

theorem VectorWork.refl (s : State) : VectorWork s s := ⟨_, _, _, _, _, _, _, _, _, rfl⟩

theorem VectorWork.trans {s u t : State} (h : VectorWork s u) (h' : VectorWork u t) : VectorWork s t := by
  obtain ⟨_, _, _, _, _, _, _, _, _, rfl⟩ := h
  obtain ⟨_, _, _, _, _, _, _, _, _, rfl⟩ := h'
  exact ⟨_, _, _, _, _, _, _, _, _, rfl⟩

/-- The toll due once word `i` has been performed (R408). -/
def tollAfter (i : Instr) (u : State) : Nat :=
  if convoyable i then u.g.toll + memberToll u (active u.g (ctxG u) (regsOf i).mask) (regsOf i) else u.g.toll

/-- The end of a word that has been performed: VSTART is 0, its toll is due, and it retires. -/
def endWord (i : Instr) (u : State) : State :=
  retireAs { u with g := { u.g with vc := { u.g.vc with vstart := 0 }, toll := tollAfter i u } } (convoyable i)

/-- A word that is performed at a ready group ends there. -/
theorem controlV_done {s u : State} (i : Instr) {f : State → VCtx → VOut} (h : VectorReady s)
    (hf : f s (ctxG s) = .done u) : controlV s i f = endWord i u := by
  simp only [controlV, withBound, h.idle, h.loose, hf, Bool.false_eq_true, ↓reduceIte]
  rfl

theorem vectorRest_endWord (i : Instr) {s u : State} (h : VectorWork s u) : VectorRest s (endWord i u) := by
  obtain ⟨_, _, _, _, _, _, _, _, _, rfl⟩ := h
  exact ⟨_, _, _, _, _, _, _, _, _, _, _, _, _, _, _, _, _, rfl⟩

theorem retired_endWord (i : Instr) {s u : State} (h : VectorWork s u) : Retired s (endWord i u) := by
  obtain ⟨_, _, _, _, _, _, _, _, _, rfl⟩ := h
  exact ⟨rfl, rfl, rfl⟩

/-- A write that a word makes which retires is made alike by one that may belong to a convoy. -/
theorem onlyX_retireAs {s u : State} {d : Nat} {v : Word} (conv : Bool) (h : OnlyX s (retire u) d v) :
    OnlyX s (retireAs u conv) d v := by
  obtain ⟨⟨x, q, hit, n, pc, flow, waits, len, ret, sp, st, he⟩, hkept, hfree, hpoison⟩ := h
  refine ⟨⟨x, q, hit, n, pc, .seq conv, waits, if conv then u.g.convoyLen + 1 else 0, ret, sp, st, ?_⟩,
    hkept, hfree, hpoison⟩
  exact congrArg (fun t : State =>
    { t with g := { t.g with flow := .seq conv, convoyLen := if conv then u.g.convoyLen + 1 else 0 } }) he

/-- The end of a word that has written an x register alone. -/
theorem endWord_setX (i : Instr) (s : State) (d : Fin 32) (v : Word) :
    ∃ s', VectorRest s s' ∧ s'.g.v = s.g.v ∧ OnlyX s' (endWord i (setX s d v)) d v ∧
      Retired s (endWord i (setX s d v)) := by
  let s' : State :=
    { s with g := { s.g with vc := { s.g.vc with vstart := 0 }, toll := tollAfter i (setX s d v) } }
  have hend : endWord i (setX s d v) = retireAs (setX s' d v) (convoyable i) := by
    simp only [endWord, s']
    unfold setX Group.setX
    split <;> split <;> rfl
  obtain ⟨honly, hret⟩ := retire_setX_only s' d v
  exact ⟨s', ⟨_, _, _, _, _, _, _, _, _, _, _, _, _, _, _, _, _, rfl⟩, rfl, hend ▸ onlyX_retireAs _ honly, hend ▸ hret⟩

/-! ### Checks that pass -/

theorem sideCheck_whole {s : State} (h : isSplit s s.g = false) (access : Bool) (vs ms : List Nat) (k : Unit → VOut) :
    sideCheck s access vs ms k = k () := by
  simp [sideCheck, h]

theorem maskClean_sound {s : State} (h : s.granules = []) (c : VCtx) (m : Nat) (k : Unit → VOut) :
    maskClean s c m k = k () := by
  simp [maskClean, maskBad, h]

theorem maskPoison_sound {s : State} (h : s.granules = []) (m e : Nat) : maskPoison s m e = false := by
  simp [maskPoison, h]

theorem mxIndep_ctxG (s : State) (rs : List Nat) (k : Unit → VOut) : mxIndep s (ctxG s) rs k = k () := rfl

theorem capCheck_of_fits {s : State} {rs : List (Nat × Nat)} (k : Unit → VOut)
    (h : ∀ x ∈ rs, s.g.vc.vl ≤ capacity s x.1 x.2 (vregOf s.g x.1).gf) : capCheck s (ctxG s) rs k = k () := by
  simp only [capCheck, ctxG]
  split
  next x hx =>
    have hover := List.find?_some hx
    exact absurd (h x (List.mem_of_find?_eq_some hx)) (Nat.not_le_of_lt (of_decide_eq_true hover))
  next => rfl

theorem rowCheck_of_le {s : State} {slot need : Nat} (k : Unit → VOut) (h : rowsWith s.g.rowMap slot need ≤ 1024) :
    rowCheck s slot need k = k () :=
  if_neg fun hn => absurd hn.1 (by omega)

theorem destTag_of_fits {s : State} {d t : Nat} (h : DestFits s d t) : destTag s.g d t = t := by
  rcases h.tag with hpin | htag
  · simp [destTag, hpin]
  · simp [destTag, htag]

/-- A destination that takes the tag, with sources that fit, passes its checks. -/
theorem destK_of_fits {s : State} {d t : Nat} {srcs : List Nat} (k : Nat → VOut) (hok : destOk s.g d t = true)
    (hd : DestFits s d t) (hs : ∀ r ∈ srcs, SourceFits s r) : destK s (ctxG s) d t srcs k = k t := by
  have hfits : ∀ x ∈ srcs.map (fun r => (r, tagOf s r)) ++ [(d, t)],
      s.g.vc.vl ≤ capacity s x.1 x.2 (vregOf s.g x.1).gf := by
    simp only [List.mem_append, List.mem_map, List.mem_singleton]
    rintro _ (⟨r, hr, rfl⟩ | rfl)
    · exact hs r hr
    · exact hd.room
  simp only [destK, hok, Bool.true_eq_false, ↓reduceIte, destTag_of_fits hd]
  rw [capCheck_of_fits _ hfits]
  exact rowCheck_of_le _ hd.rows

/-! ### Integer tags (R121, R148, R149) -/

theorem isInt_excludes {t : Nat} (h : isInt t = true) :
    t ≠ 0 ∧ t ≠ tagBit ∧ t ≠ tagE8m0 ∧ isMx t = false ∧ isFloat t = false := by
  simp only [isInt, isMx, isFloat, tagBit, tagE8m0, Bool.or_eq_true, Bool.and_eq_true, decide_eq_true_eq,
    Bool.and_eq_false_iff, decide_eq_false_iff_not] at h ⊢
  omega

/-- The 6-bit formats alone leave container bits unused. -/
theorem vw_of_isInt {t : Nat} (h : isInt t = true) : vw t = cw t := by
  unfold vw
  split
  case h_5 => rfl
  all_goals exact absurd h (by decide)

theorem wrapN_eq_toNat_ofInt (z : Int) (w : Nat) : wrapN z w = (BitVec.ofInt w z).toNat :=
  (BitVec.toNat_ofInt z).symm

theorem wrapN_mod (z : Int) (w : Nat) : wrapN z w % 2 ^ w = wrapN z w := by
  rw [wrapN_eq_toNat_ofInt, Nat.mod_eq_of_lt (BitVec.isLt _)]

theorem wrapN_natCast (n w : Nat) : wrapN n w = n % 2 ^ w := by
  rw [wrapN, ← Int.natCast_mod, Int.toNat_natCast]

theorem toS_eq_toInt (x : Nat) {w : Nat} (hw : 0 < w) : toS x w = (BitVec.ofNat w x).toInt := by
  obtain ⟨n, rfl⟩ := Nat.exists_eq_succ_of_ne_zero hw.ne'
  simp only [toS, BitVec.toInt_eq_toNat_cond, BitVec.toNat_ofNat, Nat.succ_eq_add_one, Nat.add_sub_cancel, Nat.pow_succ]
  congr 1
  exact propext (by omega)

/-- Reading a wrapped integer in its tag and wrapping it again gives the same pattern. -/
theorem wrapN_intVal_wrapN (t : Nat) (z : Int) : wrapN (intVal t (wrapN z (cw t))) (cw t) = wrapN z (cw t) := by
  have hmod : intVal t (wrapN z (cw t)) % ((2 ^ cw t : Nat) : Int) = wrapN z (cw t) := by
    unfold intVal toS
    rw [wrapN_mod]
    have hlt := (BitVec.ofInt (cw t) z).isLt
    rw [← wrapN_eq_toNat_ofInt] at hlt
    split
    · split
      · exact Int.emod_eq_of_lt (by omega) (by exact_mod_cast hlt)
      · rw [Int.sub_emod_right]
        exact Int.emod_eq_of_lt (by omega) (by exact_mod_cast hlt)
    · exact Int.emod_eq_of_lt (by omega) (by exact_mod_cast hlt)
  rw [wrapN, hmod, Int.toNat_natCast]

/-- A destination of an integer tag takes results of that tag. -/
theorem destOk_ownInt {s : State} {d : Nat} (h : isInt (vregOf s.g d).tag = true) :
    destOk s.g d (vregOf s.g d).tag = true := by
  obtain ⟨h0, hbit, h8, hmx, -⟩ := isInt_excludes h
  simp [destOk, h0, hbit, h8, hmx]

/-! ### Writing elements (R131, R281) -/

/-- A fold that appends one result for each member and leaves its state alone. -/
theorem foldl_append_of_fixed {α β σ : Type} {f : List β × σ → α → List β × σ} {g : α → β} {r : σ}
    (h : ∀ acc a, f (acc, r) a = (acc ++ [g a], r)) (l : List α) (acc : List β) :
    l.foldl f (acc, r) = (acc ++ l.map g, r) := by
  induction l generalizing acc with
  | nil => simp
  | cons a l ih => simp [h, ih]

/-- Integers go into an integer tag wrapped to its width, and raise no flag. -/
theorem convAll_int {t : Nat} (h : isInt t = true) (r : Rnd) (mode : Option Nat) (satF : Bool) (z : Nat → Int)
    (es : List Nat) :
    convAll r t mode satF false (es.map fun e => (e, .int (z e))) = (es.map fun e => (e, wrapN (z e) (cw t)), [], r) := by
  obtain ⟨-, -, -, hmx, hfl⟩ := isInt_excludes h
  simp only [convAll, hmx, Bool.false_eq_true, ↓reduceIte, List.foldl_map]
  rw [foldl_append_of_fixed (g := fun e => (e, wrapN (z e) (cw t))) (fun acc e => by simp [Rnd.conv, hfl])]
  simp

theorem tabGet?_tabPutAll_map {α : Type} (f : Nat → α) (es : List Nat) (t : Table α) (k : Nat) :
    tabGet? (tabPutAll t (es.map fun e => (e, f e))) k = if k ∈ es then some (f k) else tabGet? t k := by
  induction es generalizing t with
  | nil => simp [tabPutAll]
  | cons e es ih =>
    refine (ih (tabPut t e (f e))).trans ?_
    by_cases hmem : k ∈ es
    · simp [hmem]
    · by_cases hk : e = k
      · simp [hk]
      · simp [hmem, tabGet?_tabPut_ne _ _ _ _ hk, Ne.symm hk]

/-- With no granule poisoned, clean writes poison none. -/
theorem granuleWrites_clean {g : List Nat} {ws : List (Nat × Nat × Bool)} (hg : g = []) (h : ∀ w ∈ ws, w.2.2 = false) :
    granuleWrites g ws = g :=
  if_pos ⟨hg, List.all_eq_true.mpr fun w hw => by rw [h w hw]; rfl⟩

theorem granuleWrites_flatMap_clean {g : List Nat} {ws : List (Nat × Nat × Bool)} {k : Nat × Nat × Bool → Nat} {n : Nat}
    (hg : g = []) (h : ∀ w ∈ ws, w.2.2 = false) :
    granuleWrites g (ws.flatMap fun w => [(k w, n, w.2.2)]) = g := by
  refine granuleWrites_clean hg ?_
  simp only [List.mem_flatMap, List.mem_singleton]
  rintro _ ⟨w, hw, rfl⟩
  exact h w hw

theorem vregOf_setIfInBounds (g : Group) (vs : Vector VReg 32) (d r : Nat) (v : VReg) (h : g.v = vs.setIfInBounds d v) :
    vregOf g r = if d = r ∧ r < 32 then v else vs.toList.getD r VReg.reset := by
  rw [vregOf, h, toList_getD_set]

/-- A word that has not retired yet has written the patterns `p` at the elements `es` of register `d`, in the tag, and
nothing else. -/
structure Filled (s u : State) (d tag : Nat) (es : List Nat) (p : Nat → Nat) : Prop where
  work   : VectorWork s u
  others : ∀ r, r ≠ d → vregOf u.g r = vregOf s.g r
  masks  : u.g.m = s.g.m
  sticky : s.g.vc.fflags ||| u.g.vc.fflags = u.g.vc.fflags
  kept   : ElementsKept s u d tag es
  vals   : ∀ e ∈ es, elemOf u d e = p e % 2 ^ vw tag

theorem Filled.refl {s : State} {d tag : Nat} (p : Nat → Nat) (htag : (vregOf s.g d).tag = tag) : Filled s s d tag [] p :=
  ⟨.refl s, fun _ _ => rfl, rfl, Nat.or_self _, ⟨htag, fun _ _ _ _ => rfl⟩, fun _ h => absurd h (List.not_mem_nil)⟩

/-- The register that a write of elements leaves where it keeps its tag: elements beyond VL are forgotten in a tail-dead
one (R131). -/
def filledReg (s : State) (d : Nat) (ws : List (Nat × Nat)) : VReg :=
  (dropTail s { vregOf s.g d with elems := tabPutAll (vregOf s.g d).elems ws } s.g.vc.vl).1

@[simp] theorem filledReg_tag (s : State) (d : Nat) (ws : List (Nat × Nat)) :
    (filledReg s d ws).tag = (vregOf s.g d).tag := by
  unfold filledReg dropTail
  split <;> rfl

/-- An element below VL, or one of a register that is not tail-dead, is there after the write. -/
theorem filledReg_listed {s : State} {d e : Nat} (ws : List (Nat × Nat))
    (h : (vregOf s.g d).td = false ∨ e < s.g.vc.vl) :
    tabGet? (filledReg s d ws).elems e = tabGet? (tabPutAll (vregOf s.g d).elems ws) e := by
  unfold filledReg dropTail
  split
  next htd =>
    have hlt : e < s.g.vc.vl := h.resolve_left (by simpa using htd)
    simpa [hlt] using tabGet?_filter (tabPutAll (vregOf s.g d).elems ws) (fun k => decide (k < s.g.vc.vl)) e
  next => rfl

theorem filledReg_seed {s : State} {d : Nat} (ws : List (Nat × Nat)) (h : (vregOf s.g d).td = false) :
    (filledReg s d ws).seed = (vregOf s.g d).seed := by
  simp [filledReg, dropTail, h]

theorem filledReg_elem_written {s : State} {d e : Nat} {es : List Nat} (p : Nat → Nat) (he : e ∈ es)
    (hlt : e < s.g.vc.vl) : (filledReg s d (es.map fun e => (e, p e))).elem e = p e % 2 ^ vw (vregOf s.g d).tag := by
  simp [VReg.elem, filledReg_listed _ (.inr hlt), tabGet?_tabPutAll_map, he]

theorem filledReg_elem_kept {s : State} {d e : Nat} {es : List Nat} (p : Nat → Nat) (he : e ∉ es)
    (h : (vregOf s.g d).td = false ∨ (e < s.g.vc.vl ∧ (tabGet? (vregOf s.g d).elems e).isSome = true)) :
    (filledReg s d (es.map fun e => (e, p e))).elem e = (vregOf s.g d).elem e := by
  have hlisted := filledReg_listed (es.map fun e => (e, p e)) (h.imp_right And.left)
  rw [tabGet?_tabPutAll_map, if_neg he] at hlisted
  unfold VReg.elem
  rw [hlisted, filledReg_tag]
  split
  next => rfl
  next hnone =>
    have htd : (vregOf s.g d).td = false := h.resolve_right (by simp [hnone])
    rw [filledReg_seed _ htd]

/-- Clean elements written into a register of the tag, which no unfinished copy is to write, change it and nothing
else but its rows. -/
theorem writeElems_ownTag {s : State} {d : Nat} {ws : List (Nat × Nat × Bool)} (hg : s.granules = [])
    (hfree : d ∉ s.g.vPend) (hne : ws ≠ []) (hclean : ∀ w ∈ ws, w.2.2 = false) :
    ∃ vs rm fc ck, writeElems s (ctxG s) d (vregOf s.g d).tag ws [] = { s with
      g := { s.g with
        v := s.g.v.setIfInBounds d (filledReg s d (ws.map fun w => (w.1, w.2.1 % 2 ^ vw (vregOf s.g d).tag)))
        vSeq := vs, rowMap := rm }
      freeCtr := fc, clock := ck } := by
  have hcont : s.g.vPend.contains d = false := by simpa using hfree
  cases htd : (vregOf s.g d).td
  all_goals
    simp only [writeElems, hne, false_and, ↓reduceIte, retagged, ctxG, dropTail, htd, setV, filledReg, hcont,
      Bool.false_eq_true, List.map_nil]
    rw [granuleWrites_flatMap_clean hg hclean, granuleWrites_clean hg (by simp)]
    exact ⟨_, _, _, _, rfl⟩

/-- Clean elements below VL written into a register of the tag that takes them. -/
theorem filled_writeElems {s : State} {d tag : Nat} {es : List Nat} (p : Nat → Nat) (hg : s.granules = []) (hlt : d < 32)
    (htag : (vregOf s.g d).tag = tag) (hfree : d ∉ s.g.vPend) (hes : ∀ e ∈ es, e < s.g.vc.vl) :
    Filled s (writeElems s (ctxG s) d tag (es.map fun e => (e, p e, false)) []) d tag es p := by
  subst htag
  by_cases hne : es = []
  · subst hne
    rw [writeElems, if_pos ⟨rfl, rfl⟩]
    exact .refl p rfl
  · obtain ⟨vs, rm, fc, ck, hw⟩ := writeElems_ownTag (ws := es.map fun e => (e, p e, false)) hg hfree
      (by simpa using hne) (by simp)
    rw [List.map_map] at hw
    have hreg (r : Nat) := vregOf_setIfInBounds _ s.g.v d r _ (congrArg (fun u : State => u.g.v) hw)
    have hd := (hreg d).trans (if_pos ⟨rfl, hlt⟩)
    refine ⟨⟨_, _, _, _, _, _, _, _, _, hw⟩, fun r hr => (hreg r).trans (if_neg fun h => hr h.1.symm), ?_, ?_,
      ⟨?_, fun _ e he hkept => ?_⟩, fun e he => ?_⟩
    · rw [hw]
    · rw [hw]; exact Nat.or_self _
    · rw [hd, filledReg_tag]
    · exact (congrArg (·.elem e) hd).trans (filledReg_elem_kept (fun e => p e % 2 ^ vw (vregOf s.g d).tag) he hkept)
    · refine (congrArg (·.elem e) hd).trans ((filledReg_elem_written (fun e => p e % 2 ^ vw (vregOf s.g d).tag) he
        (hes e he)).trans (Nat.mod_mod _ _))

/-- Flags raised behind a write of elements are added to those that stand. -/
theorem Filled.raiseFlags {s u : State} {d tag : Nat} {es : List Nat} {p : Nat → Nat} (h : Filled s u d tag es p)
    (c : VCtx) (r : Rnd) (hc : c.indep = none) : Filled s (putRnd u c r) d tag es p := by
  have hput : putRnd u c r = { u with
      g := { u.g with vc := { u.g.vc with fflags := u.g.vc.fflags ||| r.flags, lfsr := r.lfsr } } } := by
    simp only [putRnd, hc]
  rw [hput]
  refine ⟨h.work.trans ⟨_, _, _, _, _, _, _, _, _, rfl⟩, h.others, h.masks, ?_, h.kept, h.vals⟩
  exact (Nat.or_assoc _ _ _).symm.trans (congrArg (· ||| r.flags) h.sticky)

/-- A word that has written elements ends with them written. -/
theorem Filled.ended {s u : State} {d tag : Nat} {es : List Nat} {p : Nat → Nat} (i : Instr)
    (h : Filled s u d tag es p) :
    WroteV s (endWord i u) d ∧ ElementsKept s (endWord i u) d tag es ∧
      ∀ e ∈ es, elemOf (endWord i u) d e = p e % 2 ^ vw tag :=
  ⟨⟨vectorRest_endWord i h.work, h.others, h.masks, h.sticky, retired_endWord i h.work⟩, h.kept, h.vals⟩

end Sys2Proof.Proofs.VectorWords
end

section
/-!
PROOFS. The forms of VMASK, index generation and VP numbers (R288, R296, R311).
-/

namespace Sys2Proof.Proofs.MaskForms

open Sys2Proof Sys2Proof.Machine Sys2Proof.Claims Sys2Proof.Proofs.VectorWords

/-! ### Words of VMASK (R217, R296) -/

/-- The rows of VMASK leave the upper bits of each mask register field, and every unused field, 0. -/
theorem decVmask_fields {w : Nat} {i : Instr} (h : decVmask w = some i) :
    w / 2 ^ 16 % 32 < 8 ∧ w / 2 ^ 11 % 32 < 8 ∧ (w % 128 ≤ 6 → w / 2 ^ 21 % 32 < 8) ∧
      (3 < w % 128 → w / 2 ^ 16 % 32 = 0) ∧ (w % 128 = 5 ∨ w % 128 = 6 → w / 2 ^ 11 % 32 = 0) := by
  unfold decVmask at h
  split at h
  case h_10 => cases h
  all_goals
    split at h
    case isFalse => cases h
    case isTrue => omega

/-- The destination of a well-formed mask form is not m0. -/
theorem decVmask_destination {w : Nat} {i : Instr} (h : decVmask w = some i) (hwf : i.wellFormed = true)
    (hfn : w % 128 ≤ 6) : w / 2 ^ 21 % 8 ≠ 0 := by
  have hd (hz : fld 8 w 2097152 ≠ 0) : w / 2 ^ 21 % 8 ≠ 0 := fun h0 => hz (Fin.ext h0)
  unfold decVmask at h
  split at h
  case h_10 => cases h
  case h_8 | h_9 => omega
  all_goals
    split at h
    case isFalse => cases h
    case isTrue =>
      cases h
      exact hd (by simpa [Instr.wellFormed] using hwf)

theorem decodeControl_vmask {w : Nat} {i : Instr} (hmajor : w / 2 ^ 26 = 0x28) (h : decodeControl w = some i) :
    decVmask w = some i ∧ i.wellFormed = true := by
  have hdec : decode false w = decVmask w := by simp only [decode, show w / 67108864 = 0x28 from hmajor]
  simp only [decodeControl, hdec] at h
  cases hv : decVmask w with
  | none => simp [hv] at h
  | some j =>
    simp only [hv, Option.ite_none_right_eq_some, Option.some.injEq] at h
    obtain ⟨hwf, rfl⟩ := h
    exact ⟨rfl, hwf⟩

/-! ### Element-wise mask forms (R296) -/

theorem maskForm_ready {s : State} (h : VectorReady s) (d a b m : Nat) (f : Bool → Bool → Bool) :
    maskForm s (ctxG s) d a b m f =
      .done (writeMask s d ((acting s m).map fun e => (e, f (maskBit s.g a e) (maskBit s.g b e), false))) := by
  simp only [maskForm, sideCheck_whole h.whole, maskClean_sound h.sound, maskPoison_sound h.sound, Bool.or_self]
  rw [List.find?_eq_none.mpr (by simp)]
  rfl

/-- Clean bits written into a mask register change it alone; m0 stays, and a register that an unfinished copy is to
write is undefined. -/
theorem writeMask_bits {s : State} {d : Nat} (es : List Nat) (f : Nat → Bool) (hg : s.granules = []) (hd : d < 8) :
    ∃ ms mh fc, writeMask s d (es.map fun e => (e, f e, false)) =
        { s with g := { s.g with m := ms, mHit := mh }, freeCtr := fc } ∧
      (∀ r, r ≠ d → ms.toList.getD r MReg.reset = mregOf s.g r) ∧
      (d ∉ s.g.mPend → ∀ e, maskBit { s.g with m := ms } d e = if d ≠ 0 ∧ e ∈ es then f e else maskBit s.g d e) := by
  unfold writeMask
  split
  next hskip =>
    refine ⟨s.g.m, s.g.mHit, s.freeCtr, rfl, fun _ _ => rfl, fun _ e => (if_neg ?_).symm⟩
    rintro ⟨h0, he⟩
    rcases hskip with rfl | hnil
    · exact h0 rfl
    · rw [List.map_eq_nil_iff.mp hnil] at he
      exact List.not_mem_nil he
  next hskip =>
    have h0 : d ≠ 0 := fun h => hskip (.inl h)
    rw [granuleWrites_clean hg (by simp)]
    split
    next hpend =>
      refine ⟨_, _, _, rfl, fun r hr => ?_, fun hfree => absurd (by simpa using hpend) hfree⟩
      rw [toList_getD_set, if_neg fun h => hr h.1.symm]
      rfl
    next hpend =>
      refine ⟨_, _, _, rfl, fun r hr => ?_, fun _ e => ?_⟩
      · rw [toList_getD_set, if_neg fun h => hr h.1.symm]
        rfl
      · simp only [maskBit, h0, ↓reduceIte, mregOf, toList_getD_set, hd, and_self, List.map_map, Function.comp_def,
          tabGet?_tabPutAll_map, ne_eq, not_false_eq_true, true_and]
        by_cases he : e ∈ es <;> simp [he]

/-- A mask form's word ends with the bits of its active elements written. -/
theorem wroteM_writeMask (i : Instr) {s : State} {d : Nat} (es : List Nat) (f : Nat → Bool) (hg : s.granules = [])
    (hd : d < 8) : WroteM s (endWord i (writeMask s d (es.map fun e => (e, f e, false)))) d es f := by
  obtain ⟨ms, mh, fc, hw, hothers, hbits⟩ := writeMask_bits es f hg hd
  have hwork : VectorWork s (writeMask s d (es.map fun e => (e, f e, false))) := ⟨_, _, _, _, _, _, _, _, _, hw⟩
  rw [hw] at hwork ⊢
  refine ⟨vectorRest_endWord i hwork, rfl, fun h0 hfree e he => ?_, fun hfree e he => ?_, hothers, Nat.or_self _,
    retired_endWord i hwork⟩
  · exact (hbits hfree e).trans (if_pos ⟨h0, he⟩)
  · exact (hbits hfree e).trans (if_neg fun h => he h.2)

/-- A word whose meaning is a mask form writes the bits of the active elements. -/
theorem controlV_maskForm (i : Instr) {s : State} (h : VectorReady s) {d : Nat} (hd : d < 8) (a b m : Nat)
    (f : Bool → Bool → Bool) :
    ∃ t, (.next (controlV s i fun s c => maskForm s c d a b m f) : Res) = .next t ∧
      WroteM s t d (acting s m) (fun e => f (maskBit s.g a e) (maskBit s.g b e)) :=
  ⟨_, congrArg _ (controlV_done i h (maskForm_ready h d a b m f)), wroteM_writeMask i _ _ h.sound hd⟩

theorem exec_maskForms {i : Instr} {d a b m : Nat} {f : Bool → Bool → Bool} (s : State)
    (h : maskForms i = some (d, a, b, m, f)) :
    exec i s = .next (controlV s i fun s c => maskForm s c d a b m f) := by
  cases i
  case mand | mor | mxor | mandn | mnot | mset | mclr => cases h; rfl
  all_goals cases h

/-! ### Counts of mask bits (R291, R296) -/

theorem maskedSet_ready {s : State} (h : VectorReady s) (b m : Nat) (k : List Nat → VOut) :
    maskedSet s (ctxG s) b m k = k ((actingFrom0 s m).filter (maskBit s.g b)) := by
  simp only [maskedSet, sideCheck_whole h.whole, maskClean_sound h.sound, maskPoison_sound h.sound]
  rw [List.find?_eq_none.mpr (by simp)]
  rfl

/-- A word that computes an x register from the set bits among the active elements writes it. -/
theorem controlV_maskedSet (i : Instr) {s : State} (h : VectorReady s) (d : Fin 32) (b m : Nat)
    {k : State → List Nat → VOut} {v : List Nat → Word} (hk : ∀ es, k s es = .done (setX s d (v es))) :
    ∃ s' t, (.next (controlV s i fun s c => maskedSet s c b m (k s)) : Res) = .next t ∧
      VectorRest s s' ∧ s'.g.v = s.g.v ∧ OnlyX s' t d (v ((actingFrom0 s m).filter (maskBit s.g b))) ∧ Retired s t := by
  obtain ⟨s', hrest, hv, honly, hret⟩ := endWord_setX i s d (v ((actingFrom0 s m).filter (maskBit s.g b)))
  exact ⟨s', _, congrArg _ (controlV_done i h ((maskedSet_ready h b m _).trans (hk _))), hrest, hv, honly, hret⟩

/-- The number of the first element listed, or all ones. -/
def firstOrOnes (es : List Nat) : Word := if es = [] then BitVec.allOnes 64 else BitVec.ofNat 64 (es.headD 0)

/-! ### Numbers of elements (R288, R311) -/

theorem generate_ready {s : State} (h : VectorReady s) {d : Nat} (m : Nat) (z : Nat → Int)
    (htag : isInt (vregOf s.g d).tag = true) (hd : DestFits s d (vregOf s.g d).tag) :
    generate s (ctxG s) d m false false (fun e => .int (z e)) =
      .done (writeVals s (ctxG s) d (vregOf s.g d).tag ((acting s m).map fun e => (e, .int (z e))) 0 none) := by
  obtain ⟨h0, hbit, -, hmx, hfl⟩ := isInt_excludes htag
  simp only [generate, tagOf, sideCheck_whole h.whole, mxIndep_ctxG, h0, hbit, hmx, hfl, Bool.false_eq_true, false_and,
    or_self, ↓reduceIte]
  rw [destK_of_fits _ (destOk_ownInt htag) hd (by simp), maskClean_sound h.sound]
  rfl

/-- Integers written into a register of an integer tag are wrapped to its width. -/
theorem filled_writeVals {s : State} (h : VectorReady s) {d : Nat} (hlt : d < 32) (m : Nat) (z : Nat → Int)
    (htag : isInt (vregOf s.g d).tag = true) (hd : DestFits s d (vregOf s.g d).tag) :
    Filled s (writeVals s (ctxG s) d (vregOf s.g d).tag ((acting s m).map fun e => (e, .int (z e))) 0 none) d
      (vregOf s.g d).tag (acting s m) (fun e => wrapN (z e) (cw (vregOf s.g d).tag)) := by
  simp only [writeVals, destTag_of_fits hd, List.map_map, Function.comp_def, wrapTo, convAll_int htag, wrapN_intVal_wrapN]
  exact (filled_writeElems _ h.sound hlt rfl hd.free fun e => lt_vl_of_mem_acting).raiseFlags _ _ rfl

/-- A word that gives integers to the active elements of a register of an integer tag writes them, wrapped to its width. -/
theorem controlV_generate (i : Instr) {s : State} (h : VectorReady s) {d : Nat} (hlt : d < 32) (m : Nat) (z : Nat → Int)
    (htag : isInt (vregOf s.g d).tag = true) (hd : DestFits s d (vregOf s.g d).tag) :
    ∃ t, (.next (controlV s i fun s c => generate s c d m false false fun e => .int (z e)) : Res) = .next t ∧
      WroteV s t d ∧ ElementsKept s t d (vregOf s.g d).tag (acting s m) ∧
      ∀ e ∈ acting s m, elemOf t d e = wrapN (z e) (cw (vregOf s.g d).tag) := by
  obtain ⟨hwrote, hkept, hvals⟩ := (filled_writeVals h hlt m z htag hd).ended i
  refine ⟨_, congrArg _ (controlV_done i h (generate_ready h m z htag hd)), hwrote, hkept, fun e he => ?_⟩
  rw [hvals e he, vw_of_isInt htag, wrapN_mod]

/-- Settles O25: the words by their fields, the element-wise forms by `controlV_maskForm`, the counts by
`controlV_maskedSet`, and the numbers by `controlV_generate`. -/
theorem maskAndIndexForms : Obligations.MaskAndIndexForms := by
  refine ⟨fun w i _ hmajor hi => ?_, fun s hs => ⟨fun i d a b m f hi hd => ?_, fun d b m c => ⟨?_, ?_⟩,
    fun d st m c p htag hd => ⟨?_, ?_⟩⟩⟩
  · obtain ⟨hdec, hwf⟩ := decodeControl_vmask hmajor hi
    obtain ⟨h16, h11, h21, h16z, h11z⟩ := decVmask_fields hdec
    refine ⟨fun hfn => ⟨?_, h21 hfn⟩, h16, h11, h16z, h11z⟩
    have hdest := decVmask_destination hdec hwf hfn
    omega
  · rw [exec_maskForms s hi]
    exact controlV_maskForm i hs hd a b m f
  · exact controlV_maskedSet (.mpopc d b m c) hs d b m (v := fun es => BitVec.ofNat 64 es.length) fun _ => by rfl
  · exact controlV_maskedSet (.mfirst d b m c) hs d b m (v := firstOrOnes) fun es => by cases es <;> rfl
  · rw [← toS_eq_toInt st (by decide), ← toS_eq_toInt p (by decide)]
    obtain ⟨t, he, hwrote, hkept, hvals⟩ := controlV_generate (.vidx d st m c p) hs d.isLt m
      (fun e => toS st 10 + e * toS p 7) htag hd
    exact ⟨t, he, hwrote, hkept, fun e hm => (hvals e hm).trans (wrapN_eq_toNat_ofInt _ _)⟩
  · obtain ⟨t, he, hwrote, hkept, hvals⟩ := controlV_generate (.vpid d m) hs d.isLt m (fun e => e) htag hd
    exact ⟨t, he, hwrote, hkept, fun e hm => (hvals e hm).trans (wrapN_natCast e _)⟩

end Sys2Proof.Proofs.MaskForms
end

section
/-!
PROOFS. Traps that words of the control thread raise by themselves, and the return from a trap (R217, R363, R364, R421,
R422).
-/

namespace Sys2Proof.Proofs.TrapForms

open Sys2Proof Sys2Proof.Machine Sys2Proof.Claims

theorem halts_iff (g : Group) (epc : Word) :
    halts g epc = true ↔ g.tr.handler = 0 ∨ (g.tr.lev = true ∧ epc = g.tr.handler) := by
  simp only [halts, Bool.or_eq_true, Bool.and_eq_true, beq_iff_eq]

theorem trapIllegal_entered {s : State} (h : deliverable s s.g.pc) : TrapEntered s (trapIllegal s) 0x01 s.g.pc s.g.pc :=
  takeTrap_entered s cIllegal _ _ h

/-! ### The return (R364) -/

/-- The level and the pc return to what the trap saved; the word counts as retired, but not in SPCOUNT, for it stands at
steward level. -/
def ReturnedFromTrap (s t : State) : Prop :=
  ∃ arr, OnlyControl { s with g := { s.g with tr := t.g.tr, arrived := arr } } t ∧
    t.g.tr = { s.g.tr with lev := s.g.tr.plev, plev := false } ∧
    t.g.pc = s.g.tr.tepc ∧ t.g.flow = .jumped ∧ t.g.retired = s.g.retired + 1 ∧ t.g.spcount = s.g.spcount

theorem count_spcount_of_steward {g : Group} (h : g.tr.lev = true) : g.count.spcount = g.spcount := if_pos h

/-- To steward level the return goes anywhere, to task level within the code extent. -/
theorem trapReturn_returns {s : State} (hlev : s.g.tr.lev = true)
    (h : s.g.tr.plev = true ∨ inExtent s.g s.g.tr.tepc.toNat = true) : ReturnedFromTrap s (trapReturn s) := by
  have hok : (!s.g.tr.plev && !inExtent s.g s.g.tr.tepc.toNat) = false := by
    rcases h with h | h <;> simp [h]
  simp only [trapReturn, hok, Bool.false_eq_true, ↓reduceIte]
  exact ⟨_, ⟨_, _, _, _, _, _, _, rfl⟩, rfl, rfl, rfl, rfl, count_spcount_of_steward hlev⟩

theorem trapReturn_out_of_extent {s : State} (hplev : s.g.tr.plev = false)
    (hout : inExtent s.g s.g.tr.tepc.toNat = false) : trapReturn s = trap s cFetchBounds s.g.tr.tepc := by
  simp only [trapReturn, hplev, hout, Bool.not_false, Bool.and_self, ↓reduceIte]

theorem exec_tret_steward {s : State} (h : s.g.tr.lev = true) : exec .tret s = .next (trapReturn s) :=
  congrArg _ (if_pos h)

theorem exec_tret_task {s : State} (h : s.g.tr.lev = false) : exec .tret s = .next (trapIllegal s) :=
  congrArg _ (if_neg (Bool.not_eq_true _ ▸ h))

/-- Settles O7: `trap` and a word that is no instruction by `takeTrap_entered` and `takeTrap_halts`, `tret` by its level
and by the level and the pc that it returns to. -/
theorem trapsAndReturn : Obligations.TrapsAndReturn := by
  refine ⟨⟨by decide, fun s hd => ⟨fun c => ?_, ?_⟩, fun c s hh => ?_⟩, fun s => ⟨fun hlev hto => ?_, ?_, ?_⟩⟩
  · exact ⟨_, rfl, takeTrap_entered s cSoftware _ _ hd⟩
  · exact ⟨_, rfl, trapIllegal_entered hd⟩
  · obtain ⟨leaves, he⟩ := takeTrap_halts s cSoftware (BitVec.ofNat 64 c.val) s.g.pc ((halts_iff _ _).mpr hh)
    exact ⟨_, leaves, rfl, he⟩
  · obtain ⟨arr, h⟩ := trapReturn_returns hlev hto
    exact ⟨_, arr, exec_tret_steward hlev, h⟩
  · intro hlev hplev hout hd
    rw [exec_tret_steward hlev, trapReturn_out_of_extent hplev hout]
    exact ⟨_, rfl, takeTrap_entered s cFetchBounds _ _ hd⟩
  · intro hlev hd
    exact ⟨_, exec_tret_task hlev, trapIllegal_entered hd⟩

end Sys2Proof.Proofs.TrapForms
end

section
/-!
PROOFS. Fences, hints, yield, spt and pwlease (R179, R183, R184, R208, R240, R358, R366, R367).
-/

namespace Sys2Proof.Proofs.QuietForms

open Sys2Proof Sys2Proof.Machine Sys2Proof.Claims

/-! ### Orders between streams (R179, R184) -/

theorem reordered_orderStreams (s : State) (p : Stream → Bool) : Reordered s (orderStreams s p) := ⟨_, _, _, _, rfl⟩

/-- A write of the group's streams `p` is ordered. -/
theorem orderStreams_fenced {s : State} {p : Stream → Bool} {r : Stale} (hr : r ∈ (orderStreams s p).pm.stale)
    (hgid : r.gid = s.g.gid) (hp : p r.stream = true) : r.fenced = true := by
  obtain ⟨q, -, rfl⟩ := List.mem_map.mp hr
  by_cases hq : q.gid = s.g.gid ∧ p q.stream = true
  · rw [if_pos hq]
  · rw [if_neg hq] at hgid hp
    exact absurd ⟨hgid, hp⟩ hq

/-- No stream of the group misses a write that is ordered if the group made it. -/
theorem misses_eq_false {w : Who} {r : Stale} (h : r.gid = w.core * 16 + w.slot → r.fenced = true) :
    w.misses r = false := by
  by_cases hgid : r.gid = w.core * 16 + w.slot
  · simp [Who.misses, h hgid]
  · simp [Who.misses, hgid]

/-- Each stream of the group sees the writes of the streams that have been ordered. -/
theorem orderStreams_seen {s : State} {p : Stream → Bool} {w : Who} (hcore : w.core = s.g.pl.core)
    (hslot : w.slot = s.g.pl.slot) {r : Stale} (hr : r ∈ (orderStreams s p).pm.stale) (hp : p r.stream = true) :
    w.misses r = false :=
  misses_eq_false fun hgid => orderStreams_fenced hr (by rw [hgid, hcore, hslot]; rfl) hp

theorem reordered_acquired (s : State) : Reordered s (acquired s) := ⟨_, _, _, _, rfl⟩

theorem acquired_holds (s : State) : Acquired (acquired s) := ⟨rfl, fun _ hr hgid =>
  orderStreams_fenced (s := s) (p := fun _ => true) hr hgid rfl⟩

/-! ### Releases (R183) -/

theorem releaseAt_shape (s : State) (scope : Nat) :
    ∃ st, releaseAt s scope = { s with pm := { s.pm with stale := st } } := by
  unfold releaseAt
  split
  · exact ⟨_, rfl⟩
  · exact ⟨s.pm.stale, rfl⟩

theorem releaseAt_shown {s : State} {scope : Nat} (h : 4 ≤ scope) : ∀ r ∈ (releaseAt s scope).pm.stale, r.shown = true := by
  intro r hr
  rw [releaseAt, if_pos h] at hr
  obtain ⟨q, -, rfl⟩ := List.mem_map.mp hr
  rfl

/-- A release changes no write's group and order. -/
theorem mem_releaseAt {s : State} {scope : Nat} {r : Stale} (hr : r ∈ (releaseAt s scope).pm.stale) :
    ∃ q ∈ s.pm.stale, q.gid = r.gid ∧ q.fenced = r.fenced := by
  unfold releaseAt at hr
  split at hr
  · obtain ⟨q, hq, rfl⟩ := List.mem_map.mp hr
    exact ⟨q, hq, rfl, rfl⟩
  · exact ⟨r, hr, rfl, rfl⟩

theorem fenceRel_shape (s : State) (scope : Nat) :
    ∃ st, fenceRel s scope = { s with pm := { s.pm with stale := st }, g := { s.g with relFence := vecAccesses s } } := by
  obtain ⟨st, h⟩ := releaseAt_shape { s with g := { s.g with relFence := vecAccesses s } } scope
  exact ⟨st, h⟩

theorem reordered_fenceRel {s u : State} (h : Reordered s u) (scope : Nat) : Reordered s (fenceRel u scope) := by
  obtain ⟨_, a, m, _, rfl⟩ := h
  obtain ⟨st, he⟩ := fenceRel_shape _ scope
  exact ⟨st, a, m, _, he⟩

@[simp] theorem fenceRel_g (s : State) (scope : Nat) :
    (fenceRel s scope).g = { s.g with relFence := vecAccesses s } :=
  releaseAt_g _ scope

@[simp] theorem fenceRel_clock (s : State) (scope : Nat) : (fenceRel s scope).clock = s.clock := releaseAt_clock _ scope

theorem fenceRel_keeps_acquired {s : State} (scope : Nat) (h : Acquired s) : Acquired (fenceRel s scope) := by
  obtain ⟨hacq, hfenced⟩ := h
  refine ⟨by simpa using hacq, fun r hr hgid => ?_⟩
  obtain ⟨q, hq, hqgid, hqfenced⟩ := mem_releaseAt hr
  rw [fenceRel_g] at hgid
  exact hqfenced ▸ hfenced q hq (hqgid.trans hgid)

/-! ### Fences (R240) -/

/-- A word that reorders and retires does nothing else. -/
theorem fence_retires {s u : State} (h : Reordered s u) :
    Reordered s u ∧ OnlyControl u (retire u) ∧ Retired s (retire u) := by
  refine ⟨h, ?_⟩
  obtain ⟨st, a, m, rf, rfl⟩ := h
  exact retire_only _

/-- A fence that orders the writes of one stream before the accesses of another one does nothing else. -/
theorem orderStreams_fence (s : State) (writer reader : Stream) :
    ∃ s' t, (.next (retire (orderStreams s (· == writer))) : Res) = .next t ∧ Reordered s s' ∧ OnlyControl s' t ∧
      Retired s t ∧ t.g.acq = s.g.acq ∧ t.g.relFence = s.g.relFence ∧
      ∀ r ∈ t.pm.stale, r.stream = writer → Who.misses { whoG t with stream := reader } r = false := by
  obtain ⟨hre, honly, hret⟩ := fence_retires (reordered_orderStreams s (· == writer))
  refine ⟨_, _, rfl, hre, honly, hret, rfl, rfl, fun r hr hst => ?_⟩
  exact orderStreams_seen (s := s) (p := (· == writer)) rfl rfl hr (beq_iff_eq.mpr hst)

theorem fenceAcq_quiet (s : State) (c : Fin 8) :
    ∃ s' t, exec (.fenceAcq c) s = .next t ∧ Reordered s s' ∧ OnlyControl s' t ∧ Retired s t ∧ Acquired t ∧
      t.g.relFence = s.g.relFence := by
  obtain ⟨hre, honly, hret⟩ := fence_retires (reordered_acquired s)
  exact ⟨_, _, rfl, hre, honly, hret, acquired_holds s, rfl⟩

/-- A release fence after orders that have been made keeps them, marks what the vector stream has outstanding, and shows
the writes at its scope. -/
theorem fenceRel_quiet {s u : State} (h : Reordered s u) (c : Nat) :
    Reordered s (fenceRel u c) ∧ OnlyControl (fenceRel u c) (retire (fenceRel u c)) ∧
      Retired s (retire (fenceRel u c)) ∧ (retire (fenceRel u c)).g.acq = u.g.acq ∧
      (retire (fenceRel u c)).g.relFence = vecAccesses s ∧
      (4 ≤ c → ∀ r ∈ (retire (fenceRel u c)).pm.stale, r.shown = true) := by
  obtain ⟨hre, honly, hret⟩ := fence_retires (reordered_fenceRel h c)
  have hacc : vecAccesses u = vecAccesses s := by obtain ⟨st, a, m, rf, rfl⟩ := h; rfl
  refine ⟨hre, honly, hret, ?_, ?_, releaseAt_shown⟩
  · change (fenceRel u c).g.acq = u.g.acq
    rw [fenceRel_g]
  · change (fenceRel u c).g.relFence = vecAccesses s
    rw [fenceRel_g, ← hacc]

theorem fenceRel_retired_acquired (s : State) (c : Nat) : Acquired (retire (fenceRel (acquired s) c)) :=
  fenceRel_keeps_acquired c (acquired_holds s)

theorem vecStreamBusy_iff (s : State) : vecStreamBusy s = true ↔ s.g.vps ≠ [] ∨ s.g.fldv ≠ none ∨ s.g.vq ≠ [] := by
  simp [vecStreamBusy, or_assoc, Option.isSome_iff_ne_none]

theorem exec_fenceVs_busy {s : State} (h : s.g.vps ≠ [] ∨ s.g.fldv ≠ none ∨ s.g.vq ≠ []) :
    exec .fenceVs s = .next (waitHere s) :=
  congrArg _ (if_pos ((vecStreamBusy_iff s).mpr h))

theorem exec_fenceVs_quiet {s : State} (hvps : s.g.vps = []) (hfldv : s.g.fldv = none) (hvq : s.g.vq = []) :
    exec .fenceVs s = .next (retire (orderStreams s (· == .vector))) := by
  refine congrArg _ (if_neg (mt (vecStreamBusy_iff s).mp ?_))
  simp [hvps, hfldv, hvq]

/-! ### yield and spt (R358, R366) -/

/-- The group is listed once among those that are passed over, and the others as before. -/
theorem mem_passed_yield (passed : List (Nat × List Nat × Word)) (gid : Nat) (back : Word) (p : Nat × List Nat × Word) :
    p ∈ passed.filter (fun p => p.1 != gid) ++ [(gid, [], back)] ↔
      (p ∈ passed ∧ p.1 ≠ gid) ∨ p = (gid, [], back) := by
  simp only [List.mem_append, List.mem_filter, bne_iff_ne, List.mem_singleton]

/-- The state in which an `spt` leaves the group: retired, SPCOUNT at 0, and the safe point being taken as given. -/
def sptRetired (s : State) (point : Option (Nat × Word)) : State :=
  { retire s with g := { (retire s).g with spcount := 0, atSpt := point } }

/-- An index below the table's count retires; only at task level may a request or a growth take the safe point. -/
theorem exec_spt_retires {s : State} {i : Fin 131072} (h : i.val < (sptOf s).2) :
    ∃ point, exec (.spt i) s = .next (sptRetired s point) ∧
      (point = s.g.atSpt ∨ point = some (i.val, s.g.pc)) ∧ (s.g.tr.lev = true → point = s.g.atSpt) := by
  change ∃ point, execSpt i s = .next (sptRetired s point) ∧ _
  simp only [execSpt, if_neg (Nat.not_le.mpr h)]
  split
  next htake =>
    refine ⟨_, rfl, .inr rfl, fun hlev => ?_⟩
    have htask : (retire s).g.tr.lev = false := by
      simp only [Bool.and_eq_true, Bool.not_eq_true'] at htake
      exact htake.1.1
    exact absurd (htask.symm.trans hlev) Bool.false_ne_true
  next => exact ⟨s.g.atSpt, rfl, .inl rfl, fun _ => rfl⟩

theorem sptRetired_only (s : State) (point : Option (Nat × Word)) :
    OnlyControl { s with g := { s.g with atSpt := point } } (sptRetired s point) :=
  ⟨_, _, _, _, _, _, _, rfl⟩

/-! ### pwlease (R367) -/

/-- The request for a lease of a kind that a group puts to the steward of its die. -/
def leaseRequest (s : State) (kind cycles : Nat) : Leave :=
  ⟨dieOf s.g.pl.core, s.g.gid, none, none, some (kind, cycles), leaseUnits kind, false⟩

/-- The requests and leases after a pwlease: those of the group's kind end, and a number of cycles asks for a new one. -/
def leavesAfterLease (s : State) (kind cycles : Nat) : List Leave :=
  s.eng.leaves.filter (fun l => !isLease l s.g.gid kind) ++ if cycles = 0 then [] else [leaseRequest s kind cycles]

theorem mem_leavesAfterLease {s : State} {kind cycles : Nat} {l : Leave} (hl : l ∈ s.eng.leaves)
    (hother : isLease l s.g.gid kind = false) : l ∈ leavesAfterLease s kind cycles :=
  List.mem_append_left _ (List.mem_filter.mpr ⟨hl, by rw [hother]; rfl⟩)

theorem leaseRequest_mem {s : State} {kind cycles : Nat} (h : cycles ≠ 0) :
    leaseRequest s kind cycles ∈ leavesAfterLease s kind cycles :=
  List.mem_append_right _ (by rw [if_neg h]; exact List.mem_singleton_self _)

/-- With no reserved bit set, a pwlease leaves the requests and leases as `leavesAfterLease` gives them, and retires. -/
theorem exec_pwlease_retires {s : State} {a : Fin 32} (hp : poisonedX s [a.val] = none)
    (hv : (getX s a).toNat < 2 ^ 34) :
    exec (.pwlease a) s = .next (retire { s with eng := { s.eng with
      leaves := leavesAfterLease s ((getX s a).toNat / 2 ^ 32) (min ((getX s a).toNat % 2 ^ 32) 1048576) } }) := by
  have hreserved : bits (getX s a).toNat 63 34 = 0 := by simp only [bits, Nat.shiftRight_eq_div_pow]; omega
  have hkind : bits (getX s a).toNat 33 32 = (getX s a).toNat / 2 ^ 32 := by
    simp only [bits, Nat.shiftRight_eq_div_pow]; omega
  have hcycles : bits (getX s a).toNat 31 0 = (getX s a).toNat % 2 ^ 32 := by
    simp only [bits, Nat.shiftRight_eq_div_pow]; omega
  change execPwlease a s = _
  simp only [execPwlease, readingX_clean s _ _ hp, hreserved, hkind, hcycles, ne_eq, not_true_eq_false, ↓reduceIte]
  unfold leavesAfterLease
  split
  next => rw [List.append_nil]; rfl
  next => rfl

/-- Settles O8: the fences by `orderStreams_fence`, `fenceAcq_quiet` and `fenceRel_quiet`, an spt by `exec_spt_retires`, a
pwlease by `exec_pwlease_retires`; a hint and a yield only retire. -/
theorem quietForms : Obligations.QuietForms := by
  refine ⟨by decide, fun s => ⟨?_, fun c => ⟨fenceAcq_quiet s c, ?_, ?_⟩, ?_, fun h => exec_fenceVs_busy h,
    fun h => ⟨_, rfl, retire_only s⟩, ?_, fun i hi => ?_, fun a hp hv => ?_⟩⟩
  · rintro i (rfl | rfl) <;> exact orderStreams_fence s .scalar .vector
  · obtain ⟨hre, honly, hret, hacq, hrel, hshown⟩ := fenceRel_quiet ⟨_, _, _, _, rfl⟩ c
    exact ⟨_, _, rfl, hre, honly, hret, hacq, hrel, hshown⟩
  · obtain ⟨hre, honly, hret, -, hrel, hshown⟩ := fenceRel_quiet (reordered_acquired s) c
    exact ⟨_, _, rfl, hre, honly, hret, fenceRel_retired_acquired s c, hrel, hshown⟩
  · intro hvps hfldv hvq
    rw [exec_fenceVs_quiet hvps hfldv hvq]
    exact orderStreams_fence s .vector .scalar
  · obtain ⟨honly, hret⟩ := retire_only
      { s with passed := s.passed.filter (fun p => p.1 != s.g.gid) ++ [(s.g.gid, [], s.cycle + 16)] }
    exact ⟨_, rfl, honly, hret, mem_passed_yield s.passed s.g.gid (s.cycle + 16)⟩
  · obtain ⟨point, he, hpoint, hsteward⟩ := exec_spt_retires hi
    exact ⟨_, point, he, sptRetired_only s point, rfl, rfl, rfl, hpoint, hsteward⟩
  · obtain ⟨honly, hret⟩ := retire_only { s with eng := { s.eng with
      leaves := leavesAfterLease s ((getX s a).toNat / 2 ^ 32) (min ((getX s a).toNat % 2 ^ 32) 1048576) } }
    refine ⟨_, _, exec_pwlease_retires hp hv, honly, hret, fun l => mem_leavesAfterLease, fun hc => ?_⟩
    exact ⟨_, leaseRequest_mem (by omega), rfl, rfl⟩

end Sys2Proof.Proofs.QuietForms
end
